-- ==== Sys2Proof/Word.lean ====
section
/-! DEFINITION. The words of the machine and the one shape of every sparse collection. -/

namespace Sys2Proof

/-- A byte of memory. -/
abbrev Byte := BitVec 8

/-- A 32-bit word: one lane of a vector register, one scalar instruction word. -/
abbrev Word := BitVec 32

/-- A 64-bit word: a scalar register, a system register, a virtual address. -/
abbrev DWord := BitVec 64

/-- A sparse map from natural keys: pairs in strictly rising key order. The operations
are in `Machine/Map.lean`, the form is `SMap.wf` there. -/
abbrev SMap (α : Type) := List (Nat × α)

end Sys2Proof
end

