-- ==== Sys2Proof/Syntax.lean ====
section
/-! DEFINITION. The instructions: every row of the opcode table, one constructor each, with the
fields its encoding holds (04 Instruction formats, 10 Table 10-5, 22 Table 22-3) or, for a device
step, the agent it concerns. -/

namespace Sys2Proof

/-- Arithmetic type codes (Table 04-7). -/
inductive LTy where
  | b32 | i32 | f32 | f64 | b64 | i64 | f16x2 | bf16x2 | e4m3x4 | e5m2x4 | i8x4 | b8x4 | i16x2 | b16x2
  deriving DecidableEq, Repr

/-- Memory sizes (Table 04-7). -/
inductive MSize where
  | b8 | i8 | b16 | i16 | b32 | b64 | b128
  deriving DecidableEq, Repr

/-- Cross-lane modes of operand a (Table 07-3). -/
inductive XMode where
  | none | bcast | rot | xor | up | dn | quad
  deriving DecidableEq, Repr

/-- Rounding modes (Table 04-5; R82). -/
inductive Rnd where
  | rne | rtz | rup | rdn
  deriving DecidableEq, Repr

/-- Memory orders (Table 04-6). -/
inductive Order where
  | rlx | acq | rel | sc
  deriving DecidableEq, Repr

/-- Scopes (Table 13-2). -/
inductive Scope where
  | wave | core | cluster | part | pod
  deriving DecidableEq, Repr

/-- Matrix operand formats (Table 10-6, fmtA and fmtB). -/
inductive MFmt where
  | fp4 | e4m3 | e5m2 | f16 | bf16 | f64
  deriving DecidableEq, Repr

/-- MEPI output formats (Table 10-6, ofmt). -/
inductive OFmt where
  | f32 | f16 | bf16 | e4m3 | e5m2 | f64
  deriving DecidableEq, Repr

/-- Predicate fields of a lane instruction (Table 04-4). -/
structure Pred where
  pe : Bool
  pn : Bool
  pi : BitVec 4
  deriving DecidableEq, Repr

/-- Source of operand b (bsel and vb, Table 04-4; the immediate of R65). -/
inductive BSrc where
  | vec (r : BitVec 10)
  | scal (r : BitVec 8)
  | imm (x : BitVec 32)
  | queue (q : BitVec 5)
  deriving DecidableEq, Repr

/-- Source of operand c (csel and vc, Table 04-5). -/
inductive CSrc where
  | vec (r : BitVec 10)
  | scal (r : BitVec 8)
  | queue (q : BitVec 5)
  deriving DecidableEq, Repr

/-- Word2 modifiers (Table 04-5). -/
structure Mods where
  aux10 : BitVec 10
  aux4 : BitVec 4
  sat : Bool
  rnd : Rnd
  negc : Bool
  negb : Bool
  nega : Bool
  absa : Bool
  fs : Bool
  xarg : BitVec 5
  xmode : XMode
  deriving DecidableEq, Repr

/-- The neutral modifiers, which an immediate form has (R65). -/
def Mods.neutral : Mods :=
  { aux10 := 0, aux4 := 0, sat := false, rnd := .rne, negc := false, negb := false,
    nega := false, absa := false, fs := false, xarg := 0, xmode := .none }

/-- A lane instruction of the arithmetic form. -/
structure LArith where
  stall : BitVec 4
  pred : Pred
  ty : LTy
  vd : BitVec 10
  va : BitVec 10
  b : BSrc
  c : CSrc
  m : Mods
  deriving DecidableEq, Repr

/-- Base of a lane memory address (R66, R218). -/
inductive MBase where
  | vec (r : BitVec 10)
  | scal (r : BitVec 8)
  deriving DecidableEq, Repr

/-- A lane instruction of the memory form (Table 04-6). -/
structure LMem where
  stall : BitVec 4
  pred : Pred
  size : MSize
  vd : BitVec 10
  va : BitVec 10
  vc : BitVec 10
  base : MBase
  off : BitVec 20
  aop : BitVec 5
  order : Order
  scope : Scope
  deriving DecidableEq, Repr

/-- Source of matrix operand B (Table 10-5). -/
inductive MSrc where
  | record (o : BitVec 4)
  | slice (s : BitVec 8)
  deriving DecidableEq, Repr

/-- Fields of MMA and MMAS (Tables 10-5, 10-6). -/
structure LMma where
  stall : BitVec 4
  m : BitVec 2
  ra : BitVec 4
  b : MSrc
  shape : BitVec 8
  sbs : BitVec 8
  fmtA : MFmt
  fmtB : MFmt
  deriving DecidableEq, Repr

/-- Fields of MRD (`v` is vd, `sd` the step destination) and of MWR (`v` is va, `sd` is 0). -/
structure LMrw where
  stall : BitVec 4
  pred : Pred
  v : BitVec 10
  sd : BitVec 8
  m : BitVec 2
  cnt : BitVec 3
  col : BitVec 7
  rblk : BitVec 2
  deriving DecidableEq, Repr

/-- Fields of OSTO (`v` is va) and of OLOD (`v` is vb). -/
structure LRec where
  stall : BitVec 4
  pred : Pred
  o : BitVec 4
  v : BitVec 10
  off : BitVec 8
  cnt : BitVec 4
  stride : BitVec 16
  deriving DecidableEq, Repr

/-- Fields of MEPI. -/
structure LEpi where
  stall : BitVec 4
  pred : Pred
  m : BitVec 2
  va : BitVec 10
  scale : BitVec 8
  shape : BitVec 8
  sfold : BitVec 8
  sat : Bool
  fold : Bool
  clr : Bool
  relu : Bool
  ofmt : OFmt
  rblk : BitVec 2
  deriving DecidableEq, Repr

/-- A packet header but for its opcode (Table 22-2): `r1` and `r0` are the bits the table
gives as 0, [63:48] and [31:24], which a packet may carry (it is then rejected, R376). -/
structure Hdr where
  r1 : BitVec 16
  ctx : BitVec 16
  r0 : BitVec 8
  len : BitVec 8
  seq : BitVec 64
  deriving DecidableEq, Repr

/-- What a remote die or the host asks for at an address. -/
inductive AccKind where
  | load
  | store (data : BitVec 64)
  | atomic (aop : BitVec 5) (data : BitVec 64)
  deriving DecidableEq, Repr

/-- A request that arrives from another die (R214). -/
structure RemoteReq where
  die : BitVec 12
  ctx : BitVec 16
  va : BitVec 64
  size : MSize
  kind : AccKind
  sc : Bool
  push : Option (BitVec 16 × List Byte) := none
  deriving DecidableEq, Repr

/-- A host access over the fabric (R374): by physical address when `phys`. -/
structure HostAcc where
  ctx : BitVec 16
  phys : Bool
  addr : BitVec 64
  size : MSize
  kind : AccKind
  deriving DecidableEq, Repr

/-- One row of a route table (R381): a DIE value and the chip number it stands for, their fabric address and flow, and the
fabric address of each endpoint of that die, by CTX (R374). The widths of an address and a flow are the model's (log 102). -/
structure Route where
  die : BitVec 12
  chip : BitVec 12
  addr : BitVec 64
  flow : BitVec 16
  ends : List (BitVec 16 × BitVec 64)
  deriving DecidableEq, Repr

/-- Every row of the opcode table. A device step that concerns one agent of several takes no
operand here: the agenda entry that runs it names the agent (`State.target`). -/
inductive Instr where
  -- scalar register arithmetic (R109, R110, R111)
  | add (d a b : BitVec 8)
  | sub (d a b : BitVec 8)
  | and (d a b : BitVec 8)
  | or (d a b : BitVec 8)
  | xor (d a b : BitVec 8)
  | shl (d a b : BitVec 8)
  | shr (d a b : BitVec 8)
  | sar (d a b : BitVec 8)
  | mul (d a b : BitVec 8)
  | mulh (d a b : BitVec 8)
  | mulhu (d a b : BitVec 8)
  | andn (d a b : BitVec 8)
  | min (d a b : BitVec 8)
  | max (d a b : BitVec 8)
  | minu (d a b : BitVec 8)
  | maxu (d a b : BitVec 8)
  | popc (d a : BitVec 8)
  | clz (d a : BitVec 8)
  | ctz (d a : BitVec 8)
  | brev (d a : BitVec 8)
  | sel (d a b : BitVec 8) (n : BitVec 2)
  -- immediate arithmetic (R112, R113, R114)
  | addi (d a : BitVec 8) (i : BitVec 10)
  | andi (d a : BitVec 8) (i : BitVec 10)
  | ori (d a : BitVec 8) (i : BitVec 10)
  | xori (d a : BitVec 8) (i : BitVec 10)
  | shli (d a : BitVec 8) (n : BitVec 6)
  | shri (d a : BitVec 8) (n : BitVec 6)
  | sari (d a : BitVec 8) (n : BitVec 6)
  | roti (d a : BitVec 8) (n : BitVec 6)
  | muli (d a : BitVec 8) (i : BitVec 10)
  | movz (d : BitVec 8) (h : BitVec 2) (i : BitVec 16)
  | movk (d : BitVec 8) (h : BitVec 2) (i : BitVec 16)
  -- comparisons and condition logic (R115, R116)
  | cmp (d : BitVec 3) (c : BitVec 5) (a b : BitVec 8)
  | cmpi (d : BitVec 3) (c : BitVec 5) (a : BitVec 8) (i : BitVec 10)
  | clog (d a b : BitVec 3) (t : BitVec 4)
  -- branches and calls (R159, R160, R162)
  | brc (n : BitVec 1) (c : BitVec 3) (o : BitVec 22)
  | call (o : BitVec 22)
  | jmpr (a : BitVec 8)
  | callr (a : BitVec 8)
  -- enqueue and waits (R163 to R166, R119)
  | lrun (n : BitVec 6) (i : BitVec 20)
  | lnext (n : BitVec 6)
  -- masks, predicates, loops and lane reads (R167 to R170)
  | mpush (p : BitVec 8)
  | msets (a : BitVec 8)
  | mget (d : BitVec 8)
  | ballot (d p : BitVec 8)
  | vpset (a p : BitVec 8)
  | tloop (v : BitVec 10) (o : BitVec 16)
  | srfl (d : BitVec 8) (v : BitVec 10)
  | slane (d : BitVec 8) (v : BitVec 10) (a : BitVec 8)
  -- scalar memory (R223, R224, R241)
  | sld (d a : BitVec 8) (o : BitVec 10)
  | sldw (d a : BitVec 8) (o : BitVec 10)
  | sst (s a : BitVec 8) (o : BitVec 10)
  | sstw (s a : BitVec 8) (o : BitVec 10)
  | saadd (d a b : BitVec 8) (o : BitVec 2)
  | saswp (d a b : BitVec 8) (o : BitVec 2)
  | sacas (d a b : BitVec 8) (o : BitVec 2)
  | samaxu (d a b : BitVec 8) (o : BitVec 2)
  | fence (s : BitVec 3) (o : BitVec 2) (a b : BitVec 6)
  -- system registers and TRAP (R117, R118)
  | srd (d : BitVec 8) (r : BitVec 18)
  | swr (s : BitVec 8) (r : BitVec 18)
  | blinktrig (s : BitVec 8)
  | trap (i : BitVec 18)
  -- barriers (R171)
  | bar (g a : BitVec 8)
  | bara (g a : BitVec 8)
  | barw (g : BitVec 8)
  -- operand records (R181 to R183)
  | oresa (d a : BitVec 8) (n : BitVec 4)
  | oresb (d a : BitVec 8) (n : BitVec 4)
  | orel (n : BitVec 4)
  | orec (d : BitVec 8) (n : BitVec 4)
  -- tasks (R306 to R309)
  | tsubmit (d a : BitVec 8)
  | tsignal (a : BitVec 8)
  | rtake (d a : BitVec 8)
  | tcancel (a : BitVec 8)
  -- incumbents (R348)
  | incup (d a b : BitVec 8)
  | incrd (d a : BitVec 8)
  | bndchk (d a b : BitVec 8)
  | incrst (a : BitVec 8)
  -- queues and streams (R274, R277)
  | qbind (s : BitVec 8) (q : BitVec 5)
  | qcnt (s : BitVec 8) (q : BitVec 5)
  | qpushs (s : BitVec 8) (q : BitVec 5)
  | qpops (s : BitVec 8) (q : BitVec 5)
  | gcfg (s : BitVec 8) (g : BitVec 3)
  | gstart (g : BitVec 3)
  | gstop (g : BitVec 3)
  | gstat (s : BitVec 8) (g : BitVec 3)
  -- lane integer (Table 07-4)
  | vadd (x : LArith)
  | vsub (x : LArith)
  | vmul (x : LArith)
  | vmulh (x : LArith)
  | vmulhu (x : LArith)
  | vmad (x : LArith)
  | vand (x : LArith)
  | vor (x : LArith)
  | vxor (x : LArith)
  | vandn (x : LArith)
  | vshl (x : LArith)
  | vshr (x : LArith)
  | vsar (x : LArith)
  | vmin (x : LArith)
  | vmax (x : LArith)
  | vminu (x : LArith)
  | vmaxu (x : LArith)
  | vpopc (x : LArith)
  | vclz (x : LArith)
  | vbrev (x : LArith)
  | vbfe (x : LArith)
  | vbfi (x : LArith)
  | vcmp (x : LArith)
  | vsel (x : LArith)
  | vmov (x : LArith)
  | vadd64 (x : LArith)
  | vsub64 (x : LArith)
  | vmul64 (x : LArith)
  | vshl64 (x : LArith)
  | vshr64 (x : LArith)
  | vlaneid (x : LArith)
  | vmix (x : LArith)
  -- lane floating point (Table 08-1)
  | vfadd (x : LArith)
  | vfsub (x : LArith)
  | vfmul (x : LArith)
  | vfma (x : LArith)
  | vfmin (x : LArith)
  | vfmax (x : LArith)
  | vfcmp (x : LArith)
  | vfdiv (x : LArith)
  | vfsqrt (x : LArith)
  | vfrcp (x : LArith)
  | vfrsq (x : LArith)
  | vexp2 (x : LArith)
  | vlog2 (x : LArith)
  | vsinpi (x : LArith)
  | vcospi (x : LArith)
  | vfrnd (x : LArith)
  | vfclass (x : LArith)
  | vfldexp (x : LArith)
  | vfdot2 (x : LArith)
  | vfdot4 (x : LArith)
  -- conversions (R147 to R150)
  | vcvt (x : LArith)
  | vcvtpk (x : LArith)
  | vqblk (x : LArith)
  | vdqblk (x : LArith)
  -- cross-lane (Table 08-3)
  | vshfl (x : LArith)
  | vscan (x : LArith)
  | vradd (x : LArith)
  | vrmin (x : LArith)
  | vrmax (x : LArith)
  | vcompact (x : LArith)
  | vmatch (x : LArith)
  | vprank (x : LArith)
  -- lane memory (Table 12-4)
  | vld (x : LMem)
  | vst (x : LMem)
  | vldc (x : LMem)
  | vstc (x : LMem)
  | vldro (x : LMem)
  | vatom (x : LMem)
  | vcas (x : LMem)
  | vpref (x : LMem)
  -- lane queues, node records and rays (R275, R280, Table 18-4)
  | vqpush (x : LArith)
  | vqpop (x : LArith)
  | wemit (x : LArith)
  | rspawn (x : LArith)
  | rcont (x : LArith)
  | racc (x : LArith)
  -- matrix (Table 10-5)
  | mma (x : LMma)
  | mmas (x : LMma) (orm : BitVec 4)
  | mrd (x : LMrw)
  | mwr (x : LMrw)
  | mzero (stall : BitVec 4) (m : BitVec 2)
  | mwait (stall : BitVec 4)
  | osto (x : LRec)
  | olod (x : LRec)
  | mepi (x : LEpi)
  -- lane control (R173, R174)
  | vnop (stall : BitVec 4)
  | vtrapif (x : LArith)
  -- Jenrid commands (Table 22-3)
  | nop (h : Hdr)
  | ctxcfg (h : Hdr) (handler lbase rt spill w6 tmpl : BitVec 64)
  | launch (h : Hdr) (desc argb w4 groups : BitVec 64)
  | graph (h : Hdr) (desc argb w4 groups nodes w7 : BitVec 64)
  | task (h : Hdr) (r0 r1 r2 r3 r4 r5 r6 r7 : BitVec 64)
  | signal (h : Hdr) (idx w3 : BitVec 64)
  | cancelLaunch (h : Hdr) (w2 seq : BitVec 64)
  | cancelTask (h : Hdr) (w2 idx : BitVec 64)
  | frame (h : Hdr) (desc w3 : BitVec 64)
  | mapSetTableBase (h : Hdr) (w2 base w4 w5 : BitVec 64)
  | mapWriteEntry (h : Hdr) (w2 addr entry w5 : BitVec 64)
  | mapMigrate (h : Hdr) (w2 page pa w5 : BitVec 64)
  | copy (h : Hdr) (start off : BitVec 64)
  | fenceCommand (h : Hdr)
  | codecwb (h : Hdr) (page count : BitVec 64)
  | countrdBound (h : Hdr) (w2 w3 buf w5 : BitVec 64)
  | countrdCodec (h : Hdr) (w2 page buf w5 : BitVec 64)
  | countrdMeridian (h : Hdr) (w2 w3 buf w5 : BitVec 64)
  | countrdFlush (h : Hdr) (w2 j buf w5 : BitVec 64)
  | blink (h : Hdr) (ctl thr : BitVec 64)
  | snapread (h : Hdr) (buf bytes : BitVec 64)
  | capread (h : Hdr) (w2 buf : BitVec 64)
  | faultansResume (h : Hdr) (id w3 : BitVec 64)
  | faultansFail (h : Hdr) (id w3 : BitVec 64)
  | switch (h : Hdr) (area w3 : BitVec 64)
  | restore (h : Hdr) (area w3 : BitVec 64)
  | ringrst (h : Hdr) (w2 head seq w5 : BitVec 64)
  | power (h : Hdr) (w2 w3 : BitVec 64)
  | partcfg (h : Hdr) (w2 mask w4 w5 : BitVec 64)
  | image (h : Hdr) (addr w3 : BitVec 64)
  | attest (h : Hdr) (buf w3 n0 n1 n2 n3 n4 n5 n6 n7 : BitVec 64)
  -- outside every format (R59, R381)
  | illegalScalarWord (w : BitVec 32)
  | routeTableProgram (rows : List Route) (anchor : BitVec 12)
  -- device steps that carry data (what arrives from outside, or an aperture store)
  | remoteRequest (r : RemoteReq)
  | copyStart (w : Nat) (va value tmpl : BitVec 64)
  | kick (w : Nat) (va value : BitVec 64)
  | codecMerge (ctx : Nat) (va data : BitVec 64)
  | powerWindow (watts : Nat)
  | recoveryFetch (image : List Byte)
  | blinkMessage (p : Nat) (tag : BitVec 16)
  | unreliablePacketDiscard (port : BitVec 3)
  | hostAccess (h : HostAcc)
  | doorbell (ctx : BitVec 16) (value : BitVec 64)
  -- control, without operands (R160, R162, R164 to R167, R119)
  | ret
  | exit
  | lwait
  | yield
  | kpoint
  | snop
  | melse
  | mpop
  | mrest
  -- device steps: the agent each concerns is `State.target`
  -- landing, ordering and scheduling steps
  | laneResultLand
  | variableWriteLand
  | loadDataReturn
  | scOperationPerform
  | llsDecay
  | starvation
  | yieldWindowEnd
  -- placement and the Orrery
  | workgroupPlacement
  | coopReserve
  | wavePlace
  | admission
  | deal
  | dispatch
  | finderProbe
  | probeServe
  | sweepVisit
  | incumbentPropagate
  | coreGate
  | coreWake
  | corePowerUp
  -- matrix engines, copy and transform engines
  | matrixOpStart
  | matrixStep
  | subnormalAssist
  | matrixOpFinish
  | recordRelease
  | copyJobBegin
  | copyJobComplete
  | cardTake
  | cardComplete
  -- queues, streams and nodes
  | remotePushServe
  | queueWaitServe
  | streamFiring
  | nodeWaveLaunch
  | nodeWaveTimeout
  -- rays
  | traversalBatchDeal
  | traversalBinTimeout
  | prefetchTimeout
  | traversalDone
  | shadingWaveForm
  | shadingBinTimeout
  | jamRule
  | spillReturn
  | frameDrain
  -- codec, migration, saving, power, firmware, Blink, host
  | codecEncode
  | migration
  | waveSave
  | preemptTimeout
  | dieBoot
  | blinkPin
  | blinkHoldoffEnd
  | ringHalt
  | commandComplete
  deriving DecidableEq, Repr

end Sys2Proof
end

