-- ==== Sys2Proof/WellFormed.lean ====
section
/-! DEFINITION. The well-formed instructions: every condition of R61, R69 and the instructions'
entries that the words alone decide. What depends on the wave (V, the accumulator binding, the
episode) is checked at enqueue, by `laneLegal` in `Machine/Control.lean`. -/

namespace Sys2Proof

/-- The 64-bit types, whose operands are register pairs (R122). -/
def LTy.wide : LTy → Bool
  | .f64 | .b64 | .i64 => true
  | _ => false

/-- The floating-point types (Table 04-7). -/
def LTy.isFloat : LTy → Bool
  | .f32 | .f64 | .f16x2 | .bf16x2 | .e4m3x4 | .e5m2x4 => true
  | _ => false

/-- The signed integer types (R130). -/
def LTy.isSigned : LTy → Bool
  | .i32 | .i64 | .i8x4 | .i16x2 => true
  | _ => false

/-- Elements of a type (R78). -/
def LTy.elems : LTy → Nat
  | .f16x2 | .bf16x2 | .i16x2 | .b16x2 => 2
  | .e4m3x4 | .e5m2x4 | .i8x4 | .b8x4 => 4
  | _ => 1

/-- Bits of one element of a type (R130). -/
def LTy.width : LTy → Nat
  | .b32 | .i32 | .f32 => 32
  | .f64 | .b64 | .i64 => 64
  | .f16x2 | .bf16x2 | .i16x2 | .b16x2 => 16
  | .e4m3x4 | .e5m2x4 | .i8x4 | .b8x4 => 8

/-- Codes of the arithmetic column of Table 04-7. -/
def LTy.code : LTy → Nat
  | .b32 => 0 | .i32 => 1 | .f32 => 2 | .f64 => 3 | .b64 => 4 | .i64 => 5 | .f16x2 => 6
  | .bf16x2 => 7 | .e4m3x4 => 8 | .e5m2x4 => 9 | .i8x4 => 10 | .b8x4 => 11 | .i16x2 => 12
  | .b16x2 => 13

/-- The type of a code of Table 04-7. -/
def LTy.ofCode : Nat → Option LTy
  | 0 => some .b32 | 1 => some .i32 | 2 => some .f32 | 3 => some .f64 | 4 => some .b64
  | 5 => some .i64 | 6 => some .f16x2 | 7 => some .bf16x2 | 8 => some .e4m3x4
  | 9 => some .e5m2x4 | 10 => some .i8x4 | 11 => some .b8x4 | 12 => some .i16x2
  | 13 => some .b16x2 | _ => none

/-- How an arithmetic instruction uses its destination field. -/
inductive DUse where
  | none | typed | single | pred | queue
  deriving DecidableEq, Repr

/-- How it uses operand a: by its type, as one register, or as a range of registers. -/
inductive AUse where
  | none | typed | single
  deriving DecidableEq, Repr

/-- How it uses operand b: by its type, always as 32 bits, never, or (VMOV) instead of a. -/
inductive BUse where
  | none | typed | word | wordNoQueue | popOnly | mov
  deriving DecidableEq, Repr

/-- How it uses operand c: as a typed operand, as one 32-bit register, as a predicate index in
vc[3:0], only when aux10[0] = 1 (VCVT), only as one vector register (RACC), or never. -/
inductive CUse where
  | none | typed | word | pred | stoch | vecOnly
  deriving DecidableEq, Repr

/-- The acceptance row of an arithmetic-form instruction: the columns of Tables 07-4, 08-1, 08-3
and of the entries of R147 to R150, R174, R275, R280 and R331. -/
structure Row where
  types : List LTy
  d : DUse := .typed
  a : AUse := .typed
  b : BUse := .typed
  c : CUse := .none
  /-- `.sat` accepted -/
  sat : Bool := false
  /-- a rounding mode other than RNE accepted -/
  rnd : Bool := false
  /-- a rounding mode accepted with a float type only -/
  rndFloat : Bool := false
  /-- absa and nega accepted -/
  signA : Bool := false
  /-- negb accepted -/
  signB : Bool := false
  /-- negc accepted -/
  signC : Bool := false
  /-- the sign modifiers only with a signed integer type (Table 07-4) -/
  signInt : Bool := false
  /-- the sign modifiers only with a signed or a float type (R151) -/
  signCross : Bool := false
  /-- cross-lane mode and fill-self accepted -/
  cross : Bool := true
  /-- aux4 up to this code -/
  aux4 : Nat := 0
  /-- aux10 up to this value -/
  aux10 : Nat := 0
  deriving DecidableEq, Repr

/-- A register field that holds an operand of a type: even for a pair (R67, R69). -/
def pairOk (ty : LTy) (r : BitVec 10) : Bool := !ty.wide || r.getLsbD 0 == false

/-- The predicate fields: pe = 0 requires pi = 0 and pn = 0 (R69, item 6). -/
def Pred.wf (p : Pred) : Bool := p.pe || (!p.pn && p.pi == 0)

/-- The modifiers against a row (R69, item 8). -/
def Mods.wf (m : Mods) (r : Row) (ty : LTy) : Bool :=
  let sign := (!r.signInt || ty.isSigned) && (!r.signCross || ty.isSigned || ty.isFloat)
  (m.xmode != .none || (m.xarg == 0 && !m.fs)) &&
  (r.cross || m.xmode == .none) &&
  (!m.sat || r.sat) &&
  (m.rnd == .rne || (r.rnd && (!r.rndFloat || ty.isFloat))) &&
  ((!m.absa && !m.nega) || (r.signA && sign)) &&
  (!m.negb || (r.signB && sign)) &&
  (!m.negc || (r.signC && sign)) &&
  decide (m.aux4.toNat ≤ r.aux4) && decide (m.aux10.toNat ≤ r.aux10)

/-- The destination field against a row (R69, items 3 to 5). -/
def DUse.ok (u : DUse) (ty : LTy) (vd : BitVec 10) : Bool :=
  match u with
  | .none => vd == 0
  | .typed => pairOk ty vd
  | .single => true
  | .pred => decide (vd.toNat < 16)
  | .queue => decide (vd.toNat < 32)

/-- The a field against a row. -/
def AUse.ok (u : AUse) (ty : LTy) (va : BitVec 10) : Bool :=
  match u with
  | .none => va == 0
  | .typed => pairOk ty va
  | .single => true

/-- The b operand against a row; VMOV takes a when b is a vector (R136). -/
def BUse.ok (u : BUse) (x : LArith) : Bool :=
  match u, x.b with
  | .none, .vec r => r == 0
  | .none, _ => false
  | .typed, .vec r => pairOk x.ty r
  | .typed, _ => true
  | .word, _ => true
  | .wordNoQueue, .queue _ => false
  | .wordNoQueue, _ => true
  | .popOnly, .queue _ => true
  | .popOnly, _ => false
  | .mov, .vec r => r == 0
  | .mov, _ => x.va == 0 && x.m.xmode == .none

/-- The c operand against a row. -/
def CUse.ok (u : CUse) (x : LArith) : Bool :=
  match u, x.c with
  | .none, .vec r => r == 0
  | .none, _ => false
  | .typed, .vec r => pairOk x.ty r
  | .typed, _ => true
  | .word, _ => true
  | .pred, .vec r => decide (r.toNat < 16)
  | .pred, _ => false
  | .stoch, .vec r => x.m.aux10 != 0 || r == 0
  | .stoch, _ => x.m.aux10 != 0
  | .vecOnly, .vec _ => true
  | .vecOnly, _ => false

/-- With an immediate b every modifier is neutral and c is a vector register (R65). -/
def LArith.immOk (x : LArith) : Bool :=
  match x.b with
  | .imm _ => x.m == Mods.neutral && (match x.c with | .vec _ => true | _ => false)
  | _ => true

/-- An arithmetic-form instruction against its row. -/
def LArith.wf (x : LArith) (r : Row) : Bool :=
  x.pred.wf && r.types.contains x.ty && x.m.wf r x.ty && r.d.ok x.ty x.vd &&
  r.a.ok x.ty x.va && r.b.ok x && r.c.ok x && x.immOk

namespace Rows

/-- Types of VADD and VSUB. -/
def addTypes : List LTy := [.i32, .b32, .i16x2, .b16x2, .i8x4, .b8x4]
/-- Types of VFADD to VFMAX. -/
def floatTypes : List LTy := [.f32, .f64, .f16x2, .bf16x2, .e4m3x4, .e5m2x4]
/-- Types of VSCAN to VRMAX. -/
def scanTypes : List LTy := [.i32, .b32, .i64, .b64, .f32, .f64]

/-- VADD, VSUB. -/
def vadd : Row := { types := addTypes, sat := true, signA := true, signB := true, signC := true, signInt := true }
/-- VMUL. -/
def vmul : Row := { types := [.i32, .b32, .i16x2, .b16x2], signA := true, signB := true, signC := true, signInt := true }
/-- VMULH. -/
def vmulh : Row := { types := [.i32] }
/-- VMULHU, VMIX. -/
def word2 : Row := { types := [.b32] }
/-- VMAD. -/
def vmad : Row := { vmul with c := .typed, sat := true }
/-- VAND, VOR, VXOR, VANDN. -/
def logic : Row := { types := [.b32, .b64] }
/-- VSHL, VSHR, VMINU, VMAXU. -/
def unsig : Row := { types := [.b32, .b16x2, .b8x4] }
/-- VSAR. -/
def vsar : Row := { types := [.i32, .i16x2, .i8x4] }
/-- VMIN, VMAX. -/
def vmin : Row := { types := [.i32, .i16x2, .i8x4], signA := true, signB := true, signC := true }
/-- VPOPC, VCLZ, VBREV. -/
def unary : Row := { types := [.b32], b := .none }
/-- VBFE. -/
def vbfe : Row := { types := [.b32, .i32] }
/-- VBFI. -/
def vbfi : Row := { types := [.b32], c := .typed }
/-- VCMP (R134). -/
def vcmp : Row := { types := [.b32, .b64], d := .pred, aux4 := 11 }
/-- VSEL (R135). -/
def vsel : Row := { types := [.b32, .b64], c := .pred }
/-- VMOV (R136). -/
def vmov : Row := { types := [.b32, .b64], b := .mov }
/-- VADD64, VSUB64, VMUL64. -/
def vadd64 : Row := { types := [.b64, .i64] }
/-- VSHL64. -/
def vshl64 : Row := { types := [.b64], b := .word }
/-- VSHR64. -/
def vshr64 : Row := { types := [.b64, .i64], b := .word }
/-- VLANEID. -/
def vlaneid : Row := { types := [.b32], a := .none, b := .none, cross := false }
/-- VFADD, VFSUB, VFMUL. -/
def vfadd : Row := { types := floatTypes, sat := true, rnd := true, signA := true, signB := true }
/-- VFMA. -/
def vfma : Row := { vfadd with c := .typed, signC := true }
/-- VFMIN, VFMAX. -/
def vfmin : Row := { types := floatTypes, signA := true, signB := true }
/-- VFCMP (R142). -/
def vfcmp : Row := { types := [.f32, .f64], d := .pred, signA := true, signB := true, aux4 := 7 }
/-- VFDIV. -/
def vfdiv : Row := { types := [.f32, .f64], sat := true, rnd := true, signA := true, signB := true }
/-- VFSQRT to VCOSPI. -/
def trans : Row := { types := [.f32, .f64], b := .none, rnd := true, signA := true }
/-- VFRND. -/
def vfrnd : Row := { types := [.f32, .f64, .f16x2, .bf16x2], b := .none, rnd := true, signA := true }
/-- VFCLASS (R143). -/
def vfclass : Row := { types := [.f32, .f64], d := .single, b := .none }
/-- VFLDEXP (R144). -/
def vfldexp : Row := { types := [.f32, .f64], b := .word, rnd := true, signA := true }
/-- VFDOT2. -/
def vfdot2 : Row := { types := [.f16x2, .bf16x2], c := .word, sat := true, rnd := true, signA := true, signB := true, signC := true }
/-- VFDOT4. -/
def vfdot4 : Row := { vfdot2 with types := [.e4m3x4, .e5m2x4] }
/-- VCVT but for the pairs of types (R147). -/
def vcvt : Row := { types := [.b32, .i32, .f32, .f64, .b64, .i64, .f16x2, .bf16x2, .e4m3x4, .e5m2x4, .i8x4, .b8x4, .i16x2, .b16x2], d := .single, b := .none, c := .stoch, sat := true, rnd := true, signA := true, signCross := false, aux4 := 13, aux10 := 1 }
/-- VCVTPK but for its destination types (R148). -/
def vcvtpk : Row := { types := [.f32], c := .word, sat := true, rnd := true, signA := true, signB := true, aux4 := 9 }
/-- VQBLK (R149). -/
def vqblk : Row := { types := [.f32], d := .single, b := .none, cross := false }
/-- VDQBLK (R150). -/
def vdqblk : Row := { types := [.f32], cross := false }
/-- VSHFL (Table 08-3). -/
def vshfl : Row := { types := [.b32, .b64], b := .word, cross := false }
/-- VSCAN, VRADD. -/
def vscan : Row := { types := scanTypes, b := .none, cross := false, rnd := true, rndFloat := true, signA := true, signCross := true }
/-- VRMIN, VRMAX. -/
def vrmin : Row := { types := scanTypes, b := .none, cross := false, signA := true, signCross := true }
/-- VCOMPACT. -/
def vcompact : Row := { types := [.b32, .b64], b := .none, c := .pred, cross := false }
/-- VMATCH. -/
def vmatch : Row := { types := [.b32, .b64], d := .single, b := .none, cross := false }
/-- VPRANK. -/
def vprank : Row := { types := [.b32], a := .none, b := .none, c := .pred, cross := false }
/-- VQPUSH (R275). -/
def vqpush : Row := { types := [.b32], d := .queue, b := .none, cross := false, aux10 := 31 }
/-- VQPOP (R275). -/
def vqpop : Row := { types := [.b32], a := .none, b := .popOnly, cross := false, aux10 := 31 }
/-- WEMIT (R280). -/
def wemit : Row := { types := [.b32], d := .none, b := .wordNoQueue, cross := false, aux4 := 15 }
/-- RSPAWN (Table 18-4). -/
def rspawn : Row := { types := [.b32], b := .none, cross := false }
/-- RCONT (Table 18-4). -/
def rcont : Row := { types := [.b32], d := .none, b := .none, cross := false }
/-- RACC (Table 18-4). -/
def racc : Row := { types := [.b32], d := .none, b := .wordNoQueue, c := .vecOnly, cross := false }
/-- VTRAPIF (R174). -/
def vtrapif : Row := { types := [.b32], d := .none, b := .wordNoQueue }

end Rows

/-- A narrowing conversion (R146). -/
def narrowing (src dst : LTy) : Bool :=
  match src, dst with
  | .f32, .f64 => false
  | .f64, _ => true
  | .f32, _ => true
  | .f16x2, .f32 | .f16x2, .f64 | .bf16x2, .f32 | .bf16x2, .f64 => false
  | .e4m3x4, .f16x2 | .e4m3x4, .bf16x2 | .e4m3x4, .f32 | .e4m3x4, .f64 => false
  | .e5m2x4, .f16x2 | .e5m2x4, .bf16x2 | .e5m2x4, .f32 | .e5m2x4, .f64 => false
  | .i8x4, .f32 | .b8x4, .f32 | .i16x2, .f32 | .b16x2, .f32 => false
  | .i32, .f64 | .b32, .f64 => false
  | _, _ => true

/-- The pairs of types VCVT accepts, and what each accepts (R146, R147). `vd` must be a multiple
of the element count where one packed source fills several registers. -/
def cvtOk (x : LArith) : Bool :=
  match LTy.ofCode x.m.aux4.toNat with
  | none => false
  | some dst =>
    let src := x.ty
    let n := src.elems
    decide (src ≠ dst) &&
    (src.isFloat || dst.isFloat) &&
    (decide (n = 1) || !dst.wide) &&
    (decide (n = 1) || decide (dst.elems = 1) || decide (n = dst.elems)) &&
    (!x.m.sat || dst.isFloat) &&
    (src.isFloat || (!x.m.absa && !x.m.nega)) &&
    (x.m.aux10 == 0 || (narrowing src dst && x.m.rnd == .rdn)) &&
    (if n = 1 then pairOk dst x.vd
     else if dst.elems = 1 then decide (x.vd.toNat % n = 0) else true)

/-- The destination types VCVTPK accepts, and its use of c (R148). -/
def cvtpkOk (x : LArith) : Bool :=
  (match LTy.ofCode x.m.aux4.toNat with
   | some .f16x2 | some .bf16x2 => decide (x.c = .vec 0)
   | some .e4m3x4 | some .e5m2x4 => true
   | _ => false) &&
  (match x.b with | .imm _ => false | _ => true)

/-- Bytes of a memory size (Table 04-7). -/
def MSize.bytes : MSize → Nat
  | .b8 | .i8 => 1
  | .b16 | .i16 => 2
  | .b32 => 4
  | .b64 => 8
  | .b128 => 16

/-- Registers a datum of a size occupies (R225). -/
def MSize.regs : MSize → Nat
  | .b64 => 2
  | .b128 => 4
  | _ => 1

/-- A data register field of a size: aligned to the registers it names (R67). -/
def dataOk (sz : MSize) (r : BitVec 10) : Bool := decide (r.toNat % sz.regs = 0)

/-- The store sizes of Table 12-4. -/
def MSize.storable : MSize → Bool
  | .i8 | .i16 => false
  | _ => true

/-- What every memory-form instruction must meet: predicate fields and an even vector base. -/
def LMem.baseOk (x : LMem) : Bool :=
  x.pred.wf && (match x.base with | .vec r => r.getLsbD 0 == false | .scal _ => true)

/-- A scalar base. -/
def LMem.scalBase (x : LMem) : Bool := match x.base with | .scal _ => true | .vec _ => false

/-- A load row of Table 12-4. -/
def LMem.loadOk (x : LMem) : Bool :=
  x.baseOk && dataOk x.size x.vd && x.va == 0 && x.vc == 0 && x.aop == 0 && x.order != .rel

/-- A store row of Table 12-4. -/
def LMem.storeOk (x : LMem) : Bool :=
  x.baseOk && x.size.storable && dataOk x.size x.va && x.vd == 0 && x.vc == 0 && x.aop == 0 &&
  x.order != .acq

/-- The combinations of Table 12-5. -/
def atomOk (aop : Nat) (sz : MSize) : Bool :=
  match sz with
  | .b32 => decide (aop ≤ 12) && decide (aop ≠ 2)
  | .b64 => decide (aop ≤ 10) && decide (aop ≠ 1)
  | _ => false

/-- Formats MMA accepts together (R189). -/
def fmtPairOk (a b : MFmt) : Bool :=
  decide (a = b) || ((a == .e4m3 || a == .e5m2) && (b == .e4m3 || b == .e5m2))

/-- MMA and MMAS (R189). -/
def LMma.wf (x : LMma) : Bool := fmtPairOk x.fmtA x.fmtB && (x.fmtA == .fp4 || x.sbs == 0)

/-- MRD and MWR (R189). -/
def LMrw.wf (x : LMrw) : Bool := x.pred.wf && decide (x.col.toNat + x.cnt.toNat + 1 ≤ 128)

/-- OSTO and OLOD (R189). -/
def LRec.wf (x : LRec) : Bool := x.pred.wf && decide (x.stride.toNat % 4 = 0)

/-- MEPI (R189). -/
def LEpi.wf (x : LEpi) : Bool :=
  x.pred.wf && x.va.getLsbD 0 == false && (x.fold || x.sfold == 0)

/-- The system register numbers of Table 06-2. -/
def sysKnown (r : Nat) : Bool :=
  [0x000, 0x002, 0x003, 0x004, 0x005, 0x006, 0x008, 0x009, 0x00A, 0x00B, 0x00C, 0x010, 0x011,
   0x012, 0x013, 0x014, 0x015, 0x020, 0x021, 0x022, 0x030].contains r

/-- The well-formed instructions. A device step always is; a command is when its length is the
one of Table 22-3 and its selector bits are those of its row. -/
def Instr.wf : Instr → Bool
  | .cmp d c _ _ => decide (d.toNat ≤ 5) && decide (c.toNat ≤ 11)
  | .cmpi d c _ _ => decide (d.toNat ≤ 5) && decide (c.toNat ≤ 11)
  | .clog d _ _ _ => decide (d.toNat ≤ 5)
  | .brc n c _ => !(c == 7 && n == 1)
  | .mpush p => decide (p.toNat ≤ 15)
  | .ballot _ p => decide (p.toNat ≤ 15)
  | .vpset _ p => decide (p.toNat ≤ 15)
  | .fence s o a b => decide (s.toNat ≤ 4) && o != 0 && a != 0 && b != 0
  | .swr _ r => sysKnown r.toNat && r != 0x030
  | .illegalScalarWord _ => false
  | .vadd x | .vsub x => x.wf Rows.vadd
  | .vmul x => x.wf Rows.vmul
  | .vmulh x => x.wf Rows.vmulh
  | .vmulhu x | .vmix x => x.wf Rows.word2
  | .vmad x => x.wf Rows.vmad
  | .vand x | .vor x | .vxor x | .vandn x => x.wf Rows.logic
  | .vshl x | .vshr x | .vminu x | .vmaxu x => x.wf Rows.unsig
  | .vsar x => x.wf Rows.vsar
  | .vmin x | .vmax x => x.wf Rows.vmin
  | .vpopc x | .vclz x | .vbrev x => x.wf Rows.unary
  | .vbfe x => x.wf Rows.vbfe
  | .vbfi x => x.wf Rows.vbfi
  | .vcmp x => x.wf Rows.vcmp
  | .vsel x => x.wf Rows.vsel
  | .vmov x => x.wf Rows.vmov
  | .vadd64 x | .vsub64 x | .vmul64 x => x.wf Rows.vadd64
  | .vshl64 x => x.wf Rows.vshl64
  | .vshr64 x => x.wf Rows.vshr64
  | .vlaneid x => x.wf Rows.vlaneid
  | .vfadd x | .vfsub x | .vfmul x => x.wf Rows.vfadd
  | .vfma x => x.wf Rows.vfma
  | .vfmin x | .vfmax x => x.wf Rows.vfmin
  | .vfcmp x => x.wf Rows.vfcmp
  | .vfdiv x => x.wf Rows.vfdiv
  | .vfsqrt x | .vfrcp x | .vfrsq x | .vexp2 x | .vlog2 x | .vsinpi x | .vcospi x => x.wf Rows.trans
  | .vfrnd x => x.wf Rows.vfrnd
  | .vfclass x => x.wf Rows.vfclass
  | .vfldexp x => x.wf Rows.vfldexp && !(x.ty == .f64 && (match x.b with | .imm _ => true | _ => false))
  | .vfdot2 x => x.wf Rows.vfdot2
  | .vfdot4 x => x.wf Rows.vfdot4
  | .vcvt x => x.wf Rows.vcvt && cvtOk x
  | .vcvtpk x => x.wf Rows.vcvtpk && cvtpkOk x
  | .vqblk x => x.wf Rows.vqblk && x.vd.getLsbD 0 == false
  | .vdqblk x => x.wf Rows.vdqblk
  | .vshfl x => x.wf Rows.vshfl
  | .vscan x | .vradd x => x.wf Rows.vscan
  | .vrmin x | .vrmax x => x.wf Rows.vrmin
  | .vcompact x => x.wf Rows.vcompact
  | .vmatch x => x.wf Rows.vmatch
  | .vprank x => x.wf Rows.vprank
  | .vld x => x.loadOk
  | .vst x => x.storeOk
  | .vldc x => x.loadOk && x.scalBase
  | .vstc x => x.storeOk && x.scalBase
  | .vldro x => x.loadOk && x.order == .rlx && x.scope == .wave
  | .vatom x => x.baseOk && atomOk x.aop.toNat x.size && dataOk x.size x.vd && dataOk x.size x.va && x.vc == 0
  | .vcas x => x.baseOk && (x.size == .b32 || x.size == .b64) && x.aop == 0 && dataOk x.size x.vd && dataOk x.size x.va && dataOk x.size x.vc
  | .vpref x => x.baseOk && x.size == .b8 && x.vd == 0 && x.va == 0 && x.vc == 0 && x.aop == 0 && x.order == .rlx && x.scope == .wave
  | .vqpush x => x.wf Rows.vqpush
  | .vqpop x => x.wf Rows.vqpop
  | .wemit x => x.wf Rows.wemit
  | .rspawn x => x.wf Rows.rspawn
  | .rcont x => x.wf Rows.rcont
  | .racc x => x.wf Rows.racc
  | .mma x => x.wf
  | .mmas x _ => x.wf
  | .mrd x => x.wf
  | .mwr x => x.wf && x.sd == 0
  | .osto x => x.wf
  | .olod x => x.wf && x.v.getLsbD 0 == false
  | .mepi x => x.wf
  | .vtrapif x => x.wf Rows.vtrapif
  | .nop h => h.len != 0
  | .ctxcfg h .. | .graph h .. => h.len == 4
  | .launch h .. | .ringrst h .. | .partcfg h .. => h.len == 3
  | .task h .. => h.len == 5
  | .signal h .. | .frame h .. | .copy h .. | .codecwb h .. | .blink h .. | .snapread h ..
  | .capread h .. | .switch h .. | .restore h .. | .power h .. | .image h .. => h.len == 2
  | .fenceCommand h => h.len == 1
  | .attest h .. => h.len == 6
  | .cancelLaunch h w2 _ => h.len == 2 && w2.getLsbD 0 == false
  | .cancelTask h w2 _ => h.len == 2 && w2.getLsbD 0 == true
  | .mapSetTableBase h w2 .. => h.len == 3 && decide (w2.toNat % 4 = 0)
  | .mapWriteEntry h w2 .. => h.len == 3 && decide (w2.toNat % 4 = 1)
  | .mapMigrate h w2 .. => h.len == 3 && decide (2 ≤ w2.toNat % 4)
  | .countrdBound h w2 .. => h.len == 3 && decide (w2.toNat % 8 = 0)
  | .countrdCodec h w2 .. => h.len == 3 && decide (w2.toNat % 8 = 1)
  | .countrdMeridian h w2 .. => h.len == 3 && decide (w2.toNat % 8 = 2)
  | .countrdFlush h w2 .. => h.len == 3 && decide (3 ≤ w2.toNat % 8)
  | .faultansResume h _ w3 => h.len == 2 && w3.getLsbD 0 == false
  | .faultansFail h _ w3 => h.len == 2 && w3.getLsbD 0 == true
  | _ => true

end Sys2Proof
end

