-- ==== Sys2Proof/Decode.lean ====
section
/-! DEFINITION. From bits to instructions and back: scalar words (Tables 04-1, 04-3), lane words
(Tables 04-4 to 04-8, 10-5, 10-6) and Jenrid packets (Tables 22-2, 22-3). Every decoder is total;
what it refuses, it refuses by name. -/

namespace Sys2Proof

/-- Why a lane word is no instruction (R69): an opcode the map does not list, a type code, a
source or modifier field that no form has, or a field its own entry does not accept. -/
inductive LaneReject where
  | opcode | type | source | modifier | memoryForm | matrixForm | entry
  deriving DecidableEq, Repr

/-- Why a packet is no command (R376, checks 2 and 3). -/
inductive PacketReject where
  | unknownOpcode | invalidLength
  deriving DecidableEq, Repr

/-! ### Scalar words -/

/-- Bits [25:18] of a scalar word: sd (Table 04-1). -/
def fd (w : BitVec 32) : BitVec 8 := w.extractLsb' 18 8
/-- Bits [17:10] of a scalar word: sa. -/
def fa (w : BitVec 32) : BitVec 8 := w.extractLsb' 10 8
/-- Bits [9:2] of a scalar word: sb. -/
def fb (w : BitVec 32) : BitVec 8 := w.extractLsb' 2 8
/-- Bits [1:0] of a scalar word: fn. -/
def fn (w : BitVec 32) : BitVec 2 := w.extractLsb' 0 2
/-- Bits [9:0] of a scalar word: imm10. -/
def fi (w : BitVec 32) : BitVec 10 := w.extractLsb' 0 10

/-- The row of Table 04-3 a scalar word belongs to, if any. A field value that R61 makes ILLEGAL
in a word that has a row (a cd of 6, an empty class set) is kept: `Instr.wf` refuses it. -/
def scalarRow (w : BitVec 32) : Option Instr :=
  match (w.extractLsb' 26 6).toNat with
  | 0x1 =>
    if fn w = 0 then some (.add (fd w) (fa w) (fb w))
    else if fn w = 1 then some (.sub (fd w) (fa w) (fb w))
    else if fn w = 2 then some (.and (fd w) (fa w) (fb w))
    else if fn w = 3 then some (.or (fd w) (fa w) (fb w))
    else none
  | 0x2 =>
    if fn w = 0 then some (.xor (fd w) (fa w) (fb w))
    else if fn w = 1 then some (.shl (fd w) (fa w) (fb w))
    else if fn w = 2 then some (.shr (fd w) (fa w) (fb w))
    else if fn w = 3 then some (.sar (fd w) (fa w) (fb w))
    else none
  | 0x3 =>
    if fn w = 0 then some (.mul (fd w) (fa w) (fb w))
    else if fn w = 1 then some (.mulh (fd w) (fa w) (fb w))
    else if fn w = 2 then some (.mulhu (fd w) (fa w) (fb w))
    else if fn w = 3 then some (.andn (fd w) (fa w) (fb w))
    else none
  | 0x4 =>
    if fn w = 0 then some (.min (fd w) (fa w) (fb w))
    else if fn w = 1 then some (.max (fd w) (fa w) (fb w))
    else if fn w = 2 then some (.minu (fd w) (fa w) (fb w))
    else if fn w = 3 then some (.maxu (fd w) (fa w) (fb w))
    else none
  | 0x5 =>
    if fn w = 0 ∧ fb w = 0 then some (.popc (fd w) (fa w))
    else if fn w = 1 ∧ fb w = 0 then some (.clz (fd w) (fa w))
    else if fn w = 2 ∧ fb w = 0 then some (.ctz (fd w) (fa w))
    else if fn w = 3 ∧ fb w = 0 then some (.brev (fd w) (fa w))
    else none
  | 0x6 => some (.sel (fd w) (fa w) (fb w) (fn w))
  | 0x7 => some (.addi (fd w) (fa w) (fi w))
  | 0x8 => some (.andi (fd w) (fa w) (fi w))
  | 0x9 => some (.ori (fd w) (fa w) (fi w))
  | 0xa => some (.xori (fd w) (fa w) (fi w))
  | 0xb =>
    if w.extractLsb' 6 4 = 0 then some (.shli (fd w) (fa w) (w.extractLsb' 0 6))
    else if w.extractLsb' 6 4 = 4 then some (.shri (fd w) (fa w) (w.extractLsb' 0 6))
    else if w.extractLsb' 6 4 = 8 then some (.sari (fd w) (fa w) (w.extractLsb' 0 6))
    else if w.extractLsb' 6 4 = 0xc then some (.roti (fd w) (fa w) (w.extractLsb' 0 6))
    else none
  | 0xc => some (.muli (fd w) (fa w) (fi w))
  | 0xd => some (.movz (fd w) (w.extractLsb' 16 2) (w.extractLsb' 0 16))
  | 0xe => some (.movk (fd w) (w.extractLsb' 16 2) (w.extractLsb' 0 16))
  | 0xf =>
    if fn w = 0 then some (.cmp (w.extractLsb' 23 3) (w.extractLsb' 18 5) (fa w) (fb w))
    else none
  | 0x10 => some (.cmpi (w.extractLsb' 23 3) (w.extractLsb' 18 5) (fa w) (fi w))
  | 0x11 =>
    if fn w = 0 ∧ w.extractLsb' 10 3 = 0 ∧ fb w = 0 then some (.clog (w.extractLsb' 23 3) (w.extractLsb' 20 3) (w.extractLsb' 17 3) (w.extractLsb' 13 4))
    else none
  | 0x12 => some (.brc (w.extractLsb' 25 1) (w.extractLsb' 22 3) (w.extractLsb' 0 22))
  | 0x13 =>
    if w.extractLsb' 22 4 = 7 then some (.call (w.extractLsb' 0 22))
    else none
  | 0x14 =>
    if fn w = 0 ∧ fd w = 0 ∧ fb w = 0 then some (.jmpr (fa w))
    else if fn w = 1 ∧ fd w = 0 ∧ fb w = 0 then some (.callr (fa w))
    else if fn w = 2 ∧ fd w = 0 ∧ fa w = 0 ∧ fb w = 0 then some .ret
    else if fn w = 3 ∧ fd w = 0 ∧ fa w = 0 ∧ fb w = 0 then some .exit
    else none
  | 0x15 => some (.lrun (w.extractLsb' 20 6) (w.extractLsb' 0 20))
  | 0x16 =>
    if fn w = 0 ∧ w.extractLsb' 18 2 = 0 ∧ fa w = 0 ∧ fb w = 0 then some (.lnext (w.extractLsb' 20 6))
    else none
  | 0x17 =>
    if fn w = 0 ∧ fd w = 0 ∧ fa w = 0 ∧ fb w = 0 then some .lwait
    else if fn w = 1 ∧ fd w = 0 ∧ fa w = 0 ∧ fb w = 0 then some .yield
    else if fn w = 2 ∧ fd w = 0 ∧ fa w = 0 ∧ fb w = 0 then some .kpoint
    else if fn w = 3 ∧ fd w = 0 ∧ fa w = 0 ∧ fb w = 0 then some .snop
    else none
  | 0x18 =>
    if fn w = 0 ∧ fd w = 0 ∧ fa w = 0 then some (.mpush (fb w))
    else if fn w = 1 ∧ fd w = 0 ∧ fa w = 0 ∧ fb w = 0 then some .melse
    else if fn w = 2 ∧ fd w = 0 ∧ fa w = 0 ∧ fb w = 0 then some .mpop
    else if fn w = 3 ∧ fd w = 0 ∧ fb w = 0 then some (.msets (fa w))
    else none
  | 0x19 =>
    if fn w = 0 ∧ fa w = 0 ∧ fb w = 0 then some (.mget (fd w))
    else if fn w = 1 ∧ fa w = 0 then some (.ballot (fd w) (fb w))
    else if fn w = 2 ∧ fd w = 0 ∧ fa w = 0 ∧ fb w = 0 then some .mrest
    else if fn w = 3 ∧ fd w = 0 then some (.vpset (fa w) (fb w))
    else none
  | 0x1a => some (.tloop (w.extractLsb' 16 10) (w.extractLsb' 0 16))
  | 0x1b =>
    if fn w = 0 ∧ w.extractLsb' 2 6 = 0 then some (.srfl (fd w) (w.extractLsb' 8 10))
    else none
  | 0x1c => some (.slane (fd w) (w.extractLsb' 8 10) (w.extractLsb' 0 8))
  | 0x1d => some (.sld (fd w) (fa w) (fi w))
  | 0x1e => some (.sldw (fd w) (fa w) (fi w))
  | 0x1f => some (.sst (fd w) (fa w) (fi w))
  | 0x20 => some (.sstw (fd w) (fa w) (fi w))
  | 0x21 => some (.saadd (fd w) (fa w) (fb w) (fn w))
  | 0x22 => some (.saswp (fd w) (fa w) (fb w) (fn w))
  | 0x23 => some (.sacas (fd w) (fa w) (fb w) (fn w))
  | 0x24 => some (.samaxu (fd w) (fa w) (fb w) (fn w))
  | 0x25 =>
    if fn w = 0 ∧ w.extractLsb' 2 7 = 0 then some (.fence (w.extractLsb' 23 3) (w.extractLsb' 21 2) (w.extractLsb' 15 6) (w.extractLsb' 9 6))
    else none
  | 0x26 => some (.srd (fd w) (w.extractLsb' 0 18))
  | 0x27 =>
    if w.extractLsb' 0 18 = 0x030 then some (.blinktrig (fd w))
    else some (.swr (fd w) (w.extractLsb' 0 18))
  | 0x28 =>
    if fd w = 0 then some (.trap (w.extractLsb' 0 18))
    else none
  | 0x29 =>
    if fn w = 0 ∧ fb w = 0 then some (.bar (fd w) (fa w))
    else if fn w = 1 ∧ fb w = 0 then some (.bara (fd w) (fa w))
    else if fn w = 2 ∧ fa w = 0 ∧ fb w = 0 then some (.barw (fd w))
    else none
  | 0x2a =>
    if fn w = 0 ∧ w.extractLsb' 6 4 = 0 then some (.oresa (fd w) (fa w) (w.extractLsb' 2 4))
    else if fn w = 1 ∧ w.extractLsb' 6 4 = 0 then some (.oresb (fd w) (fa w) (w.extractLsb' 2 4))
    else if fn w = 2 ∧ fd w = 0 ∧ fa w = 0 ∧ w.extractLsb' 6 4 = 0 then some (.orel (w.extractLsb' 2 4))
    else if fn w = 3 ∧ fa w = 0 ∧ w.extractLsb' 6 4 = 0 then some (.orec (fd w) (w.extractLsb' 2 4))
    else none
  | 0x2b =>
    if fn w = 0 ∧ fb w = 0 then some (.tsubmit (fd w) (fa w))
    else if fn w = 1 ∧ fd w = 0 ∧ fb w = 0 then some (.tsignal (fa w))
    else if fn w = 2 ∧ fb w = 0 then some (.rtake (fd w) (fa w))
    else if fn w = 3 ∧ fd w = 0 ∧ fb w = 0 then some (.tcancel (fa w))
    else none
  | 0x2c =>
    if fn w = 0 then some (.incup (fd w) (fa w) (fb w))
    else if fn w = 1 ∧ fb w = 0 then some (.incrd (fd w) (fa w))
    else if fn w = 2 then some (.bndchk (fd w) (fa w) (fb w))
    else if fn w = 3 ∧ fd w = 0 ∧ fb w = 0 then some (.incrst (fa w))
    else none
  | 0x2d =>
    if fn w = 0 ∧ w.extractLsb' 10 3 = 0 ∧ fb w = 0 then some (.qbind (fd w) (w.extractLsb' 13 5))
    else if fn w = 1 ∧ w.extractLsb' 10 3 = 0 ∧ fb w = 0 then some (.qcnt (fd w) (w.extractLsb' 13 5))
    else if fn w = 2 ∧ w.extractLsb' 10 3 = 0 ∧ fb w = 0 then some (.qpushs (fd w) (w.extractLsb' 13 5))
    else if fn w = 3 ∧ w.extractLsb' 10 3 = 0 ∧ fb w = 0 then some (.qpops (fd w) (w.extractLsb' 13 5))
    else none
  | 0x2e =>
    if fn w = 0 ∧ w.extractLsb' 10 5 = 0 ∧ fb w = 0 then some (.gcfg (fd w) (w.extractLsb' 15 3))
    else if fn w = 1 ∧ fd w = 0 ∧ w.extractLsb' 10 5 = 0 ∧ fb w = 0 then some (.gstart (w.extractLsb' 15 3))
    else if fn w = 2 ∧ fd w = 0 ∧ w.extractLsb' 10 5 = 0 ∧ fb w = 0 then some (.gstop (w.extractLsb' 15 3))
    else if fn w = 3 ∧ w.extractLsb' 10 5 = 0 ∧ fb w = 0 then some (.gstat (fd w) (w.extractLsb' 15 3))
    else none
  | _ => none

/-- A scalar word as an instruction: its row, or the word that is ILLEGAL (R59). -/
def decodeScalar (w : BitVec 32) : Instr := (scalarRow w).getD (.illegalScalarWord w)

/-- The word of a scalar instruction (Table 04-3). -/
def encodeScalar : Instr → Option (BitVec 32)
  | .add d a b => some ((1 : BitVec 6) ++ d ++ a ++ b ++ (0 : BitVec 2))
  | .sub d a b => some ((1 : BitVec 6) ++ d ++ a ++ b ++ (1 : BitVec 2))
  | .and d a b => some ((1 : BitVec 6) ++ d ++ a ++ b ++ (2 : BitVec 2))
  | .or d a b => some ((1 : BitVec 6) ++ d ++ a ++ b ++ (3 : BitVec 2))
  | .xor d a b => some ((2 : BitVec 6) ++ d ++ a ++ b ++ (0 : BitVec 2))
  | .shl d a b => some ((2 : BitVec 6) ++ d ++ a ++ b ++ (1 : BitVec 2))
  | .shr d a b => some ((2 : BitVec 6) ++ d ++ a ++ b ++ (2 : BitVec 2))
  | .sar d a b => some ((2 : BitVec 6) ++ d ++ a ++ b ++ (3 : BitVec 2))
  | .mul d a b => some ((3 : BitVec 6) ++ d ++ a ++ b ++ (0 : BitVec 2))
  | .mulh d a b => some ((3 : BitVec 6) ++ d ++ a ++ b ++ (1 : BitVec 2))
  | .mulhu d a b => some ((3 : BitVec 6) ++ d ++ a ++ b ++ (2 : BitVec 2))
  | .andn d a b => some ((3 : BitVec 6) ++ d ++ a ++ b ++ (3 : BitVec 2))
  | .min d a b => some ((4 : BitVec 6) ++ d ++ a ++ b ++ (0 : BitVec 2))
  | .max d a b => some ((4 : BitVec 6) ++ d ++ a ++ b ++ (1 : BitVec 2))
  | .minu d a b => some ((4 : BitVec 6) ++ d ++ a ++ b ++ (2 : BitVec 2))
  | .maxu d a b => some ((4 : BitVec 6) ++ d ++ a ++ b ++ (3 : BitVec 2))
  | .popc d a => some ((5 : BitVec 6) ++ d ++ a ++ (0 : BitVec 8) ++ (0 : BitVec 2))
  | .clz d a => some ((5 : BitVec 6) ++ d ++ a ++ (0 : BitVec 8) ++ (1 : BitVec 2))
  | .ctz d a => some ((5 : BitVec 6) ++ d ++ a ++ (0 : BitVec 8) ++ (2 : BitVec 2))
  | .brev d a => some ((5 : BitVec 6) ++ d ++ a ++ (0 : BitVec 8) ++ (3 : BitVec 2))
  | .sel d a b n => some ((6 : BitVec 6) ++ d ++ a ++ b ++ n)
  | .addi d a i => some ((7 : BitVec 6) ++ d ++ a ++ i)
  | .andi d a i => some ((8 : BitVec 6) ++ d ++ a ++ i)
  | .ori d a i => some ((9 : BitVec 6) ++ d ++ a ++ i)
  | .xori d a i => some ((0xa : BitVec 6) ++ d ++ a ++ i)
  | .shli d a n => some ((0xb : BitVec 6) ++ d ++ a ++ (0 : BitVec 4) ++ n)
  | .shri d a n => some ((0xb : BitVec 6) ++ d ++ a ++ (4 : BitVec 4) ++ n)
  | .sari d a n => some ((0xb : BitVec 6) ++ d ++ a ++ (8 : BitVec 4) ++ n)
  | .roti d a n => some ((0xb : BitVec 6) ++ d ++ a ++ (0xc : BitVec 4) ++ n)
  | .muli d a i => some ((0xc : BitVec 6) ++ d ++ a ++ i)
  | .movz d h i => some ((0xd : BitVec 6) ++ d ++ h ++ i)
  | .movk d h i => some ((0xe : BitVec 6) ++ d ++ h ++ i)
  | .cmp d c a b => some ((0xf : BitVec 6) ++ d ++ c ++ a ++ b ++ (0 : BitVec 2))
  | .cmpi d c a i => some ((0x10 : BitVec 6) ++ d ++ c ++ a ++ i)
  | .clog d a b t => some ((0x11 : BitVec 6) ++ d ++ a ++ b ++ t ++ (0 : BitVec 3) ++ (0 : BitVec 8) ++ (0 : BitVec 2))
  | .brc n c o => some ((0x12 : BitVec 6) ++ n ++ c ++ o)
  | .call o => some ((0x13 : BitVec 6) ++ (7 : BitVec 4) ++ o)
  | .jmpr a => some ((0x14 : BitVec 6) ++ (0 : BitVec 8) ++ a ++ (0 : BitVec 8) ++ (0 : BitVec 2))
  | .callr a => some ((0x14 : BitVec 6) ++ (0 : BitVec 8) ++ a ++ (0 : BitVec 8) ++ (1 : BitVec 2))
  | .ret => some ((0x14 : BitVec 6) ++ (0 : BitVec 8) ++ (0 : BitVec 8) ++ (0 : BitVec 8) ++ (2 : BitVec 2))
  | .exit => some ((0x14 : BitVec 6) ++ (0 : BitVec 8) ++ (0 : BitVec 8) ++ (0 : BitVec 8) ++ (3 : BitVec 2))
  | .lrun n i => some ((0x15 : BitVec 6) ++ n ++ i)
  | .lnext n => some ((0x16 : BitVec 6) ++ n ++ (0 : BitVec 2) ++ (0 : BitVec 8) ++ (0 : BitVec 8) ++ (0 : BitVec 2))
  | .lwait => some ((0x17 : BitVec 6) ++ (0 : BitVec 8) ++ (0 : BitVec 8) ++ (0 : BitVec 8) ++ (0 : BitVec 2))
  | .yield => some ((0x17 : BitVec 6) ++ (0 : BitVec 8) ++ (0 : BitVec 8) ++ (0 : BitVec 8) ++ (1 : BitVec 2))
  | .kpoint => some ((0x17 : BitVec 6) ++ (0 : BitVec 8) ++ (0 : BitVec 8) ++ (0 : BitVec 8) ++ (2 : BitVec 2))
  | .snop => some ((0x17 : BitVec 6) ++ (0 : BitVec 8) ++ (0 : BitVec 8) ++ (0 : BitVec 8) ++ (3 : BitVec 2))
  | .mpush p => some ((0x18 : BitVec 6) ++ (0 : BitVec 8) ++ (0 : BitVec 8) ++ p ++ (0 : BitVec 2))
  | .melse => some ((0x18 : BitVec 6) ++ (0 : BitVec 8) ++ (0 : BitVec 8) ++ (0 : BitVec 8) ++ (1 : BitVec 2))
  | .mpop => some ((0x18 : BitVec 6) ++ (0 : BitVec 8) ++ (0 : BitVec 8) ++ (0 : BitVec 8) ++ (2 : BitVec 2))
  | .msets a => some ((0x18 : BitVec 6) ++ (0 : BitVec 8) ++ a ++ (0 : BitVec 8) ++ (3 : BitVec 2))
  | .mget d => some ((0x19 : BitVec 6) ++ d ++ (0 : BitVec 8) ++ (0 : BitVec 8) ++ (0 : BitVec 2))
  | .ballot d p => some ((0x19 : BitVec 6) ++ d ++ (0 : BitVec 8) ++ p ++ (1 : BitVec 2))
  | .mrest => some ((0x19 : BitVec 6) ++ (0 : BitVec 8) ++ (0 : BitVec 8) ++ (0 : BitVec 8) ++ (2 : BitVec 2))
  | .vpset a p => some ((0x19 : BitVec 6) ++ (0 : BitVec 8) ++ a ++ p ++ (3 : BitVec 2))
  | .tloop v o => some ((0x1a : BitVec 6) ++ v ++ o)
  | .srfl d v => some ((0x1b : BitVec 6) ++ d ++ v ++ (0 : BitVec 6) ++ (0 : BitVec 2))
  | .slane d v a => some ((0x1c : BitVec 6) ++ d ++ v ++ a)
  | .sld d a o => some ((0x1d : BitVec 6) ++ d ++ a ++ o)
  | .sldw d a o => some ((0x1e : BitVec 6) ++ d ++ a ++ o)
  | .sst s a o => some ((0x1f : BitVec 6) ++ s ++ a ++ o)
  | .sstw s a o => some ((0x20 : BitVec 6) ++ s ++ a ++ o)
  | .saadd d a b o => some ((0x21 : BitVec 6) ++ d ++ a ++ b ++ o)
  | .saswp d a b o => some ((0x22 : BitVec 6) ++ d ++ a ++ b ++ o)
  | .sacas d a b o => some ((0x23 : BitVec 6) ++ d ++ a ++ b ++ o)
  | .samaxu d a b o => some ((0x24 : BitVec 6) ++ d ++ a ++ b ++ o)
  | .fence s o a b => some ((0x25 : BitVec 6) ++ s ++ o ++ a ++ b ++ (0 : BitVec 7) ++ (0 : BitVec 2))
  | .srd d r => some ((0x26 : BitVec 6) ++ d ++ r)
  | .swr s r => some ((0x27 : BitVec 6) ++ s ++ r)
  | .blinktrig s => some ((0x27 : BitVec 6) ++ s ++ (0x030 : BitVec 18))
  | .trap i => some ((0x28 : BitVec 6) ++ (0 : BitVec 8) ++ i)
  | .bar g a => some ((0x29 : BitVec 6) ++ g ++ a ++ (0 : BitVec 8) ++ (0 : BitVec 2))
  | .bara g a => some ((0x29 : BitVec 6) ++ g ++ a ++ (0 : BitVec 8) ++ (1 : BitVec 2))
  | .barw g => some ((0x29 : BitVec 6) ++ g ++ (0 : BitVec 8) ++ (0 : BitVec 8) ++ (2 : BitVec 2))
  | .oresa d a n => some ((0x2a : BitVec 6) ++ d ++ a ++ (0 : BitVec 4) ++ n ++ (0 : BitVec 2))
  | .oresb d a n => some ((0x2a : BitVec 6) ++ d ++ a ++ (0 : BitVec 4) ++ n ++ (1 : BitVec 2))
  | .orel n => some ((0x2a : BitVec 6) ++ (0 : BitVec 8) ++ (0 : BitVec 8) ++ (0 : BitVec 4) ++ n ++ (2 : BitVec 2))
  | .orec d n => some ((0x2a : BitVec 6) ++ d ++ (0 : BitVec 8) ++ (0 : BitVec 4) ++ n ++ (3 : BitVec 2))
  | .tsubmit d a => some ((0x2b : BitVec 6) ++ d ++ a ++ (0 : BitVec 8) ++ (0 : BitVec 2))
  | .tsignal a => some ((0x2b : BitVec 6) ++ (0 : BitVec 8) ++ a ++ (0 : BitVec 8) ++ (1 : BitVec 2))
  | .rtake d a => some ((0x2b : BitVec 6) ++ d ++ a ++ (0 : BitVec 8) ++ (2 : BitVec 2))
  | .tcancel a => some ((0x2b : BitVec 6) ++ (0 : BitVec 8) ++ a ++ (0 : BitVec 8) ++ (3 : BitVec 2))
  | .incup d a b => some ((0x2c : BitVec 6) ++ d ++ a ++ b ++ (0 : BitVec 2))
  | .incrd d a => some ((0x2c : BitVec 6) ++ d ++ a ++ (0 : BitVec 8) ++ (1 : BitVec 2))
  | .bndchk d a b => some ((0x2c : BitVec 6) ++ d ++ a ++ b ++ (2 : BitVec 2))
  | .incrst a => some ((0x2c : BitVec 6) ++ (0 : BitVec 8) ++ a ++ (0 : BitVec 8) ++ (3 : BitVec 2))
  | .qbind s q => some ((0x2d : BitVec 6) ++ s ++ q ++ (0 : BitVec 3) ++ (0 : BitVec 8) ++ (0 : BitVec 2))
  | .qcnt s q => some ((0x2d : BitVec 6) ++ s ++ q ++ (0 : BitVec 3) ++ (0 : BitVec 8) ++ (1 : BitVec 2))
  | .qpushs s q => some ((0x2d : BitVec 6) ++ s ++ q ++ (0 : BitVec 3) ++ (0 : BitVec 8) ++ (2 : BitVec 2))
  | .qpops s q => some ((0x2d : BitVec 6) ++ s ++ q ++ (0 : BitVec 3) ++ (0 : BitVec 8) ++ (3 : BitVec 2))
  | .gcfg s g => some ((0x2e : BitVec 6) ++ s ++ g ++ (0 : BitVec 5) ++ (0 : BitVec 8) ++ (0 : BitVec 2))
  | .gstart g => some ((0x2e : BitVec 6) ++ (0 : BitVec 8) ++ g ++ (0 : BitVec 5) ++ (0 : BitVec 8) ++ (1 : BitVec 2))
  | .gstop g => some ((0x2e : BitVec 6) ++ (0 : BitVec 8) ++ g ++ (0 : BitVec 5) ++ (0 : BitVec 8) ++ (2 : BitVec 2))
  | .gstat s g => some ((0x2e : BitVec 6) ++ s ++ g ++ (0 : BitVec 5) ++ (0 : BitVec 8) ++ (3 : BitVec 2))
  | _ => none

/-! ### Lane words -/

/-- The mode of an xmode field; 7 is ILLEGAL (Table 04-5). -/
def XMode.ofCode : Nat → Option XMode
  | 0 => some .none | 1 => some .bcast | 2 => some .rot | 3 => some .xor | 4 => some .up
  | 5 => some .dn | 6 => some .quad | _ => Option.none

/-- The field of a mode. -/
def XMode.code : XMode → BitVec 3
  | .none => 0 | .bcast => 1 | .rot => 2 | .xor => 3 | .up => 4 | .dn => 5 | .quad => 6

/-- The rounding mode of an rnd field (Table 04-5). -/
def Rnd.ofBits (x : BitVec 2) : Rnd :=
  match x.toNat with | 0 => .rne | 1 => .rtz | 2 => .rup | _ => .rdn

/-- The field of a rounding mode. -/
def Rnd.bits : Rnd → BitVec 2
  | .rne => 0 | .rtz => 1 | .rup => 2 | .rdn => 3

/-- The order of an order field (Table 04-6). -/
def Order.ofBits (x : BitVec 2) : Order :=
  match x.toNat with | 0 => .rlx | 1 => .acq | 2 => .rel | _ => .sc

/-- The field of an order. -/
def Order.bits : Order → BitVec 2
  | .rlx => 0 | .acq => 1 | .rel => 2 | .sc => 3

/-- The scope of a scope field; 5 to 7 are ILLEGAL (Table 04-6). -/
def Scope.ofCode : Nat → Option Scope
  | 0 => some .wave | 1 => some .core | 2 => some .cluster | 3 => some .part | 4 => some .pod
  | _ => none

/-- The field of a scope. -/
def Scope.code : Scope → BitVec 3
  | .wave => 0 | .core => 1 | .cluster => 2 | .part => 3 | .pod => 4

/-- The size of a T code, memory column of Table 04-7. -/
def MSize.ofCode : Nat → Option MSize
  | 0 => some .b8 | 1 => some .i8 | 2 => some .b16 | 3 => some .i16 | 4 => some .b32
  | 5 => some .b64 | 6 => some .b128 | _ => none

/-- The T code of a size. -/
def MSize.code : MSize → BitVec 4
  | .b8 => 0 | .i8 => 1 | .b16 => 2 | .i16 => 3 | .b32 => 4 | .b64 => 5 | .b128 => 6

/-- The format of a fmtA or fmtB field (Table 10-6). -/
def MFmt.ofCode : Nat → Option MFmt
  | 0 => some .fp4 | 1 => some .e4m3 | 2 => some .e5m2 | 3 => some .f16 | 4 => some .bf16
  | 5 => some .f64 | _ => none

/-- The field of a matrix format. -/
def MFmt.code : MFmt → BitVec 3
  | .fp4 => 0 | .e4m3 => 1 | .e5m2 => 2 | .f16 => 3 | .bf16 => 4 | .f64 => 5

/-- The format of an ofmt field (Table 10-6). -/
def OFmt.ofCode : Nat → Option OFmt
  | 0 => some .f32 | 1 => some .f16 | 2 => some .bf16 | 3 => some .e4m3 | 4 => some .e5m2
  | 5 => some .f64 | _ => none

/-- The field of an output format. -/
def OFmt.code : OFmt → BitVec 3
  | .f32 => 0 | .f16 => 1 | .bf16 => 2 | .e4m3 => 3 | .e5m2 => 4 | .f64 => 5

/-- A one-bit field. -/
def bit (b : Bool) : BitVec 1 := if b then 1 else 0

/-- Bits [7:0]: opc. -/
def lOpc (w : BitVec 96) : BitVec 8 := w.extractLsb' 0 8
/-- Bits [11:8]: T. -/
def lT (w : BitVec 96) : BitVec 4 := w.extractLsb' 8 4
/-- Bits [21:12]: vd. -/
def lVd (w : BitVec 96) : BitVec 10 := w.extractLsb' 12 10
/-- Bits [31:22]: va. -/
def lVa (w : BitVec 96) : BitVec 10 := w.extractLsb' 22 10
/-- Bits [41:32]: vb. -/
def lVb (w : BitVec 96) : BitVec 10 := w.extractLsb' 32 10
/-- Bits [51:42]: vc. -/
def lVc (w : BitVec 96) : BitVec 10 := w.extractLsb' 42 10
/-- Bits [57:52]: the predicate fields. -/
def lPred (w : BitVec 96) : Pred :=
  { pe := w.getLsbD 57, pn := w.getLsbD 56, pi := w.extractLsb' 52 4 }
/-- Bits [61:58]: stall. -/
def lStall (w : BitVec 96) : BitVec 4 := w.extractLsb' 58 4
/-- Bits [63:62]: bsel. -/
def lBsel (w : BitVec 96) : BitVec 2 := w.extractLsb' 62 2
/-- Bits [95:64]: word2. -/
def lW2 (w : BitVec 96) : BitVec 32 := w.extractLsb' 64 32

/-- Operand b from bsel and vb (Table 04-4; R69, items 5 and 7). -/
def lB (w : BitVec 96) : Option BSrc :=
  match (lBsel w).toNat with
  | 0 => some (.vec (lVb w))
  | 1 => if (lVb w).extractLsb' 8 2 = 0 then some (.scal ((lVb w).extractLsb' 0 8)) else none
  | 2 => if lVb w = 0 then some (.imm (lW2 w)) else none
  | _ => if (lVb w).extractLsb' 5 5 = 0 then some (.queue ((lVb w).extractLsb' 0 5)) else none

/-- Operand c from csel and vc (Table 04-5); in the immediate form it is `v[vc]` (R65). -/
def lC (w : BitVec 96) : Option CSrc :=
  if lBsel w = 2 then some (.vec (lVc w)) else
  match (w.extractLsb' 80 2).toNat with
  | 0 => some (.vec (lVc w))
  | 1 => if (lVc w).extractLsb' 8 2 = 0 then some (.scal ((lVc w).extractLsb' 0 8)) else none
  | 2 => none
  | _ => if (lVc w).extractLsb' 5 5 = 0 then some (.queue ((lVc w).extractLsb' 0 5)) else none

/-- The modifiers: those of Table 04-5, or the neutral ones of an immediate form. -/
def lMods (w : BitVec 96) : Option Mods :=
  if lBsel w = 2 then some Mods.neutral else
  match XMode.ofCode (w.extractLsb' 64 3).toNat with
  | none => none
  | some x =>
    some { aux10 := w.extractLsb' 86 10, aux4 := w.extractLsb' 82 4, sat := w.getLsbD 79,
           rnd := Rnd.ofBits (w.extractLsb' 77 2), negc := w.getLsbD 76, negb := w.getLsbD 75,
           nega := w.getLsbD 74, absa := w.getLsbD 73, fs := w.getLsbD 72,
           xarg := w.extractLsb' 67 5, xmode := x }

/-- The fields of an arithmetic-form word. -/
def lArith (w : BitVec 96) : Except LaneReject LArith :=
  match LTy.ofCode (lT w).toNat with
  | none => .error .type
  | some ty =>
    match lB w, lC w with
    | some b, some c =>
      match lMods w with
      | some m => .ok { stall := lStall w, pred := lPred w, ty := ty, vd := lVd w, va := lVa w, b := b, c := c, m := m }
      | none => .error .modifier
    | _, _ => .error .source

/-- The base of a memory-form word (R66). -/
def lBase (w : BitVec 96) : Option MBase :=
  match (lBsel w).toNat with
  | 0 => some (.vec (lVb w))
  | 1 => if (lVb w).extractLsb' 8 2 = 0 then some (.scal ((lVb w).extractLsb' 0 8)) else none
  | _ => none

/-- The fields of a memory-form word (Table 04-6; R69, item 9). -/
def lMem (w : BitVec 96) : Except LaneReject LMem :=
  match MSize.ofCode (lT w).toNat with
  | none => .error .type
  | some sz =>
    match lBase w with
    | none => .error .source
    | some base =>
      match Scope.ofCode (w.extractLsb' 64 3).toNat with
      | none => .error .memoryForm
      | some sc =>
        if w.extractLsb' 74 2 = 0 then
          .ok { stall := lStall w, pred := lPred w, size := sz, vd := lVd w, va := lVa w, vc := lVc w,
                base := base, off := w.extractLsb' 76 20, aop := w.extractLsb' 69 5,
                order := Order.ofBits (w.extractLsb' 67 2), scope := sc }
        else .error .memoryForm

/-- The arithmetic-form instruction of an opcode (Table 04-8). -/
def arithCtor (opc : Nat) (x : LArith) : Option Instr :=
  match opc with
  | 0x01 => some (.vadd x)
  | 0x02 => some (.vsub x)
  | 0x03 => some (.vmul x)
  | 0x04 => some (.vmulh x)
  | 0x05 => some (.vmulhu x)
  | 0x06 => some (.vmad x)
  | 0x07 => some (.vand x)
  | 0x08 => some (.vor x)
  | 0x09 => some (.vxor x)
  | 0x0A => some (.vandn x)
  | 0x0B => some (.vshl x)
  | 0x0C => some (.vshr x)
  | 0x0D => some (.vsar x)
  | 0x0E => some (.vmin x)
  | 0x0F => some (.vmax x)
  | 0x10 => some (.vminu x)
  | 0x11 => some (.vmaxu x)
  | 0x12 => some (.vpopc x)
  | 0x13 => some (.vclz x)
  | 0x14 => some (.vbrev x)
  | 0x15 => some (.vbfe x)
  | 0x16 => some (.vbfi x)
  | 0x17 => some (.vcmp x)
  | 0x18 => some (.vsel x)
  | 0x19 => some (.vmov x)
  | 0x1A => some (.vadd64 x)
  | 0x1B => some (.vsub64 x)
  | 0x1C => some (.vmul64 x)
  | 0x1D => some (.vshl64 x)
  | 0x1E => some (.vshr64 x)
  | 0x1F => some (.vlaneid x)
  | 0x20 => some (.vmix x)
  | 0x30 => some (.vfadd x)
  | 0x31 => some (.vfsub x)
  | 0x32 => some (.vfmul x)
  | 0x33 => some (.vfma x)
  | 0x34 => some (.vfmin x)
  | 0x35 => some (.vfmax x)
  | 0x36 => some (.vfcmp x)
  | 0x37 => some (.vfdiv x)
  | 0x38 => some (.vfsqrt x)
  | 0x39 => some (.vfrcp x)
  | 0x3A => some (.vfrsq x)
  | 0x3B => some (.vexp2 x)
  | 0x3C => some (.vlog2 x)
  | 0x3D => some (.vsinpi x)
  | 0x3E => some (.vcospi x)
  | 0x3F => some (.vfrnd x)
  | 0x40 => some (.vfclass x)
  | 0x41 => some (.vfldexp x)
  | 0x42 => some (.vfdot2 x)
  | 0x43 => some (.vfdot4 x)
  | 0x48 => some (.vcvt x)
  | 0x49 => some (.vcvtpk x)
  | 0x4A => some (.vqblk x)
  | 0x4B => some (.vdqblk x)
  | 0x50 => some (.vshfl x)
  | 0x51 => some (.vscan x)
  | 0x52 => some (.vradd x)
  | 0x53 => some (.vrmin x)
  | 0x54 => some (.vrmax x)
  | 0x55 => some (.vcompact x)
  | 0x56 => some (.vmatch x)
  | 0x57 => some (.vprank x)
  | 0x70 => some (.vqpush x)
  | 0x71 => some (.vqpop x)
  | 0x72 => some (.wemit x)
  | 0x78 => some (.rspawn x)
  | 0x79 => some (.rcont x)
  | 0x7A => some (.racc x)
  | 0xF1 => some (.vtrapif x)
  | _ => none

/-- The opcode of an arithmetic-form instruction, and its fields. -/
def arithOf : Instr → Option (BitVec 8 × LArith)
  | .vadd x => some (0x01, x)
  | .vsub x => some (0x02, x)
  | .vmul x => some (0x03, x)
  | .vmulh x => some (0x04, x)
  | .vmulhu x => some (0x05, x)
  | .vmad x => some (0x06, x)
  | .vand x => some (0x07, x)
  | .vor x => some (0x08, x)
  | .vxor x => some (0x09, x)
  | .vandn x => some (0x0A, x)
  | .vshl x => some (0x0B, x)
  | .vshr x => some (0x0C, x)
  | .vsar x => some (0x0D, x)
  | .vmin x => some (0x0E, x)
  | .vmax x => some (0x0F, x)
  | .vminu x => some (0x10, x)
  | .vmaxu x => some (0x11, x)
  | .vpopc x => some (0x12, x)
  | .vclz x => some (0x13, x)
  | .vbrev x => some (0x14, x)
  | .vbfe x => some (0x15, x)
  | .vbfi x => some (0x16, x)
  | .vcmp x => some (0x17, x)
  | .vsel x => some (0x18, x)
  | .vmov x => some (0x19, x)
  | .vadd64 x => some (0x1A, x)
  | .vsub64 x => some (0x1B, x)
  | .vmul64 x => some (0x1C, x)
  | .vshl64 x => some (0x1D, x)
  | .vshr64 x => some (0x1E, x)
  | .vlaneid x => some (0x1F, x)
  | .vmix x => some (0x20, x)
  | .vfadd x => some (0x30, x)
  | .vfsub x => some (0x31, x)
  | .vfmul x => some (0x32, x)
  | .vfma x => some (0x33, x)
  | .vfmin x => some (0x34, x)
  | .vfmax x => some (0x35, x)
  | .vfcmp x => some (0x36, x)
  | .vfdiv x => some (0x37, x)
  | .vfsqrt x => some (0x38, x)
  | .vfrcp x => some (0x39, x)
  | .vfrsq x => some (0x3A, x)
  | .vexp2 x => some (0x3B, x)
  | .vlog2 x => some (0x3C, x)
  | .vsinpi x => some (0x3D, x)
  | .vcospi x => some (0x3E, x)
  | .vfrnd x => some (0x3F, x)
  | .vfclass x => some (0x40, x)
  | .vfldexp x => some (0x41, x)
  | .vfdot2 x => some (0x42, x)
  | .vfdot4 x => some (0x43, x)
  | .vcvt x => some (0x48, x)
  | .vcvtpk x => some (0x49, x)
  | .vqblk x => some (0x4A, x)
  | .vdqblk x => some (0x4B, x)
  | .vshfl x => some (0x50, x)
  | .vscan x => some (0x51, x)
  | .vradd x => some (0x52, x)
  | .vrmin x => some (0x53, x)
  | .vrmax x => some (0x54, x)
  | .vcompact x => some (0x55, x)
  | .vmatch x => some (0x56, x)
  | .vprank x => some (0x57, x)
  | .vqpush x => some (0x70, x)
  | .vqpop x => some (0x71, x)
  | .wemit x => some (0x72, x)
  | .rspawn x => some (0x78, x)
  | .rcont x => some (0x79, x)
  | .racc x => some (0x7A, x)
  | .vtrapif x => some (0xF1, x)
  | _ => none

/-- The memory-form instruction of an opcode (Table 04-8). -/
def memCtor (opc : Nat) (x : LMem) : Option Instr :=
  match opc with
  | 0x60 => some (.vld x)
  | 0x61 => some (.vst x)
  | 0x62 => some (.vldc x)
  | 0x63 => some (.vstc x)
  | 0x64 => some (.vldro x)
  | 0x65 => some (.vatom x)
  | 0x66 => some (.vcas x)
  | 0x67 => some (.vpref x)
  | _ => none

/-- The opcode of a memory-form instruction, and its fields. -/
def memOf : Instr → Option (BitVec 8 × LMem)
  | .vld x => some (0x60, x)
  | .vst x => some (0x61, x)
  | .vldc x => some (0x62, x)
  | .vstc x => some (0x63, x)
  | .vldro x => some (0x64, x)
  | .vatom x => some (0x65, x)
  | .vcas x => some (0x66, x)
  | .vpref x => some (0x67, x)
  | _ => none

/-- MMA and MMAS from Tables 10-5 and 10-6. -/
def lMma (w : BitVec 96) : Option LMma :=
  match MFmt.ofCode (w.extractLsb' 64 3).toNat, MFmt.ofCode (w.extractLsb' 67 3).toNat with
  | some fA, some fB =>
    let src : Option MSrc :=
      match (lBsel w).toNat with
      | 0 => if (lVb w).extractLsb' 4 6 = 0 then some (.record ((lVb w).extractLsb' 0 4)) else none
      | 1 => if (lVb w).extractLsb' 8 2 = 0 then some (.slice ((lVb w).extractLsb' 0 8)) else none
      | _ => none
    match src with
    | none => none
    | some b =>
      if lT w = 0 ∧ (w.extractLsb' 52 6) = 0 ∧ (lVd w).extractLsb' 2 8 = 0 ∧
         (lVa w).extractLsb' 4 6 = 0 ∧ (lVc w).extractLsb' 8 2 = 0 ∧ w.extractLsb' 70 14 = 0 then
        some { stall := lStall w, m := (lVd w).extractLsb' 0 2, ra := (lVa w).extractLsb' 0 4, b := b,
               shape := (lVc w).extractLsb' 0 8, sbs := w.extractLsb' 88 8, fmtA := fA, fmtB := fB }
      else none
  | _, _ => none

/-- MRD (`rd` true) and MWR from Tables 10-5 and 10-6. -/
def lMrw (rd : Bool) (w : BitVec 96) : Option LMrw :=
  if lT w = 0 ∧ lBsel w = 0 ∧ lVb w = 0 ∧ (lVc w).extractLsb' 8 2 = 0 ∧ w.extractLsb' 78 18 = 0 ∧
     (if rd then lVa w = 0 else lVd w = 0) then
    some { stall := lStall w, pred := lPred w, v := if rd then lVd w else lVa w,
           sd := (lVc w).extractLsb' 0 8, m := w.extractLsb' 76 2, cnt := w.extractLsb' 73 3,
           col := w.extractLsb' 66 7, rblk := w.extractLsb' 64 2 }
  else none

/-- OSTO (`st` true) and OLOD from Tables 10-5 and 10-6. -/
def lRec (st : Bool) (w : BitVec 96) : Option LRec :=
  if lT w = 0 ∧ lBsel w = 0 ∧ (lVd w).extractLsb' 4 6 = 0 ∧ (lVc w).extractLsb' 8 2 = 0 ∧
     w.extractLsb' 84 12 = 0 ∧ (if st then lVb w = 0 else lVa w = 0) then
    some { stall := lStall w, pred := lPred w, o := (lVd w).extractLsb' 0 4,
           v := if st then lVa w else lVb w, off := (lVc w).extractLsb' 0 8,
           cnt := w.extractLsb' 80 4, stride := w.extractLsb' 64 16 }
  else none

/-- MEPI from Tables 10-5 and 10-6. -/
def lEpi (w : BitVec 96) : Option LEpi :=
  match OFmt.ofCode (w.extractLsb' 66 3).toNat with
  | none => none
  | some f =>
    if lT w = 0 ∧ lBsel w = 1 ∧ (lVb w).extractLsb' 8 2 = 0 ∧ (lVd w).extractLsb' 2 8 = 0 ∧
       (lVc w).extractLsb' 8 2 = 0 ∧ w.extractLsb' 73 15 = 0 then
      some { stall := lStall w, pred := lPred w, m := (lVd w).extractLsb' 0 2, va := lVa w,
             scale := (lVb w).extractLsb' 0 8, shape := (lVc w).extractLsb' 0 8,
             sfold := w.extractLsb' 88 8, sat := w.getLsbD 72, fold := w.getLsbD 71,
             clr := w.getLsbD 70, relu := w.getLsbD 69, ofmt := f, rblk := w.extractLsb' 64 2 }
    else none

/-- The matrix instruction and VNOP words (Tables 10-5, 10-6; R69, item 10). -/
def matrixRow (w : BitVec 96) : Option Instr :=
  match (lOpc w).toNat with
  | 0x80 => if w.extractLsb' 84 4 = 0 then (lMma w).map .mma else none
  | 0x81 => (lMma w).map fun x => .mmas x (w.extractLsb' 84 4)
  | 0x82 => (lMrw true w).map .mrd
  | 0x83 => (lMrw false w).map .mwr
  | 0x84 =>
    if lT w = 0 ∧ lBsel w = 0 ∧ lVb w = 0 ∧ lVa w = 0 ∧ lVc w = 0 ∧ w.extractLsb' 52 6 = 0 ∧
       (lVd w).extractLsb' 2 8 = 0 ∧ lW2 w = 0 then
      some (.mzero (lStall w) ((lVd w).extractLsb' 0 2))
    else none
  | 0x85 =>
    if lT w = 0 ∧ lBsel w = 0 ∧ lVb w = 0 ∧ lVa w = 0 ∧ lVc w = 0 ∧ w.extractLsb' 52 6 = 0 ∧
       lVd w = 0 ∧ lW2 w = 0 then some (.mwait (lStall w)) else none
  | 0x86 => (lRec true w).map .osto
  | 0x87 => (lRec false w).map .olod
  | 0x88 => (lEpi w).map .mepi
  | 0xF0 =>
    if lT w = 0 ∧ lBsel w = 0 ∧ lVb w = 0 ∧ lVa w = 0 ∧ lVc w = 0 ∧ w.extractLsb' 52 6 = 0 ∧
       lVd w = 0 ∧ lW2 w = 0 then some (.vnop (lStall w)) else none
  | _ => none

/-- An arithmetic-form field set of zeros, by which an opcode is known to be listed. -/
def zeroArith : LArith :=
  { stall := 0, pred := { pe := false, pn := false, pi := 0 }, ty := .b32, vd := 0, va := 0,
    b := .vec 0, c := .vec 0, m := Mods.neutral }

/-- A lane word as an instruction, or why it is none: the conditions of R69 and of the entries
that the word alone decides. -/
def decodeLane (w : BitVec 96) : Except LaneReject Instr :=
  let checked (i : Instr) : Except LaneReject Instr := if i.wf then .ok i else .error .entry
  let opc := (lOpc w).toNat
  if opc = 0xF0 || (0x80 ≤ opc && opc ≤ 0x88) then
    match matrixRow w with
    | some i => checked i
    | none => .error .matrixForm
  else if 0x60 ≤ opc && opc ≤ 0x67 then
    match lMem w with
    | .error r => .error r
    | .ok x => match memCtor opc x with
      | some i => checked i
      | none => .error .opcode
  else
    match lArith w with
    | .error r => if (arithCtor opc zeroArith).isSome then .error r else .error .opcode
    | .ok x => match arithCtor opc x with
      | some i => checked i
      | none => .error .opcode

/-- Words 0 and 1 below a given word2 (Table 04-4). -/
def laneWord (w2 : BitVec 32) (bsel : BitVec 2) (stall : BitVec 4) (p : Pred) (vc vb va vd : BitVec 10)
    (t : BitVec 4) (opc : BitVec 8) : BitVec 96 :=
  w2 ++ bsel ++ stall ++ bit p.pe ++ bit p.pn ++ p.pi ++ vc ++ vb ++ va ++ vd ++ t ++ opc

/-- bsel of operand b. -/
def BSrc.sel : BSrc → BitVec 2
  | .vec _ => 0 | .scal _ => 1 | .imm _ => 2 | .queue _ => 3

/-- vb of operand b. -/
def BSrc.field : BSrc → BitVec 10
  | .vec r => r | .scal r => (0 : BitVec 2) ++ r | .imm _ => 0 | .queue q => (0 : BitVec 5) ++ q

/-- csel of operand c. -/
def CSrc.sel : CSrc → BitVec 2
  | .vec _ => 0 | .scal _ => 1 | .queue _ => 3

/-- vc of operand c. -/
def CSrc.field : CSrc → BitVec 10
  | .vec r => r | .scal r => (0 : BitVec 2) ++ r | .queue q => (0 : BitVec 5) ++ q

/-- Word2 of an arithmetic-form instruction. -/
def LArith.word2 (x : LArith) : BitVec 32 :=
  match x.b with
  | .imm v => v
  | _ => x.m.aux10 ++ x.m.aux4 ++ x.c.sel ++ bit x.m.sat ++ x.m.rnd.bits ++ bit x.m.negc ++
      bit x.m.negb ++ bit x.m.nega ++ bit x.m.absa ++ bit x.m.fs ++ x.m.xarg ++ x.m.xmode.code

/-- The word of an arithmetic-form instruction. -/
def LArith.encode (opc : BitVec 8) (x : LArith) : BitVec 96 :=
  laneWord x.word2 x.b.sel x.stall x.pred x.c.field x.b.field x.va x.vd (BitVec.ofNat 4 x.ty.code) opc

/-- The word of a memory-form instruction. -/
def LMem.encode (opc : BitVec 8) (x : LMem) : BitVec 96 :=
  let sel : BitVec 2 := match x.base with | .vec _ => 0 | .scal _ => 1
  let vb : BitVec 10 := match x.base with | .vec r => r | .scal r => (0 : BitVec 2) ++ r
  laneWord (x.off ++ (0 : BitVec 2) ++ x.aop ++ x.order.bits ++ x.scope.code) sel x.stall x.pred
    x.vc vb x.va x.vd x.size.code opc

/-- The predicate fields of an instruction that takes none. -/
def noPred : Pred := { pe := false, pn := false, pi := 0 }

/-- The word of MMA (`orm` 0) or MMAS. -/
def LMma.encode (opc : BitVec 8) (orm : BitVec 4) (x : LMma) : BitVec 96 :=
  let sel : BitVec 2 := match x.b with | .record _ => 0 | .slice _ => 1
  let vb : BitVec 10 := match x.b with | .record o => (0 : BitVec 6) ++ o | .slice s => (0 : BitVec 2) ++ s
  laneWord (x.sbs ++ orm ++ (0 : BitVec 14) ++ x.fmtB.code ++ x.fmtA.code) sel x.stall noPred
    ((0 : BitVec 2) ++ x.shape) vb ((0 : BitVec 6) ++ x.ra) ((0 : BitVec 8) ++ x.m) 0 opc

/-- Word2 of MRD and MWR. -/
def LMrw.word2 (x : LMrw) : BitVec 32 := (0 : BitVec 18) ++ x.m ++ x.cnt ++ x.col ++ x.rblk

/-- Word2 of OSTO and OLOD. -/
def LRec.word2 (x : LRec) : BitVec 32 := (0 : BitVec 12) ++ x.cnt ++ x.stride

/-- Word2 of MEPI. -/
def LEpi.word2 (x : LEpi) : BitVec 32 :=
  x.sfold ++ (0 : BitVec 15) ++ bit x.sat ++ bit x.fold ++ bit x.clr ++ bit x.relu ++ x.ofmt.code ++ x.rblk

/-- The word of a lane instruction. -/
def encodeLane (i : Instr) : Option (BitVec 96) :=
  match arithOf i with
  | some (opc, x) => some (x.encode opc)
  | none =>
    match memOf i with
    | some (opc, x) => some (x.encode opc)
    | none =>
      match i with
      | .mma x => some (x.encode 0x80 0)
      | .mmas x orm => some (x.encode 0x81 orm)
      | .mrd x => some (laneWord x.word2 0 x.stall x.pred ((0 : BitVec 2) ++ x.sd) 0 0 x.v 0 0x82)
      | .mwr x => some (laneWord x.word2 0 x.stall x.pred ((0 : BitVec 2) ++ x.sd) 0 x.v 0 0 0x83)
      | .mzero st m => some (laneWord 0 0 st noPred 0 0 0 ((0 : BitVec 8) ++ m) 0 0x84)
      | .mwait st => some (laneWord 0 0 st noPred 0 0 0 0 0 0x85)
      | .osto x => some (laneWord x.word2 0 x.stall x.pred ((0 : BitVec 2) ++ x.off) 0 x.v ((0 : BitVec 6) ++ x.o) 0 0x86)
      | .olod x => some (laneWord x.word2 0 x.stall x.pred ((0 : BitVec 2) ++ x.off) x.v 0 ((0 : BitVec 6) ++ x.o) 0 0x87)
      | .mepi x => some (laneWord x.word2 1 x.stall x.pred ((0 : BitVec 2) ++ x.shape) ((0 : BitVec 2) ++ x.scale) x.va ((0 : BitVec 8) ++ x.m) 0 0x88)
      | .vnop st => some (laneWord 0 0 st noPred 0 0 0 0 0 0xF0)
      | _ => none

/-! ### Jenrid packets -/

/-- The opcode field of a packet's first quadword (Table 22-2). -/
def pktOpc (q0 : BitVec 64) : BitVec 16 := q0.extractLsb' 0 16

/-- The header of a packet. -/
def pktHdr (q0 q1 : BitVec 64) : Hdr :=
  { r1 := q0.extractLsb' 48 16, ctx := q0.extractLsb' 32 16, r0 := q0.extractLsb' 24 8,
    len := q0.extractLsb' 16 8, seq := q1 }

/-- The command of an opcode over its header and payload quadwords (Table 22-3). -/
def packetRow (opc : Nat) (h : Hdr) (q : Nat → BitVec 64) : Option Instr :=
  match opc with
  | 0x0000 => some (.nop h)
  | 0x0001 => some (.ctxcfg h (q 0) (q 1) (q 2) (q 3) (q 4) (q 5))
  | 0x0002 => some (.launch h (q 0) (q 1) (q 2) (q 3))
  | 0x0003 => some (.graph h (q 0) (q 1) (q 2) (q 3) (q 4) (q 5))
  | 0x0004 => some (.task h (q 0) (q 1) (q 2) (q 3) (q 4) (q 5) (q 6) (q 7))
  | 0x0005 => some (.signal h (q 0) (q 1))
  | 0x0006 =>
    if (q 0).toNat % 2 = 0 then some (.cancelLaunch h (q 0) (q 1))
    else some (.cancelTask h (q 0) (q 1))
  | 0x0007 => some (.frame h (q 0) (q 1))
  | 0x0008 =>
    if (q 0).toNat % 4 = 0 then some (.mapSetTableBase h (q 0) (q 1) (q 2) (q 3))
    else if (q 0).toNat % 4 = 1 then some (.mapWriteEntry h (q 0) (q 1) (q 2) (q 3))
    else some (.mapMigrate h (q 0) (q 1) (q 2) (q 3))
  | 0x0009 => some (.copy h (q 0) (q 1))
  | 0x000A => some (.fenceCommand h)
  | 0x000B => some (.codecwb h (q 0) (q 1))
  | 0x000C =>
    if (q 0).toNat % 8 = 0 then some (.countrdBound h (q 0) (q 1) (q 2) (q 3))
    else if (q 0).toNat % 8 = 1 then some (.countrdCodec h (q 0) (q 1) (q 2) (q 3))
    else if (q 0).toNat % 8 = 2 then some (.countrdMeridian h (q 0) (q 1) (q 2) (q 3))
    else some (.countrdFlush h (q 0) (q 1) (q 2) (q 3))
  | 0x000D => some (.blink h (q 0) (q 1))
  | 0x000E => some (.snapread h (q 0) (q 1))
  | 0x000F => some (.capread h (q 0) (q 1))
  | 0x0010 =>
    if (q 1).toNat % 2 = 0 then some (.faultansResume h (q 0) (q 1))
    else some (.faultansFail h (q 0) (q 1))
  | 0x0011 => some (.switch h (q 0) (q 1))
  | 0x0012 => some (.restore h (q 0) (q 1))
  | 0x0013 => some (.ringrst h (q 0) (q 1) (q 2) (q 3))
  | 0x0014 => some (.power h (q 0) (q 1))
  | 0x0015 => some (.partcfg h (q 0) (q 1) (q 2) (q 3))
  | 0x0016 => some (.image h (q 0) (q 1))
  | 0x0017 => some (.attest h (q 0) (q 1) (q 2) (q 3) (q 4) (q 5) (q 6) (q 7) (q 8) (q 9))
  | _ => none

/-- A packet, as its quadwords, as a command: checks 2 and 3 of R376. -/
def decodePacket : List (BitVec 64) → Except PacketReject Instr
  | q0 :: q1 :: rest =>
    match packetRow (pktOpc q0).toNat (pktHdr q0 q1) (fun n => rest.getD n 0) with
    | none => .error .unknownOpcode
    | some i => if i.wf then .ok i else .error .invalidLength
  | _ => .error .unknownOpcode

/-- The opcode, header and payload of a command. -/
def packetOf : Instr → Option (BitVec 16 × Hdr × List (BitVec 64))
  | .nop h => some (0x0000, h, [])
  | .ctxcfg h handler lbase rt spill w6 tmpl => some (0x0001, h, [handler, lbase, rt, spill, w6, tmpl])
  | .launch h desc argb w4 groups => some (0x0002, h, [desc, argb, w4, groups])
  | .graph h desc argb w4 groups nodes w7 => some (0x0003, h, [desc, argb, w4, groups, nodes, w7])
  | .task h r0 r1 r2 r3 r4 r5 r6 r7 => some (0x0004, h, [r0, r1, r2, r3, r4, r5, r6, r7])
  | .signal h idx w3 => some (0x0005, h, [idx, w3])
  | .cancelLaunch h w2 seq => some (0x0006, h, [w2, seq])
  | .cancelTask h w2 idx => some (0x0006, h, [w2, idx])
  | .frame h desc w3 => some (0x0007, h, [desc, w3])
  | .mapSetTableBase h w2 base w4 w5 => some (0x0008, h, [w2, base, w4, w5])
  | .mapWriteEntry h w2 addr entry w5 => some (0x0008, h, [w2, addr, entry, w5])
  | .mapMigrate h w2 page pa w5 => some (0x0008, h, [w2, page, pa, w5])
  | .copy h start off => some (0x0009, h, [start, off])
  | .fenceCommand h => some (0x000A, h, [])
  | .codecwb h page count => some (0x000B, h, [page, count])
  | .countrdBound h w2 w3 buf w5 => some (0x000C, h, [w2, w3, buf, w5])
  | .countrdCodec h w2 page buf w5 => some (0x000C, h, [w2, page, buf, w5])
  | .countrdMeridian h w2 w3 buf w5 => some (0x000C, h, [w2, w3, buf, w5])
  | .countrdFlush h w2 j buf w5 => some (0x000C, h, [w2, j, buf, w5])
  | .blink h ctl thr => some (0x000D, h, [ctl, thr])
  | .snapread h buf bytes => some (0x000E, h, [buf, bytes])
  | .capread h w2 buf => some (0x000F, h, [w2, buf])
  | .faultansResume h id w3 => some (0x0010, h, [id, w3])
  | .faultansFail h id w3 => some (0x0010, h, [id, w3])
  | .switch h area w3 => some (0x0011, h, [area, w3])
  | .restore h area w3 => some (0x0012, h, [area, w3])
  | .ringrst h w2 head seq w5 => some (0x0013, h, [w2, head, seq, w5])
  | .power h w2 w3 => some (0x0014, h, [w2, w3])
  | .partcfg h w2 mask w4 w5 => some (0x0015, h, [w2, mask, w4, w5])
  | .image h addr w3 => some (0x0016, h, [addr, w3])
  | .attest h buf w3 n0 n1 n2 n3 n4 n5 n6 n7 => some (0x0017, h, [buf, w3, n0, n1, n2, n3, n4, n5, n6, n7])
  | _ => none

/-- The quadwords of a command's packet; a NOP's ignored payload is written as zeros. -/
def encodePacket (i : Instr) : Option (List (BitVec 64)) :=
  match packetOf i with
  | some (opc, h, qs) =>
    let pad := 2 * h.len.toNat - 2 - qs.length
    some ((h.r1 ++ h.ctx ++ h.r0 ++ h.len ++ opc) :: h.seq :: (qs ++ List.replicate pad 0))
  | none => none

/-! ### All of them -/

/-- The words of an instruction that has an encoding. -/
inductive Encoding where
  | scalar (w : BitVec 32)
  | lane (w : BitVec 96)
  | packet (qs : List (BitVec 64))
  deriving DecidableEq, Repr

/-- The encoding of an instruction; a device step has none. -/
def encode (i : Instr) : Option Encoding :=
  match encodeScalar i with
  | some w => some (.scalar w)
  | none =>
    match encodeLane i with
    | some w => some (.lane w)
    | none => (encodePacket i).map .packet

/-- The instruction of an encoding. -/
def Encoding.decode : Encoding → Option Instr
  | .scalar w => some (decodeScalar w)
  | .lane w => (decodeLane w).toOption
  | .packet qs => (decodePacket qs).toOption

/-- `n` quadwords of a number, lowest first. -/
def quadsOf : Nat → Nat → List (BitVec 64)
  | 0, _ => []
  | n + 1, w => BitVec.ofNat 64 w :: quadsOf n (w / 2 ^ 64)

/-- The instruction the decoder reads from a row's word, as `opcode_table.json` numbers its bits:
32 bits a scalar word, 96 bits a lane word, 16-byte units a packet. -/
def decodeTableWord (nbits w : Nat) : Option Instr :=
  if nbits ≤ 32 then some (decodeScalar (BitVec.ofNat 32 w))
  else if nbits ≤ 96 then (decodeLane (BitVec.ofNat 96 w)).toOption
  else (decodePacket (quadsOf (nbits / 64) w)).toOption

end Sys2Proof
end

