-- ==== Sys2Proof/Machine/Map.lean ====
section
/-! DEFINITION. Operations on sparse maps: pairs in strictly rising key order. Registers, memory,
tables and queues are all kept in this one form. -/

namespace Sys2Proof

variable {α : Type}

/-- The value at a key. -/
def SMap.get? : SMap α → Nat → Option α
  | [], _ => none
  | (i, v) :: m, k => if i = k then some v else SMap.get? m k

/-- The value at a key, or a default. -/
def SMap.getD (m : SMap α) (k : Nat) (d : α) : α := (SMap.get? m k).getD d

/-- The map with a value put at a key, in its place in the order. -/
def SMap.put : SMap α → Nat → α → SMap α
  | [], k, v => [(k, v)]
  | (i, x) :: m, k, v =>
    if k < i then (k, v) :: (i, x) :: m
    else if k = i then (k, v) :: m
    else (i, x) :: SMap.put m k v

/-- The map without a key. -/
def SMap.del : SMap α → Nat → SMap α
  | [], _ => []
  | (i, x) :: m, k => if i = k then SMap.del m k else (i, x) :: SMap.del m k

/-- A write to a map whose unlisted keys read as `d`: writing `d` removes the entry. -/
def SMap.write [DecidableEq α] (d : α) (m : SMap α) (k : Nat) (v : α) : SMap α :=
  if v = d then SMap.del m k else SMap.put m k v

/-- The map with the value at a key changed, if it is there. -/
def SMap.adjust (m : SMap α) (k : Nat) (f : α → α) : SMap α :=
  match SMap.get? m k with
  | some v => SMap.put m k (f v)
  | none => m

/-- Several writes in order. -/
def SMap.writes [DecidableEq α] (d : α) (m : SMap α) (l : List (Nat × α)) : SMap α :=
  l.foldl (fun m kv => SMap.write d m kv.1 kv.2) m

/-- Keys strictly rising from a bound. -/
def SMap.risingFrom : Nat → SMap α → Bool
  | _, [] => true
  | lo, (k, _) :: m => decide (lo ≤ k) && SMap.risingFrom (k + 1) m

/-- The canonical form: keys strictly rising. -/
def SMap.wf (m : SMap α) : Bool := SMap.risingFrom 0 m

/-- The canonical form of a map whose unlisted keys read as `d`: no entry equals `d`. -/
def SMap.wfD [DecidableEq α] (d : α) (m : SMap α) : Bool :=
  SMap.wf m && m.all (fun kv => decide (kv.2 ≠ d))

/-- The values in key order. -/
def SMap.vals (m : SMap α) : List α := m.map (·.2)

/-- The keys in order. -/
def SMap.keys (m : SMap α) : List Nat := m.map (·.1)

/-- The lowest number from `lo` on, within `fuel` tries, that is no key. -/
def SMap.freeFrom (m : SMap α) : Nat → Nat → Option Nat
  | _, 0 => none
  | lo, fuel + 1 => if (SMap.get? m lo).isSome then SMap.freeFrom m (lo + 1) fuel else some lo

end Sys2Proof
end

