-- ==== Sys2Proof/Machine/Bits.lean ====
section
/-! DEFINITION. Bit fields, counts of bits, byte order (R1: little-endian everywhere) and the
lists of lanes. -/

namespace Sys2Proof

/-- Bits [hi:lo] of a word, as a number. -/
def bits {n : Nat} (x : BitVec n) (hi lo : Nat) : Nat := (x.extractLsb' lo (hi + 1 - lo)).toNat

/-- Whether every bit of [hi:lo] is 0. -/
def zeroBits {n : Nat} (x : BitVec n) (hi lo : Nat) : Bool := bits x hi lo == 0

/-- A number as a 64-bit word. -/
def dw (n : Nat) : DWord := BitVec.ofNat 64 n

/-- A 64-bit word of an integer, modulo 2^64. -/
def dwI (n : Int) : DWord := BitVec.ofInt 64 n

/-- The number of 1 bits. -/
def popcount {n : Nat} (x : BitVec n) : Nat :=
  (List.range n).foldl (fun k i => if x.getLsbD i then k + 1 else k) 0

/-- The number of 0 bits above the highest 1 bit (n when there is none). -/
def leadingZeros {n : Nat} (x : BitVec n) : Nat :=
  if x.toNat = 0 then n else n - 1 - Nat.log2 x.toNat

/-- The number of 0 bits below the lowest 1 bit among the first `fuel` from bit `i`. -/
def trailingFrom {n : Nat} (x : BitVec n) : Nat → Nat → Nat
  | i, 0 => i
  | i, fuel + 1 => if x.getLsbD i then i else trailingFrom x (i + 1) fuel

/-- The number of 0 bits below the lowest 1 bit (n when there is none). -/
def trailingZeros {n : Nat} (x : BitVec n) : Nat := trailingFrom x 0 n

/-- Bit i moved to bit n − 1 − i. -/
def bitReverse {n : Nat} (x : BitVec n) : BitVec n :=
  (List.range n).foldl (fun y i => if x.getLsbD i then y ||| BitVec.twoPow n (n - 1 - i) else y) 0

/-- The lane numbers, ascending (R5). -/
def allLanes : List Nat := List.range 32

/-- The lanes of a mask, ascending. -/
def lanesOf (m : Word) : List Nat := allLanes.filter (fun i => m.getLsbD i)

/-- The mask of a list of lanes. -/
def maskOf (l : List Nat) : Word := l.foldl (fun m i => m ||| BitVec.twoPow 32 i) 0

/-- The mask of lanes a predicate holds for. -/
def maskWhere (f : Nat → Bool) : Word := maskOf (allLanes.filter f)

/-- The populated mask of p lanes (R21, R26). -/
def popMask (p : Nat) : Word := BitVec.ofNat 32 (2 ^ p - 1)

/-- `n` bytes of a number, lowest first. -/
def bytesOf : Nat → Nat → List Byte
  | 0, _ => []
  | n + 1, x => BitVec.ofNat 8 x :: bytesOf n (x / 256)

/-- The number of a byte string, lowest first. -/
def natOfBytes : List Byte → Nat
  | [] => 0
  | b :: l => b.toNat + 256 * natOfBytes l

/-- 64-bit words of a byte string, eight bytes each. -/
def quadsOfBytes (n : Nat) (l : List Byte) : List DWord := quadsOf n (natOfBytes l)

/-- The bytes of 64-bit words. -/
def bytesOfQuads (l : List DWord) : List Byte := l.flatMap (fun q => bytesOf 8 q.toNat)

/-- Saturating sum. -/
def satAdd (a b limit : Nat) : Nat := Nat.min (a + b) limit

/-- An integer clamped to a range. -/
def clampI (x lo hi : Int) : Int := if x < lo then lo else if hi < x then hi else x

/-- The signed difference of two 32-bit counters, modulo 2^32. -/
def diff32 (a b : Nat) : Nat := (a + 2 ^ 32 - b % 2 ^ 32) % 2 ^ 32

end Sys2Proof
end

