-- ==== Sys2Proof/Machine/Flags.lean ====
section
/-! DEFINITION. The conditions floating-point instructions record, and FPSTAT (R86, Table 05-6). -/

namespace Sys2Proof

/-- The events of one lane of one instruction: the flags of R86 and the three counted events. -/
structure FpEv where
  nv : Bool := false
  dz : Bool := false
  ovf : Bool := false
  unf : Bool := false
  nx : Bool := false
  sat : Bool := false
  flush : Bool := false
  nan : Bool := false
  deriving DecidableEq, Repr

namespace FpEv

/-- No event. -/
def zero : FpEv := {}

/-- The events of two elements or steps of one lane: a lane counts once in each count (R148). -/
def merge (a b : FpEv) : FpEv :=
  { nv := a.nv || b.nv, dz := a.dz || b.dz, ovf := a.ovf || b.ovf, unf := a.unf || b.unf,
    nx := a.nx || b.nx, sat := a.sat || b.sat, flush := a.flush || b.flush, nan := a.nan || b.nan }

/-- The events without the counts (arithmetic instructions count nothing, R140). -/
def flagsOnly (a : FpEv) : FpEv := { a with sat := false, flush := false, nan := false }

/-- The flags an instruction's row lists (R140): `m` has the bits NV, DZ, OF, UF, NX from bit 0. -/
def maskFlags (a : FpEv) (m : BitVec 5) : FpEv :=
  { a with nv := a.nv && m.getLsbD 0, dz := a.dz && m.getLsbD 1, ovf := a.ovf && m.getLsbD 2,
           unf := a.unf && m.getLsbD 3, nx := a.nx && m.getLsbD 4 }

/-- The flags as bits [4:0] of FPSTAT. -/
def flagBits (a : FpEv) : BitVec 5 :=
  (if a.nv then 1 else 0) ||| (if a.dz then 2 else 0) ||| (if a.ovf then 4 else 0) |||
  (if a.unf then 8 else 0) ||| (if a.nx then 16 else 0)

end FpEv

/-- An FPSTAT word from its fields (Table 05-6). -/
def fpstatWord (sat flush nan : Nat) (fl : BitVec 5) : DWord :=
  BitVec.ofNat 16 sat ++ BitVec.ofNat 16 flush ++ BitVec.ofNat 16 nan ++ (0 : BitVec 11) ++ fl

/-- What one instruction adds to FPSTAT: each count the number of lanes with the event, the flags
of any lane (R86). The word has FPSTAT's layout. -/
def fpDelta (evs : List FpEv) : DWord :=
  fpstatWord (evs.countP (·.sat)) (evs.countP (·.flush)) (evs.countP (·.nan))
    (evs.foldl (fun b e => b ||| e.flagBits) 0)

/-- FPSTAT after an update: counts add and stop at 0xFFFF, flags are ORed (R86, R140). -/
def fpApply (old delta : DWord) : DWord :=
  fpstatWord (satAdd (bits old 63 48) (bits delta 63 48) 0xFFFF)
    (satAdd (bits old 47 32) (bits delta 47 32) 0xFFFF)
    (satAdd (bits old 31 16) (bits delta 31 16) 0xFFFF)
    (old.extractLsb' 0 5 ||| delta.extractLsb' 0 5)

/-- FPSTAT after an SWR: counts take the written value, a flag written as 1 is cleared (R86). -/
def fpWrite (old x : DWord) : DWord :=
  x.extractLsb' 48 16 ++ x.extractLsb' 32 16 ++ x.extractLsb' 16 16 ++ (0 : BitVec 11) ++
    (old.extractLsb' 0 5 &&& ~~~ x.extractLsb' 0 5)

/-- The comparison codes of R115, at width n. -/
def compareCode {n : Nat} (cc : Nat) (a b : BitVec n) : Bool :=
  match cc with
  | 0 => a == b
  | 1 => a != b
  | 2 => a.slt b
  | 3 => a.sle b
  | 4 => b.slt a
  | 5 => b.sle a
  | 6 => a.ult b
  | 7 => a.ule b
  | 8 => b.ult a
  | 9 => b.ule a
  | 10 => (a &&& b) != 0
  | _ => (a &&& b) == 0

/-- The truth table of CLOG (R116): bit 2·a + b of the table. -/
def clogBit (t : BitVec 4) (a b : Bool) : Bool :=
  t.getLsbD ((if a then 2 else 0) + (if b then 1 else 0))

end Sys2Proof
end

