-- ==== Sys2Proof/Machine/Fp.lean ====
section
/-! DEFINITION. Floating point (05 Number formats): values, the formats of Table 05-1, rounding
(R82), overflow (R84), saturation (R85) and the arithmetic of R139, on exact integers. -/

namespace Sys2Proof

/-- A value: NaN, an infinity, or (−1)^neg · m · 2^e (m = 0 is a signed zero). -/
inductive FVal where
  | nan
  | inf (neg : Bool)
  | fin (neg : Bool) (m : Nat) (e : Int)
  deriving DecidableEq, Repr

/-- A format of Table 05-1: exponent bits, fraction bits, bias, whether its top codes are E4M3's,
and the canonical NaN (R79). -/
structure FFmt where
  eb : Nat
  fb : Nat
  bias : Nat
  e4m3 : Bool
  qnan : Nat
  deriving DecidableEq, Repr

namespace FFmt
/-- FP64. -/
def f64 : FFmt := { eb := 11, fb := 52, bias := 1023, e4m3 := false, qnan := 0x7FF8000000000000 }
/-- FP32. -/
def f32 : FFmt := { eb := 8, fb := 23, bias := 127, e4m3 := false, qnan := 0x7FC00000 }
/-- FP16. -/
def f16 : FFmt := { eb := 5, fb := 10, bias := 15, e4m3 := false, qnan := 0x7E00 }
/-- BF16. -/
def bf16 : FFmt := { eb := 8, fb := 7, bias := 127, e4m3 := false, qnan := 0x7FC0 }
/-- E4M3. -/
def e4m3' : FFmt := { eb := 4, fb := 3, bias := 7, e4m3 := true, qnan := 0x7F }
/-- E5M2. -/
def e5m2 : FFmt := { eb := 5, fb := 2, bias := 15, e4m3 := false, qnan := 0x7E }

/-- Bits of a code. -/
def width (f : FFmt) : Nat := 1 + f.eb + f.fb
/-- The sign bit's weight. -/
def sign (f : FFmt) : Nat := 2 ^ (f.eb + f.fb)
/-- The code of +infinity, or of the first code past E4M3's largest finite one. -/
def top (f : FFmt) : Nat := if f.e4m3 then 0x7F else (2 ^ f.eb - 1) * 2 ^ f.fb
/-- The code of the largest finite value. -/
def maxFin (f : FFmt) : Nat := f.top - 1
/-- The exponent of the least subnormal. -/
def qmin (f : FFmt) : Int := 1 - (f.bias : Int) - (f.fb : Int)
/-- The exponent of the least normal. -/
def emin (f : FFmt) : Int := 1 - (f.bias : Int)

/-- The value of a code (R76, R77). -/
def dec (f : FFmt) (code : Nat) : FVal :=
  let neg := code / f.sign % 2 = 1
  let mag := code % f.sign
  let ex := mag / 2 ^ f.fb
  let fr := mag % 2 ^ f.fb
  if f.e4m3 then
    if mag = 0x7F then .nan
    else if ex = 0 then .fin neg fr f.qmin
    else .fin neg (2 ^ f.fb + fr) (f.qmin + (ex : Int) - 1)
  else if ex = 2 ^ f.eb - 1 then (if fr = 0 then .inf neg else .nan)
  else if ex = 0 then .fin neg fr f.qmin
  else .fin neg (2 ^ f.fb + fr) (f.qmin + (ex : Int) - 1)

/-- A code with a sign. -/
def signed (f : FFmt) (neg : Bool) (mag : Nat) : Nat := if neg then f.sign + mag else mag

/-- The code of an infinity; E4M3 has none and gives its NaN (Table 05-5). -/
def infCode (f : FFmt) (neg : Bool) : Nat := if f.e4m3 then 0x7F else f.signed neg f.top
end FFmt

/-- A rounded result: its code and the events OF, UF, NX. -/
structure FRes where
  code : Nat
  ev : FpEv
  deriving DecidableEq, Repr

/-- Whether a rounding away from the kept part is made (R82): `r` of `2^d` is the part cut off,
`more` says a nonzero part lies below it, `odd` is the kept part's last bit. -/
def roundsUp (rnd : Rnd) (neg : Bool) (odd : Bool) (r d : Nat) (more : Bool) : Bool :=
  match rnd with
  | .rne => decide (2 * r > 2 ^ d) || (decide (2 * r = 2 ^ d) && (more || odd))
  | .rtz => false
  | .rup => !neg && (decide (r ≠ 0) || more)
  | .rdn => neg && (decide (r ≠ 0) || more)

/-- The integer and the inexactness of rounding `m·2^e` (plus a nonzero part below 2^e when
`more`) to a multiple of 2^q. -/
def roundQ (rnd : Rnd) (neg : Bool) (m : Nat) (e q : Int) (more : Bool) : Nat × Bool :=
  if q ≤ e then (m * 2 ^ (e - q).toNat, more)
  else
    let d := (q - e).toNat
    let n := m / 2 ^ d
    let r := m % 2 ^ d
    let up := roundsUp rnd neg (n % 2 == 1) r d more
    (if up then n + 1 else n, decide (r ≠ 0) || more)

/-- Overflow delivery (Table 05-5): by the mode, or clamped by `.sat`. -/
def overflowCode (f : FFmt) (rnd : Rnd) (neg clamp : Bool) : Nat :=
  let away := match rnd with | .rne => true | .rtz => false | .rup => !neg | .rdn => neg
  if clamp || !away then f.signed neg f.maxFin else f.infCode neg

/-- Rounding of a nonzero magnitude `m·2^e` (+ a part below when `more`) to a format, in a mode,
with the overflow rule of R84 (R82). -/
def roundFin (f : FFmt) (rnd : Rnd) (clamp : Bool) (neg : Bool) (m : Nat) (e : Int) (more : Bool) : FRes :=
  if m = 0 && !more then { code := f.signed neg 0, ev := {} }
  else
    let top : Int := e + (Nat.log2 m : Int)
    let q : Int := if f.qmin ≤ top - f.fb then top - f.fb else f.qmin
    let (n, inexact) := roundQ rnd neg m e q more
    let code := (q - f.qmin).toNat * 2 ^ f.fb + n
    if f.top ≤ code then
      { code := overflowCode f rnd neg clamp, ev := { ovf := true, nx := true, sat := true } }
    else
      { code := f.signed neg code, ev := { nx := inexact, unf := inexact && decide (top < f.emin) } }

/-- Rounding of a value to a format: NaN is canonical, an infinity stays one. -/
def roundVal (f : FFmt) (rnd : Rnd) (v : FVal) : FRes :=
  match v with
  | .nan => { code := f.qnan, ev := {} }
  | .inf neg => { code := f.infCode neg, ev := {} }
  | .fin neg m e => roundFin f rnd false neg m e false

/-! ### Exact arithmetic -/

/-- A term of an exact sum: sign, magnitude, exponent. -/
abbrev FTerm := Bool × Nat × Int

/-- The exact sum of terms as a value: an exact zero takes the sign all terms share, otherwise
the one IEEE 754-2019 gives the mode (R82). -/
def sumTerms (rnd : Rnd) (l : List FTerm) : FVal :=
  let e := l.foldl (fun a t => if t.2.2 < a then t.2.2 else a) (match l with | t :: _ => t.2.2 | [] => 0)
  let s : Int := l.foldl (fun a t =>
    let x : Int := ((t.2.1 * 2 ^ (t.2.2 - e).toNat : Nat) : Int)
    if t.1 then a - x else a + x) 0
  if s = 0 then
    let neg := if l.all (fun t => t.1) && !l.isEmpty then true
               else if l.all (fun t => !t.1) then false
               else rnd == .rdn
    .fin neg 0 0
  else .fin (decide (s < 0)) s.natAbs e

/-- The sum of values and whether it is invalid (∞ − ∞); a NaN operand gives NaN without it. -/
def addVals (rnd : Rnd) (l : List FVal) : FVal × Bool :=
  if l.contains .nan then (.nan, false)
  else
    let p := l.contains (.inf false)
    let n := l.contains (.inf true)
    if p && n then (.nan, true)
    else if p then (.inf false, false)
    else if n then (.inf true, false)
    else (sumTerms rnd (l.filterMap (fun v => match v with | .fin s m e => some (s, m, e) | _ => none)), false)

/-- The exact product and whether it is invalid (0 × ∞). -/
def mulVal (a b : FVal) : FVal × Bool :=
  match a, b with
  | .nan, _ => (.nan, false)
  | _, .nan => (.nan, false)
  | .inf s, .inf t => (.inf (s != t), false)
  | .inf s, .fin t m _ => if m = 0 then (.nan, true) else (.inf (s != t), false)
  | .fin s m _, .inf t => if m = 0 then (.nan, true) else (.inf (s != t), false)
  | .fin s m e, .fin t n g => (.fin (s != t) (m * n) (e + g), false)

/-- The negated value. -/
def FVal.neg : FVal → FVal
  | .nan => .nan
  | .inf s => .inf (!s)
  | .fin s m e => .fin (!s) m e

/-- Whether a value is NaN. -/
def FVal.isNan : FVal → Bool
  | .nan => true
  | _ => false

/-- The order of values, with −0 = +0: −1, 0 or 1, for operands that are not NaN. -/
def FVal.cmp (a b : FVal) : Int :=
  let rank (v : FVal) : Int := match v with
    | .inf true => -1
    | .inf false => 1
    | _ => 0
  match a, b with
  | .fin s m e, .fin t n g =>
    let lo := if e < g then e else g
    let x : Int := ((m * 2 ^ (e - lo).toNat : Nat) : Int)
    let y : Int := ((n * 2 ^ (g - lo).toNat : Nat) : Int)
    let x := if s then -x else x
    let y := if t then -y else y
    if x < y then -1 else if y < x then 1 else 0
  | _, _ =>
    if rank a < rank b then -1 else if rank b < rank a then 1 else 0

/-- A rounded value with the invalid condition. -/
def roundInv (f : FFmt) (rnd : Rnd) (r : FVal × Bool) : FRes :=
  let x := roundVal f rnd r.1
  { x with ev := { x.ev with nv := x.ev.nv || r.2 } }

/-- A + B (R139). -/
def fpAdd (f : FFmt) (rnd : Rnd) (a b : FVal) : FRes := roundInv f rnd (addVals rnd [a, b])

/-- A × B. -/
def fpMul (f : FFmt) (rnd : Rnd) (a b : FVal) : FRes := roundInv f rnd (mulVal a b)

/-- The sum of products and an addend, formed exactly and rounded once (VFMA, VFDOT). -/
def fpDot (f : FFmt) (rnd : Rnd) (l : List (FVal × FVal)) (c : FVal) : FRes :=
  let ps := l.map (fun p => mulVal p.1 p.2)
  let anyNan := c.isNan || l.any (fun p => p.1.isNan || p.2.isNan)
  let inv := ps.any (·.2)
  if anyNan then { code := f.qnan, ev := {} }
  else if inv then { code := f.qnan, ev := { nv := true } }
  else roundInv f rnd (addVals rnd (ps.map (·.1) ++ [c]))

/-- A / B with the special results of Table 08-2. -/
def fpDiv (f : FFmt) (rnd : Rnd) (a b : FVal) : FRes :=
  match a, b with
  | .nan, _ => { code := f.qnan, ev := {} }
  | _, .nan => { code := f.qnan, ev := {} }
  | .inf _, .inf _ => { code := f.qnan, ev := { nv := true } }
  | .inf s, .fin t _ _ => { code := f.infCode (s != t), ev := {} }
  | .fin s _ _, .inf t => { code := f.signed (s != t) 0, ev := {} }
  | .fin s m e, .fin t n g =>
    if n = 0 then
      if m = 0 then { code := f.qnan, ev := { nv := true } }
      else { code := f.infCode (s != t), ev := { dz := true } }
    else if m = 0 then { code := f.signed (s != t) 0, ev := {} }
    else
      let k := f.fb + 5 + Nat.log2 n + 1 - Nat.log2 m
      let x := m * 2 ^ k
      roundFin f rnd false (s != t) (x / n) (e - g - k) (x % n != 0)

/-- The integer square root, bit by bit from 2^k down. -/
def isqrtFrom (n : Nat) : Nat → Nat → Nat
  | 0, r => if (r + 1) * (r + 1) ≤ n then r + 1 else r
  | k + 1, r =>
    let c := r + 2 ^ (k + 1)
    isqrtFrom n k (if c * c ≤ n then c else r)

/-- The integer square root. -/
def isqrt (n : Nat) : Nat := isqrtFrom n (Nat.log2 n / 2 + 1) 0

/-- √A (Table 08-2). -/
def fpSqrt (f : FFmt) (rnd : Rnd) (a : FVal) : FRes :=
  match a with
  | .nan => { code := f.qnan, ev := {} }
  | .inf false => { code := f.infCode false, ev := {} }
  | .inf true => { code := f.qnan, ev := { nv := true } }
  | .fin s m e =>
    if m = 0 then { code := f.signed s 0, ev := {} }
    else if s then { code := f.qnan, ev := { nv := true } }
    else
      let k0 := 2 * (f.fb + 5)
      let k := if (e - k0) % 2 = 0 then k0 else k0 + 1
      let x := m * 2 ^ k
      let r := isqrt x
      roundFin f rnd false false r ((e - k) / 2) (r * r != x)

/-- 1 / √A (Table 08-2). -/
def fpRsqrt (f : FFmt) (rnd : Rnd) (a : FVal) : FRes :=
  match a with
  | .nan => { code := f.qnan, ev := {} }
  | .inf false => { code := f.signed false 0, ev := {} }
  | .inf true => { code := f.qnan, ev := { nv := true } }
  | .fin s m e =>
    if m = 0 then { code := f.infCode s, ev := { dz := true } }
    else if s then { code := f.qnan, ev := { nv := true } }
    else
      -- m·2^e with e even; 1/√ = √(2^(2k)/m) · 2^(−k − e/2)
      let m' := if e % 2 = 0 then m else 2 * m
      let e' := if e % 2 = 0 then e else e - 1
      let k := f.fb + 6 + Nat.log2 m' + 1
      let r := isqrt (2 ^ (2 * k) / m')
      roundFin f rnd false false r (-(k : Int) - e' / 2) (r * r * m' != 2 ^ (2 * k))

/-- MinNum and MaxNum with −0 below +0 (R141), on codes: a NaN gives the other operand. -/
def fpMinMax (f : FFmt) (wantMax : Bool) (a b : Nat) : Nat :=
  let va := f.dec a
  let vb := f.dec b
  if va.isNan then (if vb.isNan then f.qnan else b)
  else if vb.isNan then a
  else
    let c := va.cmp vb
    let aNeg := a / f.sign % 2 = 1
    let less := c < 0 || (c = 0 && aNeg)
    if less then (if wantMax then b else a) else (if wantMax then a else b)

/-- A result clamped to [+0.0, 1.0] (R85). -/
def clamp01 (f : FFmt) (code : Nat) : Nat :=
  match f.dec code with
  | .nan => 0
  | .inf neg => if neg then 0 else f.bias * 2 ^ f.fb
  | .fin neg m e =>
    if neg then 0
    else if FVal.cmp (.fin false m e) (.fin false 1 0) > 0 then f.bias * 2 ^ f.fb
    else code

/-- A rounded to an integral value (VFRND, R144): sign kept, infinity unchanged. -/
def fpRound (f : FFmt) (rnd : Rnd) (code : Nat) : Nat :=
  match f.dec code with
  | .nan => f.qnan
  | .inf _ => code
  | .fin neg m e =>
    let (n, _) := roundQ rnd neg m e 0 false
    if e ≥ 0 then code else (roundFin f .rtz false neg n 0 false).code

/-- A × 2^B, rounded once (R144). -/
def fpLdexp (f : FFmt) (rnd : Rnd) (a : FVal) (k : Int) : FRes :=
  match a with
  | .fin neg m e =>
    -- past this range every result overflows or underflows alike
    let k := clampI k (-5000) 5000
    roundVal f rnd (.fin neg m (e + k))
  | v => roundVal f rnd v

/-- The class mask of R143. -/
def fpClass (f : FFmt) (code : Nat) : Nat :=
  let neg := code / f.sign % 2 = 1
  let mag := code % f.sign
  let ex := mag / 2 ^ f.fb
  let fr := mag % 2 ^ f.fb
  if ex = 2 ^ f.eb - 1 then
    if fr = 0 then (if neg then 1 else 128)
    else if fr < 2 ^ (f.fb - 1) then 256 else 512
  else if ex = 0 then
    if fr = 0 then (if neg then 8 else 16) else (if neg then 4 else 32)
  else if neg then 2 else 64

/-! ### Conversions -/

/-- A float source to a float format by R82 and R84, with the counts of R86; `clamp` is `.sat`
on a narrowing conversion, `narrow` says whether CFLUSH and CNAN count (R147). -/
def cvtFloat (f : FFmt) (rnd : Rnd) (clamp narrow : Bool) (v : FVal) : FRes :=
  match v with
  | .nan => { code := f.qnan, ev := { nan := narrow } }
  | .inf neg =>
    if clamp then { code := f.signed neg f.maxFin, ev := { sat := true } }
    else { code := f.infCode neg, ev := { sat := f.e4m3 } }
  | .fin neg m e =>
    let r := roundFin f rnd clamp neg m e false
    let z := r.code % f.sign == 0
    { r with ev := { r.ev with flush := narrow && m != 0 && z } }

/-- The stochastic conversion of R83 to a float format; `c` is the element's draw. -/
def cvtStoch (f : FFmt) (clamp narrow : Bool) (c : Nat) (v : FVal) : FRes :=
  match v with
  | .fin neg m e =>
    let lo := roundFin f .rtz true neg m e false
    if m = 0 || !lo.ev.nx then lo
    else
      let top : Int := e + (Nat.log2 m : Int)
      let q : Int := if f.qmin ≤ top - f.fb then top - f.fb else f.qmin
      let d := (q - e).toNat
      let n := m / 2 ^ d
      let mag := (q - f.qmin).toNat * 2 ^ f.fb + n
      let draw := (m % 2 ^ d) * 2 ^ 32 / 2 ^ d
      let ofl : FRes := { code := overflowCode f .rne neg clamp, ev := { ovf := true, nx := true, sat := true } }
      -- on the grid and inexact: past the largest finite value
      if decide (q ≤ e) || decide (f.top ≤ mag) then ofl
      else
        let up := decide (c < draw)
        let mag' := if up then mag + 1 else mag
        if f.top ≤ mag' then ofl
        else { code := f.signed neg mag',
               ev := { nx := true, unf := decide (top < f.emin), flush := narrow && mag' == 0 } }
  | v => cvtFloat f .rne clamp narrow v

/-- An integer source to a float format. -/
def cvtFromInt (f : FFmt) (rnd : Rnd) (clamp : Bool) (x : Int) : FRes :=
  roundFin f rnd clamp (decide (x < 0)) x.natAbs 0 false

/-- A float source to an integer of w bits (R147): rounded in the mode, clamped to the range; a
draw, when given, replaces the mode (R83). A clamped value sets no NX (log 84). -/
def cvtToInt (w : Nat) (sgn : Bool) (rnd : Rnd) (draw : Option Nat) (v : FVal) : BitVec 64 × FpEv :=
  let lo : Int := if sgn then -(2 ^ (w - 1) : Int) else 0
  let hi : Int := if sgn then 2 ^ (w - 1) - 1 else 2 ^ w - 1
  match v with
  | .nan => (0, { nv := true, nan := true })
  | .inf neg => (BitVec.ofInt 64 (if neg then lo else hi), { nv := true, sat := true })
  | .fin neg m e =>
    let (n, inexact) :=
      match draw with
      | none => roundQ rnd neg m e 0 false
      | some c =>
        if 0 ≤ e then (m * 2 ^ e.toNat, false)
        else
          let d := (-e).toNat
          let fl := m / 2 ^ d
          let r := m % 2 ^ d
          (if r != 0 && decide (c < r * 2 ^ 32 / 2 ^ d) then fl + 1 else fl, decide (r ≠ 0))
    let x : Int := if neg then -(n : Int) else n
    let out := decide (x < lo) || decide (hi < x)
    (BitVec.ofInt 64 (clampI x lo hi),
     { nv := out, sat := out, nx := inexact && !out, flush := decide (m ≠ 0) && clampI x lo hi == 0 })

/-! ### FP4 blocks (R80, R89) -/

/-- The magnitude of an E2M1 code in halves (Table 05-2). -/
def e2m1Half : Nat → Nat
  | 0 => 0 | 1 => 1 | 2 => 2 | 3 => 3 | 4 => 4 | 5 => 6 | 6 => 8 | _ => 12

/-- The value of an E2M1 code. -/
def e2m1Val (c : Nat) : FVal := .fin (c / 8 % 2 = 1) (e2m1Half (c % 8)) (-1)

/-- The value of an E3M5 scale byte, in units of 2^−7 (R80). -/
def scaleUnits (b : Nat) : Nat :=
  let e := b / 32 % 8
  let m := b % 32
  if e = 0 then m else (32 + m) * 2 ^ (e - 1)

/-- The value of a scale byte. -/
def scaleVal (b : Nat) : FVal := .fin false (scaleUnits b) (-7)

/-- The least scale byte whose value is at least `num/den` units, from `b` on. -/
def scaleAtLeast (num den : Nat) : Nat → Nat → Nat
  | b, 0 => b
  | b, fuel + 1 => if num ≤ scaleUnits b * den then b else scaleAtLeast num den (b + 1) fuel

/-- A nonnegative quotient `n/d` rounded to E2M1 by RNE and clamped to 6 (R89), as the code. -/
def e2m1Round (n d : Nat) : Nat :=
  -- compare with the midpoints 0.25, 0.75, 1.25, 1.75, 2.5, 3.5, 5 in quarters
  let below (q : Nat) (strict : Bool) : Bool := if strict then decide (4 * n < q * d) else decide (4 * n ≤ q * d)
  if below 1 false then 0
  else if below 3 true then 1
  else if below 5 false then 2
  else if below 7 true then 3
  else if below 10 false then 4
  else if below 14 true then 5
  else if below 20 false then 6
  else 7

/-- The magnitude of a finite value in units of 2^e, for e at most its exponent. -/
def magAt (e : Int) : FVal → Nat
  | .fin _ m g => m * 2 ^ (g - e).toNat
  | _ => 0

/-- Quantising eight values into a block (R89): element codes, scale byte, and the numbers of
saturations, flushes and NaN groups. -/
def quantBlock (xs : List FVal) : List Nat × Nat × Nat × Nat × Nat :=
  if xs.any (·.isNan) then (xs.map (fun _ => 0), 0, 0, 0, 1)
  else
    let anyInf := xs.any (fun v => match v with | .inf _ => true | _ => false)
    let e := xs.foldl (fun a v => match v with | .fin _ _ g => if g < a then g else a | _ => a) (-7)
    let amax := xs.foldl (fun a v => Nat.max a (magAt e v)) 0
    let unit := 2 ^ (-7 - e).toNat
    let negOf (v : FVal) : Bool := match v with | .fin s _ _ => s | .inf s => s | .nan => false
    if amax = 0 && !anyInf then (xs.map (fun _ => 0), 0, 0, 0, 0)
    else
      -- amax/6 against 31.5 = 4032 units
      let satd := anyInf || decide (amax > 6 * 4032 * unit)
      let sc := if satd then 0xFF else scaleAtLeast amax (6 * unit) 0 256
      let elems := xs.map (fun v =>
        let mag := match v with
          | .inf _ => 7
          | _ => e2m1Round (magAt e v) (scaleUnits sc * unit)
        let zero := match v with | .fin _ m _ => m == 0 | _ => false
        ((if negOf v then 8 + mag else mag), !zero && mag == 0))
      (elems.map (·.1), sc, if satd then 1 else 0, elems.countP (·.2), 0)

/-- The five bytes of a block (R80). -/
def packBlock (codes : List Nat) (sc : Nat) : List Byte :=
  let c := fun i => codes.getD i 0
  [BitVec.ofNat 8 (c 0 + 16 * c 1), BitVec.ofNat 8 (c 2 + 16 * c 3),
   BitVec.ofNat 8 (c 4 + 16 * c 5), BitVec.ofNat 8 (c 6 + 16 * c 7), BitVec.ofNat 8 sc]

/-- Element k of a block: its value times the block scale, exact (R81). -/
def blockElem (bs : List Byte) (k : Nat) : FVal :=
  let b := (bs.getD (k / 2) 0).toNat
  let c := if k % 2 = 0 then b % 16 else b / 16
  (mulVal (e2m1Val c) (scaleVal (bs.getD 4 0).toNat)).1

end Sys2Proof
end

