-- ==== Sys2Proof/Machine/FpFun.lean ====
section
/-! DEFINITION. The transcendentals of Table 08-1, correctly rounded (R140): a fixed-point value
with a bound on its error, computed at 224 and, where rounding the two ends of the bound differs,
at 672 fractional bits (log 10). -/

namespace Sys2Proof

/-- The bound on the error of every fixed-point value below, in units of its last place. -/
def fxMargin : Nat := 2 ^ 16

/-- Σ x^(2k+1)/(2k+1), signs alternating when `alt`, from term `t` = x^(2k+1) on, in units of
2^−w; `x2` is x² in those units. -/
def atanSeries (w : Nat) (alt : Bool) (x2 : Nat) : Nat → Nat → Nat → Bool → Int
  | 0, _, _, _ => 0
  | fuel + 1, t, k, minus =>
    if t = 0 then 0
    else
      let q : Int := ((t / (2 * k + 1) : Nat) : Int)
      (if minus then -q else q) + atanSeries w alt x2 fuel (t * x2 / 2 ^ w) (k + 1) (alt && !minus)

/-- atanh(z) for z in units of 2^−w. -/
def fxAtanh (w z : Nat) : Nat := (atanSeries w false (z * z / 2 ^ w) w z 0 false).toNat

/-- atan(1/n) in units of 2^−w. -/
def fxAtanInv (w n : Nat) : Int := atanSeries w true (2 ^ w / (n * n)) w (2 ^ w / n) 0 false

/-- ln 2 in units of 2^−w. -/
def fxLn2 (w : Nat) : Nat := 2 * fxAtanh w (2 ^ w / 3)

/-- π in units of 2^−w, by Machin's formula. -/
def fxPi (w : Nat) : Nat := (16 * fxAtanInv w 5 - 4 * fxAtanInv w 239).toNat

/-- Σ y^n/n! from term `t` = y^n/n! on. -/
def expSeries (w y : Nat) : Nat → Nat → Nat → Nat
  | 0, _, _ => 0
  | fuel + 1, t, n => if t = 0 then 0 else t + expSeries w y fuel (t * y / 2 ^ w / (n + 1)) (n + 1)

/-- 2^(num/2^d), num < 2^d, in units of 2^−w. -/
def fxExp2 (w num d : Nat) : Nat :=
  let y := num * fxLn2 w / 2 ^ d
  expSeries w y w (2 ^ w) 0

/-- Σ (−1)^k y^(2k)/(2k+1)! from term `t` on. -/
def sincSeries (w y2 : Nat) : Nat → Nat → Nat → Bool → Int
  | 0, _, _, _ => 0
  | fuel + 1, t, k, minus =>
    if t = 0 then 0
    else (if minus then -(t : Int) else (t : Int)) +
      sincSeries w y2 fuel (t * y2 / 2 ^ w / ((2 * k + 2) * (2 * k + 3))) (k + 1) (!minus)

/-- sin(π·num/2^d)·2^s for 0 < num/2^d ≤ 1/2, in units of 2^−w. -/
def fxSinPi (w num d s : Nat) : Nat :=
  let q := num * 2 ^ s * fxPi w / 2 ^ d
  let y := q / 2 ^ s
  q * (sincSeries w (y * y / 2 ^ w) w (2 ^ w) 0 false).toNat / 2 ^ w

/-- Rounding of a value known to the margin at each of two precisions: `g w` is its magnitude in
units of 2^(x − w). -/
def fxRound (f : FFmt) (rnd : Rnd) (neg : Bool) (x : Int) (g : Nat → Nat) : FRes :=
  let ends (w : Nat) : FRes × FRes :=
    (roundFin f rnd false neg (g w - fxMargin) (x - w) true,
     roundFin f rnd false neg (g w + fxMargin - 1) (x - w) true)
  let a := ends 224
  if a.1 = a.2 then a.1 else (ends 672).1

/-- A value that differs from ±1 by less than 2^−100, above or below it in magnitude. -/
def nearOne (f : FFmt) (rnd : Rnd) (neg above : Bool) : FRes :=
  roundFin f rnd false neg (if above then 2 ^ 100 else 2 ^ 100 - 1) (-100) true

/-- Integer part and fraction of m·2^e for negative e: `(m / 2^d, m % 2^d, d)`. -/
def splitFrac (m : Nat) (e : Int) : Nat × Nat × Nat :=
  if 0 ≤ e then (m * 2 ^ e.toNat, 0, 1) else
    let d := (-e).toNat
    (m / 2 ^ d, m % 2 ^ d, d)

/-- 2^A (Table 08-2). -/
def fpExp2 (f : FFmt) (rnd : Rnd) (a : FVal) : FRes :=
  match a with
  | .nan => { code := f.qnan, ev := {} }
  | .inf neg => { code := if neg then 0 else f.infCode false, ev := {} }
  | .fin neg m e =>
    let top : Int := e + (Nat.log2 m : Int)
    if m = 0 then roundFin f rnd false false 1 0 false
    else if 13 ≤ top then
      -- |A| ≥ 2^13: past the range of every format
      roundFin f rnd false false 1 (if neg then -20000 else 20000) true
    else if top < -100 then nearOne f rnd false (!neg)
    else
      let (n, r, d) := splitFrac m e
      if r = 0 then roundFin f rnd false false 1 (if neg then -(n : Int) else n) false
      else
        let k : Int := if neg then -(n : Int) - 1 else n
        let r' := if neg then 2 ^ d - r else r
        fxRound f rnd false k (fun w => fxExp2 w r' d)

/-- log₂ A (Table 08-2). -/
def fpLog2 (f : FFmt) (rnd : Rnd) (a : FVal) : FRes :=
  match a with
  | .nan => { code := f.qnan, ev := {} }
  | .inf false => { code := f.infCode false, ev := {} }
  | .inf true => { code := f.qnan, ev := { nv := true } }
  | .fin neg m e =>
    if m = 0 then { code := f.infCode true, ev := { dz := true } }
    else if neg then { code := f.qnan, ev := { nv := true } }
    else
      let b := Nat.log2 m
      let k : Int := e + b
      if m = 2 ^ b then cvtFromInt f rnd false k
      else
        -- A = 2^k·(m/2^b), or 2^(k+1)·(m/2^(b+1)) when m/2^b > 3/2
        let hi := decide (2 * m > 3 * 2 ^ b)
        let k' := if hi then k + 1 else k
        let den := if hi then 2 ^ (b + 1) else 2 ^ b
        let g (w : Nat) : Int :=
          let diff := if hi then den - m else m - den
          let l := 2 * fxAtanh w (diff * 2 ^ w / (den + m)) * 2 ^ w / fxLn2 w
          k' * 2 ^ w + (if hi then -(l : Int) else l)
        fxRound f rnd (decide (g 224 < 0)) 0 (fun w => (g w).natAbs)

/-- ±sin(π·num/2^d) for 0 < num/2^d ≤ 1/2. -/
def fpSinCore (f : FFmt) (rnd : Rnd) (neg : Bool) (num d : Nat) : FRes :=
  if 2 * num = 2 ^ d then roundFin f rnd false neg 1 0 false
  else
    let s := d - 1 - Nat.log2 num
    fxRound f rnd neg (-(s : Int)) (fun w => fxSinPi w num d s)

/-- sin(πA) (Table 08-2). -/
def fpSinPi (f : FFmt) (rnd : Rnd) (a : FVal) : FRes :=
  match a with
  | .nan => { code := f.qnan, ev := {} }
  | .inf _ => { code := f.qnan, ev := { nv := true } }
  | .fin neg m e =>
    let (n, r, d) := splitFrac m e
    if r = 0 then { code := f.signed neg 0, ev := {} }
    else
      let r' := if 2 * r ≤ 2 ^ d then r else 2 ^ d - r
      fpSinCore f rnd (neg != (n % 2 == 1)) r' d

/-- cos(πA) (Table 08-2). -/
def fpCosPi (f : FFmt) (rnd : Rnd) (a : FVal) : FRes :=
  match a with
  | .nan => { code := f.qnan, ev := {} }
  | .inf _ => { code := f.qnan, ev := { nv := true } }
  | .fin _ m e =>
    let (n, r, d) := splitFrac m e
    let odd := n % 2 == 1
    if r = 0 then roundFin f rnd false odd 1 0 false
    else if 2 * r = 2 ^ d then { code := f.signed false 0, ev := {} }
    else
      let past := decide (2 * r > 2 ^ d)
      let r' := if past then 2 ^ d - r else r
      if r' * 2 ^ 60 < 2 ^ d then nearOne f rnd (odd != past) false
      -- cos(πy) = sin(π(1/2 − y)), in units of 2^−(d+1)
      else fpSinCore f rnd (odd != past) (2 ^ d - 2 * r') (d + 1)

end Sys2Proof
end

