-- ==== Sys2Proof/Config.lean ====
section
/-! DEFINITION. What is fixed for the part (01 Device overview, 02 Execution model), and the
values the spec leaves open: opaque constants, of which nothing can be proved. -/

namespace Sys2Proof.Config

/-- Lanes of a wave (R20). -/
def lanes : Nat := 32
/-- Clusters of a die (R7, R8). -/
def clusters : Nat := 64
/-- Cores of a cluster (R8). -/
def coresPerCluster : Nat := 4
/-- Cores of a die. -/
def cores : Nat := 256
/-- Wave slots of a core: four group schedulers of sixteen (R27, R104). -/
def slotsPerCore : Nat := 64
/-- Vector register rows of a core (R121). -/
def rowsPerCore : Nat := 4096
/-- Entries of a lane-issue queue (R22). -/
def laneQueueDepth : Nat := 64
/-- Entries of a mask stack or a return stack (R155). -/
def stackDepth : Nat := 16
/-- Entries a full stack spills, one spill record (R155). -/
def spillEntries : Nat := 8
/-- Accumulator rows and columns (R177). -/
def tileDim : Nat := 128
/-- Granules of 4 KiB of an operand buffer of 1 MiB (R180). -/
def granules : Nat := 256
/-- Entries of a matrix engine's accept queue (Table 10-1). -/
def acceptDepth : Nat := 16
/-- Entries of a task table (R300). -/
def taskEntries : Nat := 65536
/-- Entries of a core's remote-push buffer (R270). -/
def pushBuffer : Nat := 64
/-- Bytes of a vault (R11). -/
def vaultBytes : Nat := 0x1800000
/-- Where the ray pool, the treelet store and the scratchpad begin in a vault (R11). -/
def vaultShared : Nat := 0x800000
/-- The power cap's value at die reset, in watts (R16). -/
def resetCap : Nat := 1400
/-- The arithmetic clock's value at die reset, in MHz (R7, R16). -/
def resetClock : Nat := 1300

/-- Parts of a microsecond in which `State.time` counts: a multiple of every clock of R16 in MHz, so that each cycle takes a
whole number of them. -/
def timerUnits : Nat := 25 * 3099044504245996706400

/-- A free value: whatever the spec leaves open, drawn with the counter `State.free`
(log 6). -/
opaque freeWord : Nat → BitVec 64

/-- What another die answers to an access by virtual address, drawn with the clock and `State.free`: 1 for V = 0, 2
for PROT, 3 for COMPREF, 4 for RACE, 5 for CODEC, 6 for an uncorrectable error, and any other number for an
access performed (R214; log 6). -/
opaque remoteAnswer : Nat → Nat → BitVec 64 → Nat

/-- A byte another die answers with (R214; log 6). -/
opaque remoteByte : Nat → Nat → BitVec 64 → BitVec 8

/-- The bytes of a context's image beside those of its allocations and B-slices, for each cluster of its partition: less
than 16 MiB, which holds the cluster's waves, rays and tasks; the spec gives no layout (R360; log 8). -/
opaque imageRest : Nat → BitVec 24

/-- SHA-512 of a byte string (R382; log 7). -/
opaque sha512 : List Byte → BitVec 512

/-- Whether a firmware image verifies by ECDSA over P-521 under the fused key's digest
(R382; log 7). -/
opaque imageVerifies : List Byte → Bool

/-- The version an image carries (R382 gives no image layout; log 7). -/
opaque imageVersion : List Byte → BitVec 32

/-- The fused minimum version of the root image (R382; log 7). -/
opaque fusedMinimum : BitVec 32

/-- The die's identity public key, 133 bytes uncompressed (Table 22-5; log 7). -/
opaque identityKey : BitVec 1064

/-- The signature, r then s of 66 bytes each, of a byte string under the identity key
(R383; log 7). -/
opaque identitySign : List Byte → BitVec 1056

/-- The bytes of a partition's isolation registers, whose layout the spec does not give, by cluster
mask, P, T and endpoint count (R380, R383; log 7). -/
opaque isolationBytes : Nat → Nat → Nat → Nat → List (BitVec 8)

end Sys2Proof.Config
end

