-- ==== Sys2Proof/Machine/State.lean ====
section
/-! DEFINITION. The state of one die and its outcomes: everything the spec gives the machine, as
plain data, and the machine right after reset. Keys of the sparse maps are said at each field. -/

namespace Sys2Proof.Machine

/-- Why a run ends. It has no constructor: every trap, park, kill and rejected command of the spec is a
next state, so nothing raises a fault. -/
inductive Fault where
  deriving DecidableEq, Repr

/-- Why an instruction has no meaning. -/
inductive Refusal where
  /-- Raised by an arm of `exec` whose instruction the model does not cover; safe. -/
  | notModelled (mnemonic : String)
  deriving DecidableEq, Repr

/-! ### Waves -/

/-- The states of Table 02-4; Running-on is Ready or Waiting with `preq` set. -/
inductive WStatus where
  | ready | waiting | parked | saved | retired
  deriving DecidableEq, Repr

/-- STATUS.KIND (Table 06-4). -/
inductive WKind where
  | grid | task | node | episode
  deriving DecidableEq, Repr

/-- How a wave retired (R36, R353, R378). -/
inductive RetireKind where
  | exit | killed | faulted | cancelled
  deriving DecidableEq, Repr

/-- The registers of a wave (Tables 06-1, 07-1, 09-1). `s` by number; `v` by 32·register + lane;
`vp` by number, a bit a lane; an absent entry is 0. `bad` has the vector registers whose row holds data
that ECC cannot correct (R15). -/
structure Regs where
  s : SMap DWord
  v : SMap Word
  vp : SMap Word
  bad : List Nat
  c : BitVec 6
  em : Word
  spc : DWord
  lpc : DWord
  lbase : DWord
  mstack : List Word
  rstack : List DWord
  msc : Nat
  rsc : Nat
  deriving DecidableEq, Repr

/-- An entry of the lane-issue queue: the instruction with what it captured at enqueue (R22,
R96), the words it is named by (R24), and, once it has issued without being done, its unfinished lanes (R34), the
lanes active when it issued, and the registers as they then stood, which it goes on reading (R71).
`num` counts it among the wave's lane instructions. -/
structure LEntry where
  i : Instr
  num : Nat
  em : Word
  stallchk : Bool
  fpmode : DWord
  tmplbase : DWord
  epc : DWord
  elpc : DWord
  mask : Option Word
  act : Option Word
  regs : Option Regs
  deriving DecidableEq, Repr

/-- Where a lane result lands. -/
inductive Dest where
  | v (r : Nat)
  | vp (n : Nat)
  | s (n : Nat)
  | fpstat
  deriving DecidableEq, Repr

/-- A lane result in flight (R71, R72): `data` by lane (one entry, key 0, for `s` and `fpstat`);
`due` is the cycle at whose end a fixed-latency result lands; `load` says the data are a memory
instruction's; `seq` is the issue order. -/
structure PendWrite where
  dest : Dest
  data : SMap DWord
  fixed : Bool
  load : Bool
  due : Nat
  seq : Nat
  deriving DecidableEq, Repr

/-- The newest earlier-issued lane writer of a register (R73, R175). -/
structure Writer where
  fixed : Bool
  due : Nat
  deriving DecidableEq, Repr

/-- A queue handle: what QBIND read (R269); `qcw` is the QCW's address, and `owner` the context whose allocation
holds it. -/
structure Handle where
  qcw : DWord
  owner : Nat
  gen : BitVec 16
  esize : Nat
  ldepth : Nat
  home : Nat
  pushOnly : Bool
  deriving DecidableEq, Repr

/-- A stream register (R276 to R278): descriptor quadwords, copied bindings, progress; `midway` counts the elements
left of a firing under way. -/
structure Stream where
  uid : Nat
  d0 : DWord
  d1 : DWord
  d2 : DWord
  d3 : DWord
  dq : Handle
  iq : Option Handle
  remaining : Nat
  run : Bool
  done : Bool
  flt : Bool
  parked : Option Nat
  failed : List Nat
  acq : Nat
  race : Bool
  midway : Option Nat
  deriving DecidableEq, Repr

/-- A pending imprecise cause (R206, R272, R351): what its report will write, and whether a matrix
operation made it, so that MWAIT reports it (R188); `access` is the kind of access that met it (R379). -/
structure Pend where
  faddr : DWord
  fagent : DWord
  lane : Bool
  elpc : DWord
  mx : Bool := false
  access : Nat := 0
  deriving DecidableEq, Repr

/-- What a trap is taken with (R97 to R99, R353); `again` is a lane instruction that executes again on return
(R352), and `access` the kind of access that met it (R379). -/
structure Cause where
  code : Nat
  imp : Bool
  lane : Bool
  timm : Nat
  epc : DWord
  elpc : DWord
  faddr : DWord
  fagent : DWord
  resume : DWord
  again : Option LEntry := none
  access : Nat := 0
  deriving DecidableEq, Repr

/-- The trap frame (R353, step 4), with an MWAIT that executes again on return (R352), and the kind of access that met
the cause (R379). -/
structure Frame where
  resume : DWord
  em : Word
  lpc : DWord
  lbase : DWord
  depth : Nat
  again : Option LEntry := none
  access : Nat := 0
  deriving DecidableEq, Repr

/-- What a wave waits for at an instruction (Table 02-4). `replay` is a parked instruction whose
fault was answered with resume, `fail` one answered with fail (R215). -/
inductive ParkState where
  | await | replay | fail
  deriving DecidableEq, Repr

/-- A parked access (R34, R215): the fault record's ID, the access kind and address, and, for a
lane instruction, its entry with the unfinished lanes. -/
structure Park where
  id : Nat
  access : Nat
  faddr : DWord
  lane : Option LEntry
  st : ParkState
  deriving DecidableEq, Repr

/-- A wave's latest BARA on a group (R171, R172): the instance it joined, and the MASKDIS kept. -/
structure Bara where
  inst : Nat
  maskdis : Bool
  open_ : Bool
  deriving DecidableEq, Repr

/-- An episode's lane (R330, R334): its ray's slot, its frame, its DEPTH, the reserved slot, and
whether RCONT marked it. -/
structure EpLane where
  slot : Nat
  frame : BitVec 16
  depth : Nat
  reserved : Option Nat
  cont : Bool
  deriving DecidableEq, Repr

/-- The system registers of Table 06-2 that a wave holds, with the parts of STATUS. -/
structure Sys where
  lls : BitVec 8
  handler : Bool
  cause : DWord
  epc : DWord
  elpc : DWord
  faddr : DWord
  fagent : DWord
  spillbase : DWord
  spilllim : DWord
  stallchk : DWord
  fpmode : DWord
  fpstat : DWord
  partid : BitVec 4
  dieid : BitVec 12
  cluster : BitVec 6
  core : BitVec 8
  slot : BitVec 6
  tmplbase : DWord
  taskid : BitVec 16
  frameid : BitVec 16
  deriving DecidableEq, Repr

/-- The lane stream (R22, R70 to R73): queue, entry in issue, earliest next issue cycle, results
in flight, newest writers by key (0 + v, 1024 + vp), how many instructions have left the queue for good, issued or
discarded, and the words of a running LRUN or LNEXT that are already enqueued. `ticket` and `pod` are those of the SC
operation that its entry in issue waits with (R240), as `Wave.ticket` and `Wave.pod` are the scalar stream's. -/
structure LaneStream where
  q : List LEntry
  issue : LEntry
  nextIssue : Nat
  inflight : List PendWrite
  writers : SMap Writer
  seq : Nat
  batch : Nat
  ticket : Option Nat
  pod : Option Bool
  deriving DecidableEq, Repr

/-- A wave: identity and placement, registers, lane stream, and what it holds and awaits. `answered` is a park of
the scalar stream whose answer has come and whose instruction has still to complete or to raise PAGE (R215). `rel` is the
greatest number of the wave's own releases, with which the agents it starts begin (R242). `seen` is,
by scope, the greatest release its reads have met; under 5, 6 and 7 the greatest number published by the agents
it started on its core, on its cluster and elsewhere in its partition; and under 8 + 5·class + scope the greatest release
that the reads of those agents of a class have met; a later FENCE takes them up (R241). `pod`
says that it has asked the anchor die for a ticket of pod scope, and whether its turn has come (R240). `owed` is a lane
trap that waits for the pushes of earlier lane instructions (R24, R164). -/
structure Wave where
  id : Nat
  status : WStatus
  ended : Option RetireKind
  preq : Bool
  ctx : Nat
  part : Nat
  launch : Nat
  wg : Nat
  widx : Nat
  kind : WKind
  bound : Bool
  coop : Bool
  prio : Nat
  age : Nat
  pop : Nat
  rows : Nat
  ephBase : DWord
  ephCnt : Nat
  sbase : DWord
  regs : Regs
  sys : Sys
  lane : LaneStream
  handles : SMap Handle
  streams : SMap Stream
  accs : Nat
  accF64 : Bool
  tiles : List Nat
  pend : SMap Pend
  bara : SMap Bara
  inBar : Option (BitVec 8 × Nat)
  barPub : Nat
  frame : Option Frame
  park : Option Park
  answered : Option Park
  owed : Option Cause
  acq : Nat
  rel : Nat
  seen : SMap Nat
  ticket : Option Nat
  pod : Option Bool
  task : Option Nat
  ep : SMap EpLane
  spillIdx : Nat
  epoch : Nat
  lastIssue : Nat
  yieldEnd : Nat
  starved : Bool
  deriving DecidableEq, Repr

/-- The copy of an entry that stands where no instruction has issued yet. -/
def LEntry.none : LEntry :=
  { i := .vnop 0, num := 0, em := 0, stallchk := false, fpmode := 0, tmplbase := 0, epc := 0, elpc := 0,
    mask := Option.none, act := Option.none, regs := Option.none }

/-- Registers of zeros with empty stacks (R26). -/
def Regs.zero : Regs :=
  { s := [], v := [], vp := [], bad := [], c := 0, em := 0, spc := 0, lpc := 0, lbase := 0, mstack := [],
    rstack := [], msc := 0, rsc := 0 }

/-- System registers of zeros. -/
def Sys.zero : Sys :=
  { lls := 0, handler := false, cause := 0, epc := 0, elpc := 0, faddr := 0, fagent := 0,
    spillbase := 0, spilllim := 0, stallchk := 0, fpmode := 0, fpstat := 0, partid := 0,
    dieid := 0, cluster := 0, core := 0, slot := 0, tmplbase := 0, taskid := 0, frameid := 0 }

/-- An idle lane stream. -/
def LaneStream.empty : LaneStream :=
  { q := [], issue := LEntry.none, nextIssue := 0, inflight := [], writers := [], seq := 0,
    batch := 0, ticket := none, pod := none }

/-- The slot of no wave: what the focus slot holds after reset (log 2). -/
def Wave.empty : Wave :=
  { id := 0, status := .retired, ended := none, preq := false, ctx := 0, part := 0, launch := 0,
    wg := 0, widx := 0, kind := .grid, bound := false, coop := false, prio := 0, age := 0,
    pop := 0, rows := 0, ephBase := 0, ephCnt := 0, sbase := 0, regs := Regs.zero,
    sys := Sys.zero, lane := LaneStream.empty, handles := [], streams := [], accs := 0,
    accF64 := false, tiles := [], pend := [], bara := [], inBar := none, barPub := 0,
    frame := none, park := none, answered := none, owed := none, acq := 0, rel := 0, seen := [], ticket := none, pod := none, task := none, ep := [],
    spillIdx := 0, epoch := 0, lastIssue := 0, yieldEnd := 0, starved := false }

/-! ### Memory -/

/-- Memory: cells at strictly rising keys, none equal to what an unlisted key reads as (0).
GDDR7 byte `a` of chip `c` is key `c·2^48 + a`; a vault byte is key
`2^64 + die·2^40 + vault·2^25 + offset` (`Machine/Mem.lean`). -/
abbrev Memory := List Host.Cell

/-- An L1 line (R208, R209): bytes, valid and dirty masks, the read-only path's epoch. -/
structure Line where
  data : BitVec 512
  valid : BitVec 64
  dirty : BitVec 64
  ro : Option Nat
  filler : BitVec 6
  wave : Nat
  deriving DecidableEq, Repr

/-- A victim tag (R217). -/
structure Victim where
  key : Nat
  slot : BitVec 6
  deriving DecidableEq, Repr

/-- How far a core's power gating has gone (R319). -/
inductive Gate where
  | on | stage1 | entry | off | waking
  deriving DecidableEq, Repr

/-- A remote push (R270, R271): the queue and the context its control word belongs to, the sender and its element;
`covers` are the granules that it releases if it is placed (R273). -/
structure RPush where
  qcw : DWord
  owner : Nat
  ctx : Nat
  part : Nat
  gen : BitVec 16
  data : List Byte
  wave : Nat
  lane : Bool
  elpc : DWord
  covers : List Nat
  home : Nat
  deriving DecidableEq, Repr

/-- A core: L1 by context and line (`ctx·2^58 + va/64`), victim tags oldest first, launch epoch,
Finder state, probe in flight, power gating, remote-push buffer (R209, R217, R270, R313, R319), and the wave and
stream that fired last (R278). -/
structure Core where
  l1 : SMap Line
  victims : List Victim
  epoch : Nat
  finder : BitVec 16
  probe : Option Nat
  lastProbe : Nat
  gate : Gate
  idleSince : Nat
  powerAt : Nat
  pushes : List RPush
  fired : Nat × Nat
  deriving DecidableEq, Repr

/-- A release performed in a granule: its number, scope, and the core, partition and context of the
agent that made it (R235); `core` as in `Agent`. -/
structure Rel where
  n : Nat
  scope : Nat
  core : Nat
  part : Nat
  ctx : Nat
  deriving DecidableEq, Repr

/-- A race-detector granule (R244): last writer (FAGENT word and identity) with publication
(absent is ∞), reader record with closing number, and the releases performed in the granule,
which acquires take up (log 12). -/
structure Gran where
  w : Option (DWord × Nat)
  p : Option Nat
  r : Option (DWord × Nat)
  many : Bool
  q : Option Nat
  sync : List Rel
  deriving DecidableEq, Repr

/-- A codec line held decoded in the L2 (R257, R258): its bytes, whether dirty, and the leaf's
storage base and budget code. -/
structure CLine where
  data : BitVec 512
  dirty : Bool
  base : Nat
  budget : Nat
  deriving DecidableEq, Repr

/-- The counters of a codec leaf (R260). -/
structure CCount where
  enc : Nat
  lossy : Nat
  clip : Nat
  flush : Nat
  deriving DecidableEq, Repr

/-- A translation table as walks see it (R211, R213). -/
structure Tables where
  base : Option Nat
  view : Memory
  deriving DecidableEq, Repr

/-! ### Engines -/

/-- An operand record (R180 to R184): holder, role B, granules, bytes by offset, release mark (the number of
the holder's first lane instruction enqueued after the OREL), and the task it is reserved for. -/
structure Rec where
  holder : Option Nat
  task : Option Nat
  roleB : Bool
  gran : Nat
  bytes : SMap Byte
  relp : Option Nat
  deriving DecidableEq, Repr

/-- What an accepted matrix operation does, with the register values read at issue (R185). -/
inductive MKind where
  | mma (a : Nat) (b : Option Nat) (base : Nat) (shape : DWord) (bands : DWord) (fA fB : MFmt) (mftz : Bool)
  | mmas (a : Nat) (b : Option Nat) (base : Nat) (shape : DWord) (bands : DWord) (fA fB : MFmt) (mftz : Bool) (bitmap : Nat)
  | mzero
  | mwr (rblk col : Nat) (vals : SMap DWord)
  | osto (o : Nat) (vals : SMap Byte)
  | olod (o : Nat) (n : Nat) (addrs : SMap DWord) (offs : SMap Nat)
  | mepi (shape : DWord) (scale : Word) (rblk : Nat) (addrs : SMap DWord) (o : OFmt) (sat relu clr : Bool) (fold : Option DWord)
  deriving DecidableEq, Repr

/-- An accepted matrix operation (R185, R186): its wave, accumulator, tiles, and the wave's
values at acceptance; `num` is the number of its lane instruction. -/
structure MOp where
  uid : Nat
  num : Nat
  wave : Nat
  ctx : Nat
  part : Nat
  m : Nat
  tiles : List Nat
  f64 : Bool
  elpc : DWord
  acq : Nat
  race : Bool
  kind : MKind
  deriving DecidableEq, Repr

/-- The running operation: the K-steps still to do, the step counter, and the elements
(`row·128 + column`) waiting for the subnormal assist of the first of them, each with the value the step gave it, rounded
(R87, R88, R193). -/
structure MRun where
  op : MOp
  steps : List Nat
  done : Nat
  assist : SMap DWord
  parked : Option Nat
  failed : List Nat
  deriving DecidableEq, Repr

/-- The outcome of a wave's newest finished operation on an accumulator (R194). -/
structure MLast where
  wave : Nat
  m : Nat
  steps : Nat
  deriving DecidableEq, Repr

/-- A matrix engine (Table 10-1): tiles by owner, accumulator words by
`tile·16384 + row·128 + column`, records, accept queue, running operation, operations that a restore
brought back at a step, flush counter. -/
structure Engine where
  owner : SMap Nat
  acc : SMap Word
  recs : SMap Rec
  queue : List MOp
  run : Option MRun
  susp : List MRun
  last : List MLast
  flush : Nat
  deriving DecidableEq, Repr

/-- A copy job (R284, R285): start value, TMPLBASE, the agent it serves, its park, the addresses whose
parked access was answered with fail (R215), and the allocations it writes (R298). -/
structure Job where
  uid : Nat
  value : DWord
  tmpl : DWord
  ctx : Nat
  part : Nat
  wave : Option Nat
  task : Option Nat
  cmd : Option Nat
  lane : Bool
  elpc : DWord
  acq : Nat
  race : Bool
  begun : Bool
  fields : List DWord
  invalid : Bool
  fetched : Bool
  parked : Option Nat
  failed : List Nat
  allocs : List Nat
  deriving DecidableEq, Repr

/-- A kick of a transform ring (R295): the producer index it gave, and the wave that made it. -/
structure KRing where
  prod : BitVec 32
  wave : Nat
  lane : Bool
  elpc : DWord
  acq : Nat
  race : Bool
  part : Nat
  deriving DecidableEq, Repr

/-- A card an engine has taken (R296). -/
structure Card where
  uid : Nat
  ctx : Nat
  ring : Nat
  n : BitVec 32
  fields : List DWord
  invalid : Bool
  kick : KRing
  parked : Option Nat
  failed : List Nat
  deriving DecidableEq, Repr

/-! ### Tasks, launches, groups -/

/-- Task entry states (Table 17-4); a Free entry is absent. -/
inductive TState where
  | admitting | waiting | ready | dealt | running | cancelling
  deriving DecidableEq, Repr

/-- A task entry (R301, R304, R308, R310): its record's quadwords, count, interval, jobs in
flight, what it holds, where it is and since when; `acq` is what its wave's start acquires, `jacq` and
`race` the Acq its admission's jobs take and whether they are checked (R243, R244); tasks that share a split
task's holdings have one number in `shares` (R314). -/
structure Task where
  st : TState
  r : List DWord
  ctx : Nat
  tmpl : DWord
  acq : Nat
  jacq : Nat
  race : Bool
  count : Nat
  cur : Nat
  hi : Nat
  seq : Nat
  home : Option Nat
  alloc : Option Nat
  recs : List (Nat × Nat)
  jobs : Nat
  core : Option Nat
  since : Nat
  wave : Option Nat
  launch : Option Nat
  shares : Option Nat
  killed : Bool
  deriving DecidableEq, Repr

/-- A kernel descriptor (Table 03-10). -/
structure KDesc where
  entry : DWord
  lbase : DWord
  sbase : DWord
  ephBase : DWord
  ephCnt : Nat
  vregs : Nat
  sregs : Nat
  acc : Nat
  accF64 : Bool
  groups : Nat
  scratch : Nat
  deriving DecidableEq, Repr

/-- A node of a work graph (R279): its last node-wave launch, the cycle of its first pending record,
and whether the 2,048 cycles of R281 have passed. -/
structure Node where
  desc : DWord
  qcw : DWord
  rsize : Nat
  last : Option Nat
  pend : Option Nat
  due : Bool
  deriving DecidableEq, Repr

/-- A launch (R25, R28, R31, R279); `k` is its kernel descriptor, read from `desc` when its first wave is placed (R47);
`cancels` are the CANCEL commands that wait for its end. -/
structure Launch where
  ctx : Nat
  part : Nat
  desc : DWord
  k : KDesc
  n : Nat
  w : Nat
  coop : Bool
  prio : Nat
  argb : DWord
  arg : DWord
  groups : List (BitVec 1024)
  next : Nat
  live : Nat
  since : Nat
  reserved : Bool
  task : Option Nat
  cmd : Option Nat
  alloc : Option Nat
  needAlloc : Bool
  nodes : List Node
  cancelled : Bool
  cancels : List Nat
  deriving DecidableEq, Repr

/-- A barrier instance under way in one group of one workgroup (R32). -/
structure Barrier where
  inst : Nat
  mask : Option Word
  arrived : List Nat
  mismatch : Bool
  pub : Nat
  donePub : Nat
  doneMismatch : Bool
  deriving DecidableEq, Repr

/-- A workgroup's copy of its group table (R30): members by group, barriers by group, retired
members. -/
structure Group where
  sets : List (BitVec 1024)
  size : Nat
  bars : SMap Barrier
  gone : List Nat
  deriving DecidableEq, Repr

/-- A scratchpad allocation (R205): vault, usable start and size, sharers, owners, and the offsets of the queue
control words that a handle or a node has named in it (R267). -/
structure Alloc where
  ctx : Nat
  vault : Nat
  start : Nat
  size : Nat
  users : Nat
  copies : Nat
  qcws : List Nat
  deriving DecidableEq, Repr

/-! ### Incumbents, rays, Blink, partitions -/

/-- An incumbent or a copy of one (Table 19-2). -/
structure Inc where
  ty : Bool
  tag : Word
  value : Word
  deriving DecidableEq, Repr

/-- Where a ray is (R328, R329): in traversal, with its unit, and the bin and the batch it was dealt from; held by an
episode; `reserved` is a slot set aside that holds no ray. -/
inductive RayAt where
  | bin (b : Nat)
  | traversal (unit bin batch : Nat)
  | held
  | reserved
  deriving DecidableEq, Repr

/-- A pool slot: the ray's words 0 to 31 (Table 18-2), its place, its arrival there, the release
it carries. -/
structure Ray where
  words : SMap Word
  loc : RayAt
  since : Nat
  seq : Nat
  pub : Nat
  ctx : Nat
  deriving DecidableEq, Repr

/-- A bin table entry (R328, R329): shader or traversal, key, last use, remembered treelet, the
cycle it reached 64 rays, the number of its last batch, and whether that batch has still met no treelet-cache miss. -/
structure Bin where
  shade : Bool
  key : Nat
  used : Nat
  treelet : Option Nat
  since64 : Option Nat
  batch : Nat
  fresh : Bool
  deriving DecidableEq, Repr

/-- A frame-table entry (R323, R324): descriptor address and quadwords, counts, spilled rays
oldest first, and the waves that ran its episodes. -/
structure FrameEnt where
  addr : DWord
  ctx : Nat
  d : List DWord
  cmd : Option Nat
  gate : Bool
  rays : Nat
  dcap : Nat
  drop : Nat
  spilled : Nat
  spill : List (Nat × Ray)
  spillNext : Nat
  spillFull : Bool
  pub : Nat
  uids : List Nat
  deriving DecidableEq, Repr

/-- A forming shading wave (R330, R333): its bin, its rays, the slots collected. -/
structure Formation where
  bin : Nat
  rays : List Nat
  slots : List Nat
  since : Nat
  jam : Bool
  deriving DecidableEq, Repr

/-- A waiting RSPAWN lane (R333), its frame, whether its wave is no episode (R324), and the release
its ray will carry. -/
structure SpawnWait where
  wave : Nat
  lane : Nat
  frame : Nat
  ext : Bool
  pub : Nat
  since : Nat
  granted : Option Nat
  discarded : Bool
  deriving DecidableEq, Repr

/-- A snapshot (R366, R367): header and records, as quadwords. -/
structure Snapshot where
  words : List DWord
  deriving DecidableEq, Repr

/-- A treelet of a vault's treelet cache (R321, R325): the context and the 4 KiB-aligned address it was read at, and its
bytes by offset, an absent one 0. -/
structure Treelet where
  ctx : Nat
  addr : DWord
  bytes : SMap Byte
  deriving DecidableEq, Repr

/-- Blink of a partition (R364 to R367); `copying` is 1 more than the CLOCK of the cycle in which the newest snapshot read
copies. -/
structure BlinkSt where
  ctl : DWord
  thr : DWord
  missed : Nat
  seq : Nat
  holdUntil : Option Nat
  snap : Option Snapshot
  copying : Nat
  fired : BitVec 5
  tags : SMap (BitVec 16)
  deriving DecidableEq, Repr

/-- An SC operation whose ticket is dealt and which is not yet performed (R240): a wave's, of its lane stream or of its
scalar stream, or another die's. -/
structure Ticket where
  n : Nat
  wave : Option Nat
  lane : Bool
  req : Option RemoteReq
  deriving DecidableEq, Repr

/-- A partition: its clusters and shares, Orrery, incumbents, Meridian, Coelostat, scratchpad.
`incPub` is the release of the INCUP that left each incumbent's value (R248); `incSince` has the cycle since which a copy is
older than its incumbent, under `i` for the Orrery's and `8 + 8·core + i` for a core's (R343); `swept` is 1 more than the
CLOCK of the sweep's newest visit (R345).
`treelets` has the treelet cache of each vault, newest last (R321). -/
structure Part where
  clusters : List Nat
  p : Nat
  t : Nat
  eps : List Nat
  tasks : SMap Task
  seq : Nat
  deques : SMap (List Nat)
  sweepPos : Nat
  swept : Nat
  sweepLeft : Nat
  inc : SMap Inc
  incOrrery : SMap Inc
  incCore : SMap Inc
  incPub : SMap Nat
  incSince : SMap Nat
  killq : Nat
  killr : Nat
  incups : Nat
  tickets : Nat
  pubs : Nat
  scq : List Ticket
  groups : SMap Group
  allocs : SMap Alloc
  nextAlloc : Nat
  frames : SMap FrameEnt
  rays : SMap Ray
  bins : SMap Bin
  forms : List Formation
  spawns : List SpawnWait
  fullSince : Option Nat
  raySeq : Nat
  treelets : SMap (List Treelet)
  jamLeft : Nat
  jamBin : Nat
  blink : BlinkSt
  deriving DecidableEq, Repr

/-! ### Contexts and the front end -/

/-- A command that has started (R377): its packet, opcode, status and VALUE when it has
completed. -/
structure Cmd where
  seq : DWord
  opc : BitVec 16
  off : BitVec 32
  fence : Bool
  done : Bool
  status : BitVec 16
  value : BitVec 128
  deriving DecidableEq, Repr

/-- The image of a switched-out context (R360; log 8). `pages` are the memory keys of the 64 KiB pages of its area, in
which the bytes of its B-slices and allocations lie. Cores and clusters are named by their index in the partition: in
`tasks`, in `deques`, and in `recs`, which also names the record; `accs` has keys
`(4·wave + tile)·16384 + element`. -/
structure Image where
  ctx : Nat
  pages : List Nat
  clusters : Nat
  p : Nat
  t : Nat
  waves : List Wave
  tasks : SMap Task
  deques : SMap (List Nat)
  inc : SMap Inc
  incPub : SMap Nat
  tickets : Nat
  pubs : Nat
  groups : SMap Group
  allocs : SMap Alloc
  frames : SMap FrameEnt
  rays : SMap Ray
  bins : SMap Bin
  forms : List Formation
  spawns : List SpawnWait
  ops : List MOp
  runs : List MRun
  lasts : List MLast
  recs : List (Nat × Nat × Rec)
  accs : SMap Word
  kicks : SMap (List KRing)
  deriving DecidableEq, Repr

/-- A context: one endpoint of a partition (R353, R372 to R379, R380). `kicks` holds the kicks of
each ring whose cards are not all done, and the newest; `switching` and `restoring` name the SWITCH or RESTORE command under way, by context
and number; `switchSince` is the time of the request (`State.time`); `image` is the area of the image a switch wrote, or a restore reads; `awaits` has the fault IDs
that await an answer, with their addresses. -/
structure Context where
  part : Nat
  handler : DWord
  hlbase : DWord
  rt : DWord
  spillB : DWord
  spillQ : Nat
  tmpl : DWord
  tables : SMap Tables
  kicks : SMap (List KRing)
  tail : BitVec 32
  nextSeq : DWord
  halted : Bool
  rung : Bool
  cmds : SMap Cmd
  nextCmd : Nat
  doneQ : List Nat
  held : List (List DWord)
  nextFault : Nat
  awaits : SMap DWord
  resident : Bool
  switching : Option (Nat × Nat)
  switchSince : Nat
  restoring : Option (Nat × Nat)
  image : Option Nat
  migrations : List (DWord × DWord × Nat)
  deriving DecidableEq, Repr

/-- Firmware state (R382). -/
structure Firmware where
  root : List Byte
  service : List Byte
  stagedRoot : Option (List Byte)
  stagedService : Option (List Byte)
  booted : Bool
  retries : Nat
  recovery : Bool
  deriving DecidableEq, Repr

/-- Power management (R16); `card` says that the die is one of a workstation card's two (R17). -/
structure Power where
  card : Bool
  cap : Nat
  mhz : Nat
  hot : Nat
  cool : Nat
  posted : Bool
  windows : Nat
  deriving DecidableEq, Repr

/-! ### The die -/

/-- What the route table holds for a DIE value (R381): its chip number, its fabric address and flow, and the fabric address
of each endpoint of that die, by CTX (R374). -/
structure RouteTo where
  chip : Nat
  addr : DWord
  flow : BitVec 16
  ends : SMap DWord
  deriving DecidableEq, Repr

/-- The agent a device step concerns: a wave, core, cluster, partition, context or launch `n`, a
part `k` of it, and a further one `m`; each meaning says how it reads them. -/
structure Target where
  n : Nat
  k : Nat
  m : Nat
  deriving DecidableEq, Repr

/-- One move of the schedule (log 5). -/
inductive Turn where
  /-- The focus wave's scalar stream fetches and executes one word. -/
  | scalar
  /-- The focus wave's lane stream issues its oldest entry. -/
  | lane
  /-- A device step. -/
  | event (i : Instr) (t : Target)
  /-- The front end parses the next packet of an endpoint. -/
  | ring (ctx : Nat)
  /-- Another resident wave becomes the focus. -/
  | focus (id : Nat)
  /-- A cycle passes. -/
  | tick
  deriving DecidableEq, Repr

/-- The state of the machine. `w` is the focus wave, `waves` the other resident and saved waves
by id. Maps: `parts` by partition, `contexts` by endpoint number (0xFFFF the fabric manager's),
`cores`, `engines` and `vault` data by number, `channels` by `16·cluster + channel`, `cards` by
engine, `images` by area, `launches` by id, `discards` by port, `grans`, `clines` and `ccounts` by the keys of `Machine/Mem.lean`, `routes`
by DIE value. `time` counts the management cores' timer in parts of a microsecond (`Config.timerUnits`; R358), `hostData` is
what the newest host load or atomic over the fabric returned (R374). `decayed` is the CLOCK of the newest decay of LLS (R317). -/
structure State where
  w : Wave
  waves : SMap Wave
  clock : Nat
  time : Nat
  decayed : Nat
  mem : Memory
  bad : List Nat
  cores : SMap Core
  engines : SMap Engine
  channels : SMap (List Job)
  cards : SMap Card
  cardTurn : SMap Nat
  parts : SMap Part
  contexts : SMap Context
  images : SMap Image
  launches : SMap Launch
  grans : SMap Gran
  clines : SMap CLine
  ccounts : SMap CCount
  dieid : BitVec 12
  chip : BitVec 12
  routes : SMap RouteTo
  anchor : BitVec 12
  fw : Firmware
  power : Power
  discards : SMap Nat
  hostData : List Byte
  nextWave : Nat
  nextLaunch : Nat
  target : Target
  agenda : List Turn
  free : Nat
  deriving DecidableEq, Repr

/-- A core after reset: caches empty, powered on; the Finder is seeded at PARTCFG (R313). -/
def Core.zero : Core :=
  { l1 := [], victims := [], epoch := 0, finder := 0, probe := none, lastProbe := 0, gate := .on,
    idleSince := 0, powerAt := 0, pushes := [], fired := (0, 0) }

/-- A free matrix engine (Table 10-1). -/
def Engine.zero : Engine :=
  { owner := [], acc := [], recs := [], queue := [], run := none, susp := [], last := [], flush := 0 }

/-- A context as an endpoint's creation leaves it (R374); CTXCFG's values are 0 (log 4). -/
def Context.zero (part : Nat) : Context :=
  { part := part, handler := 0, hlbase := 0, rt := 0, spillB := 0, spillQ := 0, tmpl := 0,
    tables := [], kicks := [], tail := 0, nextSeq := 1, halted := false, rung := false,
    cmds := [], nextCmd := 0, doneQ := [], held := [], nextFault := 0, awaits := [], resident := true,
    switching := none, switchSince := 0, restoring := none, image := none, migrations := [] }

/-- The machine right after die reset: no partition, no wave, memory with nothing listed, CLOCK 0
(R103), the fabric manager's endpoint alone (R374), the cap and clock of R16, not yet booted
(R382). The values the spec does not state are those of logs 1 to 4. -/
def State.reset : State :=
  { w := Wave.empty, waves := [], clock := 0, time := 0, decayed := 0, mem := [], bad := [], cores := [], engines := [],
    channels := [], cards := [], cardTurn := [], parts := [],
    contexts := [(0xFFFF, Context.zero 0)], images := [], launches := [], grans := [], clines := [],
    ccounts := [], dieid := 0, chip := 0, routes := [(0, { chip := 0, addr := 0, flow := 0, ends := [] })], anchor := 0,
    fw := { root := [], service := [], stagedRoot := none, stagedService := none,
            booted := false, retries := 0, recovery := false },
    power := { card := false, cap := Config.resetCap, mhz := Config.resetClock, hot := 0, cool := 0,
               posted := false, windows := 0 },
    discards := [], hostData := [], nextWave := 1, nextLaunch := 1, target := { n := 0, k := 0, m := 0 },
    agenda := [], free := 0 }

end Sys2Proof.Machine
end

