-- ==== Sys2Proof/Machine/Codec.lean ====
section
/-! DEFINITION. The block codec of codec pages (14 Transform-coded FP64 pages, R253 to R256): pure
functions between eight FP64 values and a stored block of b bytes. -/

namespace Sys2Proof.Machine

/-- Bytes of a stored block for a budget code (Table 11-4). -/
def budgetBytes (b : Nat) : Nat := [16, 20, 24, 32, 40, 48].getD b 16

/-- Bits of the coefficients for a block of b bytes (Table 14-2). -/
def coefBits (b : Nat) : List Nat :=
  match b with
  | 16 => [26, 18, 16, 16, 10, 10, 10, 10]
  | 20 => [30, 22, 20, 20, 14, 14, 14, 14]
  | 24 => [32, 28, 24, 24, 18, 18, 18, 18]
  | 32 => [40, 36, 32, 32, 26, 26, 26, 26]
  | 40 => [48, 44, 40, 40, 34, 34, 34, 34]
  | _ => [56, 52, 48, 48, 42, 42, 42, 42]

/-- A rational x·2^e rounded to an integer, ties to even (R255). -/
def roundHalfEven (x : Int) (e : Int) : Int :=
  let n := (roundQ .rne false x.natAbs e 0 false).1
  if x < 0 then -(n : Int) else n

/-- One forward lifting step: `(s, d)`. -/
def liftPair (a b : Int) : Int × Int :=
  let d := a - b
  (b + d / 2, d)

/-- One inverse lifting step: `(a, b)`. -/
def unliftPair (s d : Int) : Int × Int :=
  let b := s - d / 2
  (d + b, b)

/-- The eight coefficients of eight integers (R255). -/
def liftBlock (q : Nat → Int) : List Int :=
  let (s10, d10) := liftPair (q 0) (q 1)
  let (s11, d11) := liftPair (q 2) (q 3)
  let (s12, d12) := liftPair (q 4) (q 5)
  let (s13, d13) := liftPair (q 6) (q 7)
  let (s20, d20) := liftPair s10 s11
  let (s21, d21) := liftPair s12 s13
  let (s30, d30) := liftPair s20 s21
  [s30, d30, d20, d21, d10, d11, d12, d13]

/-- The eight integers of eight coefficients (R256). -/
def unliftBlock (c : Nat → Int) : List Int :=
  let (s20, s21) := unliftPair (c 0) (c 1)
  let (s10, s11) := unliftPair s20 (c 2)
  let (s12, s13) := unliftPair s21 (c 3)
  let (q0, q1) := unliftPair s10 (c 4)
  let (q2, q3) := unliftPair s11 (c 5)
  let (q4, q5) := unliftPair s12 (c 6)
  let (q6, q7) := unliftPair s13 (c 7)
  [q0, q1, q2, q3, q4, q5, q6, q7]

/-- The exponent ⌊log₂|x|⌋ of a nonzero finite value. -/
def expOf : FVal → Option Int
  | .fin _ m e => if m = 0 then none else some (e + (Nat.log2 m : Int))
  | _ => none

/-- Coefficients packed from bit 12 on, each in its bits (Table 14-3). -/
def packCoefs : List (Int × Nat) → Nat → Nat
  | [], _ => 0
  | (t, n) :: l, pos => (BitVec.ofInt n t).toNat * 2 ^ pos + packCoefs l (pos + n)

/-- Coefficients read from bit `pos` on, in two's complement. -/
def unpackCoefs (x : Nat) : List Nat → Nat → List Int
  | [], _ => []
  | n :: l, pos =>
    let t := x / 2 ^ pos % 2 ^ n
    (if t < 2 ^ (n - 1) then (t : Int) else (t : Int) - 2 ^ n) :: unpackCoefs x l (pos + n)

/-- R255: the stored stream of eight FP64 codes and the number of clamps. -/
def encodeBlock (b : Nat) (xs : List Nat) : Nat × Nat :=
  let vs := xs.map (FFmt.dec .f64)
  match vs.filterMap expOf with
  | [] => (0, 0)
  | es =>
    let emax := es.foldl (fun a e => if a < e then e else a) (-1022 : Int)
    let q (i : Nat) : Int :=
      match vs.getD i .nan with
      | .fin s m e => roundHalfEven (if s then -(m : Int) else m) (e + 59 - emax)
      | _ => 0
    let ts := (liftBlock q).zip (coefBits b) |>.map (fun cn =>
      let t := roundHalfEven cn.1 ((cn.2 : Int) - 63)
      let lo : Int := -(2 ^ (cn.2 - 1) : Int)
      let hi : Int := 2 ^ (cn.2 - 1) - 1
      (clampI t lo hi, cn.2, decide (t < lo) || decide (hi < t)))
    ((emax + 1023).toNat + packCoefs (ts.map (fun t => (t.1, t.2.1))) 12, ts.countP (·.2.2))

/-- R256: the eight FP64 codes of a stored stream and the number of clamps; none when the block
is malformed. -/
def decodeBlock (b : Nat) (x : Nat) : Option (List Nat × Nat) :=
  let e : Nat := x % 2 ^ 11
  if x / 2 ^ 11 % 2 = 1 || e = 2047 then none
  else if e = 0 then some (List.replicate 8 0, 0)
  else
    let emax : Int := (e : Int) - 1023
    let ts := unpackCoefs x (coefBits b) 12
    let c (k : Nat) : Int := ts.getD k 0 * 2 ^ (63 - (coefBits b).getD k 63)
    let rs := (unliftBlock c).map (fun q =>
      let r := roundFin .f64 .rne false (decide (q < 0)) q.natAbs (emax - 59) false
      if q = 0 then (0, false)
      else if r.ev.ovf then (FFmt.signed .f64 (decide (q < 0)) (FFmt.maxFin .f64), true)
      else if r.code % FFmt.sign .f64 = 0 then (0, false)
      else (r.code, false))
    some (rs.map (·.1), rs.countP (·.2))

/-- The eight FP64 codes of a decoded line. -/
def lineValues (d : BitVec 512) : List Nat := (List.range 8).map (fun i => (d.extractLsb' (64 * i) 64).toNat)

/-- A decoded line of eight FP64 codes. -/
def lineOfValues (l : List Nat) : BitVec 512 :=
  BitVec.ofNat 512 (l.foldr (fun v a => v + 2 ^ 64 * a) 0)

/-- What an encode stores and counts (R260): stored bytes, decoded line, and the additions to
LOSSY, CLIP and FLUSH. -/
def encodeLine (b : Nat) (d : BitVec 512) : List Byte × BitVec 512 × Nat × Nat × Nat :=
  let xs := lineValues d
  let (x, c1) := encodeBlock b xs
  let (ys, c2) := (decodeBlock b x).getD (List.replicate 8 0, 0)
  let zero (v : Nat) : Bool := v % FFmt.sign .f64 == 0
  let fl := (xs.zip ys).countP (fun p => !zero p.1 && zero p.2)
  (bytesOf b x, lineOfValues ys, if xs = ys then 0 else 1, c1 + c2, fl)

end Sys2Proof.Machine
end

