-- ==== Sys2Proof/Machine/Mem.lean ====
section
/-! DEFINITION. Memories (11, 12, 13): addresses, translation, the vault window, caches, codec
lines, the race detector, and the one operation that makes a memory instruction's accesses. -/

namespace Sys2Proof.Machine

/-! ### Bytes of the memory list -/

/-- A byte of memory; what nothing has written reads as 0 (log 1). -/
def memByte (m : Memory) (k : Nat) : Byte := SMap.getD m k 0

/-- Memory with a byte written, in canonical form. -/
def memSet (m : Memory) (k : Nat) (b : Byte) : Memory := SMap.write 0 m k b

/-- `n` bytes from a key. -/
def memBytes (m : Memory) (k n : Nat) : List Byte := (List.range n).map (fun i => memByte m (k + i))

/-- Memory with bytes written from a key. -/
def memPut (m : Memory) (k : Nat) : List Byte → Memory
  | [] => m
  | b :: l => memPut (memSet m k b) (k + 1) l

/-- A little-endian number of `n` bytes (R1). -/
def memNat (m : Memory) (k n : Nat) : Nat := natOfBytes (memBytes m k n)

/-- Memory with an `n`-byte number written. -/
def memPutNat (m : Memory) (k n x : Nat) : Memory := memPut m k (bytesOf n x)

/-- The canonical form of memory. -/
def Memory.wf (m : Memory) : Bool := SMap.wfD (0 : Byte) m

/-! ### Keys -/

/-- The key of a vault byte (cluster `c` of die `d`). -/
def vaultKey (d c off : Nat) : Nat := 2 ^ 64 + d * 2 ^ 40 + c * 2 ^ 25 + off

/-- The key of an L1 line of a context: by virtual address (R208). -/
def lineKey (ctx : Nat) (va : DWord) : Nat := ctx * 2 ^ 58 + va.toNat / 64

/-- The key of a line of the read-only path (R209). -/
def roKey (ctx : Nat) (va : DWord) : Nat := 2 ^ 75 + lineKey ctx va

/-- The counter key of a codec leaf (R252): one per context and 2 MiB page. -/
def leafKey (ctx : Nat) (va : DWord) : Nat := ctx * 2 ^ 27 + va.toNat / 2 ^ 21 % 2 ^ 27

/-- The key of a codec line. -/
def clineKey (leaf j : Nat) : Nat := leaf * 2 ^ 15 + j

/-! ### Virtual addresses (R201) -/

/-- Bits [63:52]. -/
def vaDie (va : DWord) : Nat := bits va 63 52
/-- Bits [51:48]. -/
def vaSpace (va : DWord) : Nat := bits va 51 48
/-- Bits [47:0]. -/
def vaOff (va : DWord) : Nat := bits va 47 0

/-- A vault-window address of this die (R203). -/
def vaultVa (j off : Nat) : DWord := dw (0xFFFE * 2 ^ 48 + j * 2 ^ 25 + off)

/-! ### Translation (R211, R212) -/

/-- What a walk finds. -/
inductive Xlat where
  | leaf (e : DWord) (big : Bool)
  | absent
  | invalid
  deriving DecidableEq, Repr

/-- Bits [59:12] of an entry, as an address. -/
def entryPa (e : DWord) : Nat := bits e 59 12 * 2 ^ 12

/-- The KIND of an entry. -/
def entryKind (e : DWord) : Nat := bits e 6 4

/-- Whether a leaf meets Table 11-4, R252, R374 and names a page of the chip. -/
def leafOk (chip : Nat) (big : Bool) (e : DWord) : Bool :=
  zeroBits e 63 60 && zeroBits e 11 10 && zeroBits e 3 3 &&
  (if big then zeroBits e 20 12 else zeroBits e 15 12) &&
  decide (entryKind e ≤ 2) &&
  (if entryKind e = 1 then big && decide (bits e 9 7 ≤ 5) else zeroBits e 9 7) &&
  decide (bits e 59 48 = chip) &&
  !(decide (0xFF0000000000 ≤ entryPa e % 2 ^ 48) && decide (entryPa e % 2 ^ 48 ≤ 0xFF0000180FFF))

/-- Whether a pointer uses only V and PA. -/
def pointerOk (e : DWord) : Bool := zeroBits e 63 60 && zeroBits e 11 1

/-- The walk from a table, over the levels left, each with its lowest index bit and its bits. -/
def walk (view : Memory) (chip off : Nat) : Nat → List (Nat × Nat) → Xlat
  | _, [] => .invalid
  | table, (lo, n) :: ls =>
    let e : DWord := dw (memNat view (table + 8 * (off / 2 ^ lo % 2 ^ n)) 8)
    if e.getLsbD 0 == false then .absent
    else if e.getLsbD 1 then
      if (lo = 21 || lo = 16) && leafOk chip (lo = 21) e then .leaf e (lo = 21) else .invalid
    else if pointerOk e then walk view chip off (entryPa e) ls
    else .invalid

/-- The levels of R211. -/
def walkLevels : List (Nat × Nat) := [(39, 9), (30, 9), (21, 9), (16, 5)]

/-- Where an access lands. -/
inductive Loc where
  /-- a byte of an ordinary page, by memory key -/
  | mem (key : Nat)
  /-- a byte of a codec page: leaf, storage base, budget code, offset in the page -/
  | codec (leaf base budget off : Nat)
  /-- a vault byte, by memory key -/
  | vault (key : Nat)
  /-- a byte of a guard granule (R206) -/
  | guard
  /-- an offset of Table 11-3 -/
  | aperture (off : Nat)
  /-- a byte of another die, by virtual address (R214) -/
  | remote (va : DWord)
  deriving DecidableEq, Repr

/-- What the checks of R202 to R207 and R212 say of an access. -/
inductive Chk where
  | ok (l : Loc)
  | trap (cause : Nat)
  | page
  deriving DecidableEq, Repr

/-- The partition, with its clusters and shares, or one with no cluster. -/
def Part.zero : Part :=
  { clusters := [], p := 0, t := 0, eps := [], tasks := [], seq := 0, deques := [], sweepPos := 0, swept := 0,
    sweepLeft := 0, inc := [], incOrrery := [], incCore := [], incPub := [], incSince := [], killq := 0, killr := 0, incups := 0,
    tickets := 0, pubs := 0, scq := [], groups := [], allocs := [], nextAlloc := 0, frames := [],
    rays := [], bins := [], forms := [], spawns := [], fullSince := none, raySeq := 0,
    treelets := [], jamLeft := 0, jamBin := 0,
    blink := { ctl := 0, thr := 0, missed := 0, seq := 0, holdUntil := none, snap := none,
               copying := 0, fired := 0, tags := [] } }

/-- A partition's record. -/
def partOf (s : State) (p : Nat) : Part := SMap.getD s.parts p Part.zero

/-- The state with a partition's record changed. -/
def modPart (s : State) (p : Nat) (f : Part → Part) : State :=
  { s with parts := SMap.put s.parts p (f (partOf s p)) }

/-- A context's record. -/
def ctxOf (s : State) (c : Nat) : Context := SMap.getD s.contexts c (Context.zero 0)

/-- The state with a context's record changed. -/
def modCtx (s : State) (c : Nat) (f : Context → Context) : State :=
  { s with contexts := SMap.put s.contexts c (f (ctxOf s c)) }

/-- A core's record. -/
def coreOf (s : State) (c : Nat) : Core := SMap.getD s.cores c Core.zero

/-- The state with a core's record changed. -/
def modCore (s : State) (c : Nat) (f : Core → Core) : State :=
  { s with cores := SMap.put s.cores c (f (coreOf s c)) }

/-- The address check of a vault-window access by an agent of a partition (R203, R206, R207). -/
def locateVault (s : State) (part : Nat) (off : Nat) : Chk :=
  let p := partOf s part
  let j := off / 2 ^ 25 % 64
  let o := off % 2 ^ 25
  if off / 2 ^ 31 ≠ 0 || o ≥ Config.vaultBytes then .trap 0x07
  else
    match p.clusters[j]? with
    | none => .trap 0x07
    | some c =>
      let key := vaultKey s.dieid.toNat c o
      if o < Config.vaultShared then .ok (.vault key)
      else if o < Config.vaultShared + (p.p + p.t) * 2 ^ 20 then .trap 0x07
      else
        let here := (SMap.vals p.allocs).filter (fun a => a.vault = j)
        if here.any (fun a => a.start ≤ o && o < a.start + a.size) then .ok (.vault key)
        else if here.any (fun a => a.start ≤ o + 256 && o < a.start + a.size + 256) then .ok .guard
        else .trap 0x07

/-- Whether an aperture offset is one of Table 11-3. -/
def apertureOk (s : State) (part off : Nat) : Bool :=
  let j := off / 0x1000
  if off < 0x40000 then
    decide (off % 0x100 = 0) && decide (off / 0x100 % 16 < 16) && decide (j < (partOf s part).clusters.length)
  else decide (off % 0x100 = 0) && decide (off < 0x40800)

/-- What another die answers to an access (R214): each answer of R212 and R215, drawn anew for each access. -/
def remoteChk (s : State) (exempt write : Bool) (va : DWord) : Chk :=
  match Config.remoteAnswer s.clock s.free va with
  | 1 => .page
  | 2 => .trap 0x07
  | 3 => if exempt then .ok (.remote va) else .trap 0x0A
  | 5 => if write then .trap 0x0B else .ok (.remote va)
  | _ => .ok (.remote va)

/-- The address check of an access by an agent of a context (R202, R211, R212, R214); copy and
transform engines are exempt from COMPREF. An access on this die before a command has set the context's table base
meets no translation, as one with V = 0 does (log 88). -/
def locate (s : State) (ctx part : Nat) (exempt write : Bool) (va : DWord) : Chk :=
  let die := vaDie va
  let sp := vaSpace va
  if sp ≤ 1 then
    let d := if sp = 0 && die = 0xFFF then s.dieid.toNat else die
    match SMap.get? s.routes d with
    | none => .trap 0x07
    | some r =>
      if d ≠ s.dieid.toNat then remoteChk s exempt write va
      else
      let t := SMap.getD (ctxOf s ctx).tables d { base := none, view := [] }
      match t.base with
      | none => .page
      | some b =>
        match walk t.view r.chip (vaOff va) b walkLevels with
        | .absent => .page
        | .invalid => .trap 0x07
        | .leaf e big =>
          if write && e.getLsbD 2 == false then .trap 0x07
          else if entryKind e = 2 && !exempt then .trap 0x0A
          else if entryKind e = 1 then
            .ok (.codec (leafKey ctx va) (entryPa e) (bits e 9 7) (vaOff va % 2 ^ 21))
          else .ok (.mem (entryPa e + vaOff va % (if big then 2 ^ 21 else 2 ^ 16)))
  else if sp = 0xE then
    if die = 0xFFF || die = s.dieid.toNat then locateVault s part (vaOff va) else .trap 0x07
  else if sp = 0xF then
    if (die = 0xFFF || die = s.dieid.toNat) && apertureOk s part (vaOff va) then
      .ok (.aperture (vaOff va))
    else .trap 0x07
  else .trap 0x07

/-! ### Codec lines (R257 to R260) -/

/-- A codec line as a fill gives it: held decoded, or decoded from its stored bytes; none when the
block is malformed, or ECC cannot correct its stored bytes (R15, R256). -/
def codecFill (s : State) (leaf base budget j : Nat) : Option CLine :=
  match SMap.get? s.clines (clineKey leaf j) with
  | some l => some l
  | none =>
    let b := budgetBytes budget
    if s.bad.any (fun k => base + j * b ≤ k && k < base + (j + 1) * b) then none
    else (decodeBlock b (memNat s.mem (base + j * b) b)).map (fun r =>
      { data := lineOfValues r.1, dirty := false, base := base, budget := budget })

/-- The encode of a dirty line as it leaves the L2, with its counters (R259, R260); a clean line
is dropped. -/
def codecEncode (s : State) (key : Nat) : State :=
  match SMap.get? s.clines key with
  | none => s
  | some l =>
    let s := { s with clines := SMap.del s.clines key }
    if !l.dirty then s
    else
      let b := budgetBytes l.budget
      let (bs, _, lossy, clip, fl) := encodeLine b l.data
      let leaf := key / 2 ^ 15
      let c := SMap.getD s.ccounts leaf { enc := 0, lossy := 0, clip := 0, flush := 0 }
      { s with
        mem := memPut s.mem (l.base + key % 2 ^ 15 * b) bs
        ccounts := SMap.put s.ccounts leaf
          { enc := c.enc + 1, lossy := c.lossy + lossy, clip := satAdd c.clip clip 0xFFFFFFFF,
            flush := satAdd c.flush fl 0xFFFFFFFF } }

/-- Every line of a codec leaf encoded or dropped. -/
def codecFlush (s : State) (leaf : Nat) : State :=
  (SMap.keys s.clines).foldl (fun s k => if k / 2 ^ 15 = leaf then codecEncode s k else s) s

/-- Bytes of a line from an offset. -/
def lineBytes (d : BitVec 512) (o n : Nat) : List Byte :=
  (List.range n).map (fun i => d.extractLsb' (8 * (o + i)) 8)

/-- A line with bytes put at an offset. -/
def linePut (d : BitVec 512) (o : Nat) : List Byte → BitVec 512
  | [] => d
  | b :: l =>
    linePut ((d &&& ~~~((0xFF : BitVec 512) <<< (8 * o))) ||| (b.setWidth 512 <<< (8 * o))) (o + 1) l

/-- The mask of `n` bytes of a line from an offset. -/
def lineMask (o n : Nat) : BitVec 64 := BitVec.ofNat 64 ((2 ^ n - 1) * 2 ^ o)

/-! ### The home agent: what memory holds at a location -/

/-- Whether the data of a location cannot be corrected (R15, R256). -/
def homeEcc (s : State) (l : Loc) (n : Nat) : Bool :=
  match l with
  | .mem k => s.bad.any (fun b => k ≤ b && b < k + n)
  | .vault k => s.bad.any (fun b => k ≤ b && b < k + n)
  | .codec leaf base budget off => (codecFill s leaf base budget (off / 64)).isNone
  | .remote va => decide (Config.remoteAnswer s.clock s.free va = 6)
  | _ => false

/-- `n` bytes at a location, at the home slice or the vault; a guard reads 0 (R206). -/
def homeRead (s : State) (l : Loc) (n : Nat) : List Byte :=
  match l with
  | .mem k => memBytes s.mem k n
  | .vault k => memBytes s.mem k n
  | .codec leaf base budget off =>
    match codecFill s leaf base budget (off / 64) with
    | some c => lineBytes c.data (off % 64) n
    | none => List.replicate n 0
  | .guard => List.replicate n 0
  | .aperture _ => List.replicate n 0
  | .remote va => (List.range n).map (fun i => Config.remoteByte s.clock s.free (va + dw i))

/-- The state with the codec line of a location filled (R257). -/
def homeFill (s : State) (l : Loc) : State :=
  match l with
  | .codec leaf base budget off =>
    match codecFill s leaf base budget (off / 64) with
    | some c => { s with clines := SMap.put s.clines (clineKey leaf (off / 64)) c }
    | none => s
  | _ => s

/-- Whether a vault byte holds the OUT bit of a queue control word (R267). -/
def isOut (s : State) (key : Nat) : Bool :=
  decide (key % 32 = 24) &&
  s.parts.any (fun np => (SMap.vals np.2.allocs).any (fun a =>
    match np.2.clusters[a.vault]? with
    | some c => a.qcws.any (fun q => vaultKey s.dieid.toNat c (q + 24) = key)
    | none => false))

/-- Memory with bytes stored from a vault key: the OUT bit of a queue control word keeps its value (R266). -/
def vaultPut (s : State) (k : Nat) : List Byte → State
  | [] => s
  | b :: l =>
    let old := memByte s.mem k
    let b := if (old ^^^ b).getLsbD 0 && isOut s k then b ^^^ 1 else b
    vaultPut { s with mem := memSet s.mem k b } (k + 1) l

/-- Bytes written at a location, at the home slice or the vault; a codec line is merged decoded
and marked dirty (R258); a guard takes nothing. -/
def homeWrite (s : State) (l : Loc) (bs : List Byte) : State :=
  match l with
  | .mem k => { s with mem := memPut s.mem k bs }
  | .vault k => vaultPut s k bs
  | .codec leaf base budget off =>
    match codecFill s leaf base budget (off / 64) with
    | some c =>
      let c' : CLine := { c with data := linePut c.data (off % 64) bs, dirty := true }
      { s with clines := SMap.put s.clines (clineKey leaf (off / 64)) c' }
    | none => s
  | _ => s

/-- Whether an FP64 code is infinite or NaN. -/
def f64NonFinite (v : Nat) : Bool := v / 2 ^ 52 % 2 ^ 11 == 2047

/-- Whether the FP64 values an access touches at a codec location are all finite. -/
def codecFinite (s : State) (l : Loc) (n : Nat) : Bool :=
  match l with
  | .codec leaf base budget off =>
    match codecFill s leaf base budget (off / 64) with
    | some c =>
      (List.range ((n + 7) / 8)).all (fun i =>
        !f64NonFinite (natOfBytes (lineBytes c.data (off % 64 / 8 * 8 + 8 * i) 8)))
    | none => true
  | _ => true

/-! ### The L1 (R208, R209, R217) -/

/-- Dirty bytes of a line written at its home. -/
def writeDirty (s : State) (ctx part : Nat) (va : DWord) (l : Line) : State :=
  (List.range 64).foldl (fun s i =>
    if l.dirty.getLsbD i then
      match locate s ctx part true false (va + dw i) with
      | .ok loc => homeWrite s loc (lineBytes l.data i 1)
      | _ => s
    else s) s

/-- The context and address a line key stands for. -/
def keyCtx (key : Nat) : Nat := key / 2 ^ 58 % 2 ^ 17
/-- The address of a line key. -/
def keyVa (key : Nat) : DWord := dw (key % 2 ^ 58 * 64)

/-- The bytes of the 8-byte units, single-copy atomic (R219), of which a mask has a byte. -/
def unitMask (m : BitVec 64) : BitVec 64 :=
  BitVec.ofNat 64 ((List.range 8).foldl (fun n i => if m &&& lineMask (8 * i) 8 = 0 then n else n + 0xFF * 2 ^ (8 * i)) 0)

/-- The write-through of one line: its dirty bytes go home and stay, clean. Its other bytes of their units do not, as the
home may have merged another agent's store into those (R239). -/
def writeThroughLine (s : State) (core key : Nat) : State :=
  match SMap.get? (coreOf s core).l1 key with
  | none => s
  | some l =>
    if l.dirty = 0 then s
    else
      let s := writeDirty s (keyCtx key) (ctxOf s (keyCtx key)).part (keyVa key) l
      modCore s core (fun c => { c with l1 := SMap.put c.l1 key { l with dirty := 0, valid := l.valid &&& (l.dirty ||| ~~~ unitMask l.dirty) } })

/-- The write-through of a core's L1 (R208). -/
def writeThrough (s : State) (core : Nat) : State :=
  (SMap.keys (coreOf s core).l1).foldl (fun s k => writeThroughLine s core k) s

/-- The invalidation an acquire makes: dirty bytes are written through, and every line but those
of the read-only path is dropped (R208, R209). -/
def invalidateL1 (s : State) (core : Nat) : State :=
  let s := writeThrough s core
  modCore s core (fun c => { c with l1 := c.l1.filter (fun kl => kl.2.ro.isSome) })

/-- A line dropped from a core, its dirty bytes written through first. -/
def dropLine (s : State) (core key : Nat) : State :=
  let s := writeThroughLine s core key
  modCore s core (fun c => { c with l1 := SMap.del c.l1 key })

/-- The eviction of a line: written through, dropped, and its victim tag written in place of the
oldest (R217); a tag names the line's address, whichever path filled it. -/
def evictLine (s : State) (core key : Nat) : State :=
  match SMap.get? (coreOf s core).l1 key with
  | none => s
  | some l =>
    let s := dropLine s core key
    modCore s core (fun c =>
      let v := c.victims ++ [{ key := key % 2 ^ 75, slot := l.filler }]
      { c with victims := if v.length > 4096 then v.drop 1 else v })

/-- A line put into a core; a full L1 first evicts the line that a free value names (R208 leaves
the replacement open). -/
def putLine (s : State) (core key : Nat) (l : Line) : State :=
  let ks := SMap.keys (coreOf s core).l1
  let s :=
    if ks.contains key || ks.length < 4096 then s
    else
      let k := ks.getD ((Config.freeWord s.free).toNat % ks.length) 0
      evictLine { s with free := s.free + 1 } core k
  modCore s core (fun c => { c with l1 := SMap.put c.l1 key l })

/-- Who makes an access: its identity for the race detector, its FAGENT word, context and
partition, core and scheduler slot, whether it is checked, its Acq, and the wave that started it (R234, R244). `core` is 256
and the cluster for an agent of a cluster, and 320 for one of a partition (Table 13-1). -/
structure Agent where
  uid : Nat
  word : DWord
  ctx : Nat
  part : Nat
  core : Nat
  slot : BitVec 6
  race : Bool
  acq : Nat
  starter : Option Nat := none
  deriving DecidableEq, Repr

/-- The class of an engine agent's accesses (Tables 06-6 and 13-1): CP 1, MX 2, GS 3, TX 5. -/
def Agent.cls (a : Agent) : Nat := match bits a.word 3 0 with | 2 => 1 | 3 => 2 | 4 => 3 | _ => 5

/-- A wave changed by id, in focus or not. -/
def modWave (s : State) (id : Nat) (f : Wave → Wave) : State :=
  if s.w.id = id then { s with w := f s.w } else { s with waves := SMap.adjust s.waves id f }

/-- A miss: the victim tags are matched, and an entry of the wave's own slot adds 16 to LLS and is
invalidated (R217). -/
def victimMatch (s : State) (a : Agent) (key : Nat) : State :=
  let c := coreOf s a.core
  match c.victims.find? (fun v => v.key = key % 2 ^ 75 && v.slot = a.slot) with
  | none => s
  | some v =>
    let s := modCore s a.core (fun c => { c with victims := c.victims.erase v })
    modWave s a.uid (fun w =>
      { w with sys := { w.sys with lls := BitVec.ofNat 8 (satAdd w.sys.lls.toNat 16 255) } })

/-- The 64 bytes of the line a location lies in. -/
def homeLine (s : State) (l : Loc) : BitVec 512 :=
  let whole : Loc := match l with
    | .mem k => .mem (k / 64 * 64)
    | .codec leaf base budget off => .codec leaf base budget (off / 64 * 64)
    | .remote va => .remote (va &&& ~~~ 63)
    | l => l
  linePut 0 0 (homeRead s whole 64)

/-- The bytes of a location's line that a fill makes valid: those whose data ECC can correct (R15). -/
def fillMask (s : State) (l : Loc) : BitVec 64 :=
  match l with
  | .mem k =>
    if s.bad.any (fun b => b / 64 = k / 64) then
      BitVec.ofNat 64 ((List.range 64).foldl (fun m i => if s.bad.contains (k / 64 * 64 + i) then m else m + 2 ^ i) 0)
    else BitVec.allOnes 64
  | _ => BitVec.allOnes 64

/-- A load of `n` bytes through the L1: a hit gives the core's bytes, a miss fills the line but for its dirty bytes, so that
no unit is in part older than what the home holds (R208, R239). -/
def l1Load (s : State) (a : Agent) (va : DWord) (loc : Loc) (n : Nat) : State × List Byte :=
  let key := lineKey a.ctx va
  let o := va.toNat % 64
  let need := lineMask o n
  match SMap.get? (coreOf s a.core).l1 key with
  | some l =>
    if l.valid &&& need = need then (s, lineBytes l.data o n)
    else
      let home := homeLine s loc
      let data := (List.range 64).foldl (fun d i =>
        if l.dirty.getLsbD i then d else linePut d i (lineBytes home i 1)) l.data
      let s := victimMatch (homeFill s loc) a key
      (putLine s a.core key { l with data := data, valid := l.dirty ||| fillMask s loc, filler := a.slot, wave := a.uid },
       lineBytes data o n)
  | none =>
    let home := homeLine s loc
    let s := victimMatch (homeFill s loc) a key
    (putLine s a.core key
       { data := home, valid := fillMask s loc, dirty := 0, ro := none, filler := a.slot, wave := a.uid },
     lineBytes home o n)

/-- The line of the read-only path that a load of `n` bytes hits: only one filled in the wave's epoch or later (R209). -/
def roHit (s : State) (a : Agent) (epoch : Nat) (va : DWord) (n : Nat) : Option Line :=
  let need := lineMask (va.toNat % 64) n
  match SMap.get? (coreOf s a.core).l1 (roKey a.ctx va) with
  | some l => match l.ro with
    | some e => if epoch ≤ e && l.valid &&& need == need then some l else none
    | none => none
  | none => none

/-- A load through the read-only path (R209). -/
def roLoad (s : State) (a : Agent) (epoch : Nat) (va : DWord) (loc : Loc) (n : Nat) : State × List Byte :=
  let key := roKey a.ctx va
  let o := va.toNat % 64
  match roHit s a epoch va n with
  | some l => (s, lineBytes l.data o n)
  | none =>
    let home := homeLine s loc
    let s := victimMatch (homeFill s loc) a key
    (putLine s a.core key
       { data := home, valid := fillMask s loc, dirty := 0, ro := some (coreOf s a.core).epoch,
         filler := a.slot, wave := a.uid },
     lineBytes home o n)

/-- A store merged into the L1 under its byte mask (R208). -/
def l1Store (s : State) (a : Agent) (va : DWord) (bs : List Byte) : State :=
  let key := lineKey a.ctx va
  let o := va.toNat % 64
  let m := lineMask o bs.length
  let s := if (SMap.get? (coreOf s a.core).l1 key).isSome then s else victimMatch s a key
  let l := (SMap.get? (coreOf s a.core).l1 key).getD
    { data := 0, valid := 0, dirty := 0, ro := none, filler := a.slot, wave := a.uid }
  putLine s a.core key { l with data := linePut l.data o bs, valid := l.valid ||| m, dirty := l.dirty ||| m }

/-! ### The race detector and publication (R240, R244) -/

/-- A granule of which nothing is recorded. -/
def Gran.zero : Gran := { w := none, p := none, r := none, many := false, q := none, sync := [] }

/-- The granule of a location. -/
def granKey : Loc → Option Nat
  | .mem k => some (k / 16)
  | .vault k => some (k / 16)
  | .codec leaf _ _ off => some (2 ^ 90 + leaf * 2 ^ 17 + off / 16)
  | _ => none

/-- A granule's record. -/
def granOf (s : State) (k : Nat) : Gran := SMap.getD s.grans k Gran.zero

/-- The agent a plain access races with, if any (R244). -/
def raceWith (g : Gran) (a : Agent) (write : Bool) : Option DWord :=
  let late : Option Nat → Bool := fun n => match n with | none => true | some n => decide (n > a.acq)
  match g.w with
  | some (word, uid) => if uid ≠ a.uid && late g.p then some word else readers g late
  | none => readers g late
where
  /-- The reader record's part of the test. -/
  readers (g : Gran) (late : Option Nat → Bool) : Option DWord :=
    if !write then none
    else match g.r with
      | some (word, uid) => if !g.many && uid ≠ a.uid && late g.q then some word else none
      | none => none

/-- A granule after a plain access that raced with nothing (R244). -/
def raceNote (g : Gran) (a : Agent) (write : Bool) : Gran :=
  if write then { g with w := some (a.word, a.uid), p := none, r := none, many := false, q := none }
  else
    let mine := match g.r with | none => !g.many | some (_, uid) => uid == a.uid && !g.many
    let closed := !g.many && (match g.q with | some n => decide (n ≤ a.acq) | none => false)
    if mine || closed then { g with r := some (a.word, a.uid), many := false, q := none }
    else { g with many := true }

/-- An access recorded; a write of an agent whose detector is off leaves no writer (R244). -/
def noteAccess (s : State) (a : Agent) (l : Loc) (write : Bool) : State :=
  match granKey l with
  | none => s
  | some k =>
    let g := granOf s k
    let g' := if a.race then raceNote g a write else if write then { g with w := none, p := none } else g
    { s with grans := SMap.write Gran.zero s.grans k g' }

/-- The FAGENT word of another die's agent: a free value, reserved bits 0 (R4, Table 06-6). -/
def remoteAgent (s : State) : DWord := Config.freeWord s.free &&& 0x0000FFFFFFFFF00F

/-- The race a plain access meets; that with another die's agent is named by a free value. -/
def raceAt (s : State) (a : Agent) (l : Loc) (write : Bool) : Option DWord :=
  if !a.race then none
  else match l with
  | .remote va => if Config.remoteAnswer s.clock s.free va = 4 then some (remoteAgent s) else none
  | l =>
    match granKey l with
    | none => none
    | some k => raceWith (granOf s k) a write

/-- A granule whose accesses by the agents `uids` a release closes with its number (R244). -/
def Gran.close (g : Gran) (uids : List Nat) (n : Nat) : Gran :=
  let g := match g.w, g.p with
    | some (_, u), none => if uids.contains u then { g with p := some n } else g
    | _, _ => g
  match g.r, g.q with
  | some (_, u), none => if uids.contains u && !g.many then { g with q := some n } else g
  | _, _ => g

/-- Waves whose own release took a number know it: the agents that they start later begin with it (R242, R243; log 103). -/
def noteRelease (s : State) (uids : List Nat) (n : Nat) : State :=
  (uids.filter (· ≠ 0)).foldl (fun s u => modWave s u (fun w => { w with rel := Nat.max w.rel n })) s

/-- A release that covers the granules `ks` of the agents `uids`: it takes the next publication number of the
partition and closes those they left open (R240, R244). -/
def publishIn (s : State) (ks : List Nat) (uids : List Nat) (part : Nat) : State × Nat :=
  let n := (partOf s part).pubs + 1
  let s := modPart s part (fun p => { p with pubs := n })
  (noteRelease { s with grans := s.grans.map (fun kg => (kg.1, if ks.contains kg.1 then kg.2.close uids n else kg.2)) } uids n, n)

/-- A release by several agents. -/
def publishAll (s : State) (uids : List Nat) (part : Nat) : State × Nat := publishIn s (SMap.keys s.grans) uids part

/-- A release by an agent. -/
def publish (s : State) (uid part : Nat) : State × Nat := publishAll s [uid] part

/-- The streams that a wave's handles drive, as agents (Table 13-1). -/
def streamUids (w : Wave) : List Nat := (SMap.vals w.streams).map (·.uid)

/-- The granules that an agent has accessed since its last release. -/
def openGrans (s : State) (uid : Nat) : List Nat :=
  SMap.keys (s.grans.filter (fun kg => kg.2.close [uid] 0 != kg.2))

/-- The cluster of an agent's `core`, if it has one. -/
def agentCluster (c : Nat) : Option Nat :=
  if c < Config.cores then some (c / Config.coresPerCluster)
  else if c < Config.cores + Config.clusters then some (c - Config.cores) else none

/-- The publication of an engine agent of a `core` (R243); the wave that started it knows its number under 5 to 7, by how
near the agent is, and a later FENCE takes it up (R241, R242). -/
def publishFor (s : State) (uid part core : Nat) (wave : Option Nat) : State × Nat :=
  let (s, n) := publish s uid part
  let level (x : Wave) : Nat :=
    if core = x.sys.core.toNat then 5
    else if agentCluster core = agentCluster x.sys.core.toNat then 6 else 7
  match wave with
  | some w => (modWave s w (fun x =>
      { x with seen := SMap.put x.seen (level x) (Nat.max n (SMap.getD x.seen (level x) 0)) }), n)
  | none => (s, n)

/-- Whether an agent at `r` lies within a scope as seen from one of a core, partition and context
(Table 13-2). -/
def inReach (scope core part ctx : Nat) (r : Rel) : Bool :=
  match scope with
  | 0 => false
  | 1 => decide (core < Config.cores) && core == r.core
  | 2 => (agentCluster core).isSome && agentCluster core == agentCluster r.core
  | 3 => part == r.part
  | _ => ctx == r.ctx

/-- The release recorded at a location's granule. -/
def syncAt (s : State) (l : Loc) (r : Rel) : State :=
  match granKey l with
  | none => s
  | some k =>
    let g := granOf s k
    let old := g.sync.filter (fun x => !(x.scope = r.scope && x.core = r.core && x.part = r.part && x.ctx = r.ctx))
    { s with grans := SMap.put s.grans k { g with sync := r :: old } }

/-- The greatest number among the releases at a granule that an acquire at a scope takes up: each lies within the
other's scope (R235). -/
def acquired (s : State) (l : Loc) (scope core part ctx : Nat) : Nat :=
  match granKey l with
  | none => 0
  | some k =>
    (granOf s k).sync.foldl (fun n r =>
      if inReach r.scope r.core r.part r.ctx { r with core := core, part := part, ctx := ctx } &&
         inReach scope core part ctx r then Nat.max n r.n else n) 0

/-! ### Atomics (Tables 12-2, 12-5) -/

/-- The value an atomic writes: operations 0 to 12 of Table 12-5, and 13 compare and swap, which
writes nothing on a failure. -/
def atomWrite (aop size old x c : Nat) : Option Nat :=
  let w := 8 * size
  let sv (n : Nat) : Int := if n < 2 ^ (w - 1) then (n : Int) else (n : Int) - 2 ^ w
  match aop with
  | 0 => some ((old + x) % 2 ^ w)
  | 1 => some (fpAdd .f32 .rne (FFmt.dec .f32 old) (FFmt.dec .f32 x)).code
  | 2 => some (fpAdd .f64 .rne (FFmt.dec .f64 old) (FFmt.dec .f64 x)).code
  | 3 => some (if sv old ≤ sv x then old else x)
  | 4 => some (if sv old ≤ sv x then x else old)
  | 5 => some (Nat.min old x)
  | 6 => some (Nat.max old x)
  | 7 => some (old &&& x)
  | 8 => some (old ||| x)
  | 9 => some (old ^^^ x)
  | 10 => some x
  | 11 =>
    let isNan (v : Nat) : Bool := decide (0x7F800000 < v % 2 ^ 31)
    some (if isNan old then x % 2 ^ 31 else fpMinMax .f32 true (old % 2 ^ 31) (x % 2 ^ 31))
  | 12 => some (if x ≤ old then 0 else old + 1)
  | _ => if old = c then some x else none

/-! ### The accesses of one memory instruction (R215, R219, R221, R222) -/

/-- What one access does. -/
inductive AccOp where
  | load
  | store (bs : List Byte)
  | atom (aop x c : Nat)
  deriving DecidableEq, Repr

/-- One lane's access. -/
structure Acc where
  lane : Nat
  va : DWord
  size : Nat
  op : AccOp
  deriving DecidableEq, Repr

/-- Whether an access needs a writable page (R212). -/
def AccOp.writes : AccOp → Bool
  | .load => false
  | _ => true

/-- The access kind of a fault record (R379). -/
def AccOp.kind : AccOp → Nat
  | .load => 0
  | .store _ => 1
  | .atom .. => 2

/-- The order, scope and path of an instruction's accesses; `quiet` ones are outside the race
detector (R157), and only `kick` ones reach the aperture window (R204). -/
structure AccMode where
  order : Order
  scope : Nat
  ro : Bool
  quiet : Bool
  kick : Bool := false
  deriving DecidableEq, Repr

/-- Plain, relaxed accesses. -/
def AccMode.plain : AccMode := { order := .rlx, scope := 0, ro := false, quiet := false }

/-- The outcome of checking and making an instruction's accesses. -/
structure AccRes where
  /-- a precise fault: cause, FADDR, FAGENT; then nothing was performed, except before an ECC, which is raised only
  when no lane met V = 0 -/
  trap : Option (Nat × DWord × DWord)
  st : State
  /-- bytes read, or the old value, by lane -/
  vals : SMap (List Byte)
  /-- lanes that met V = 0, ascending -/
  page : List Nat
  /-- lanes whose data ECC cannot correct, which replay with those (R15, R222) -/
  ecc : List Nat
  /-- the first guard byte touched, if any -/
  guard : Option DWord
  /-- aperture stores: lane, offset and value, in lane order -/
  ap : List (Nat × Nat × DWord)
  deriving DecidableEq, Repr

/-- Whether an access is checked by the race detector (R244): a relaxed load or store, and a relaxed compare and swap that
fails, which counts as a load (R224, R230). -/
def plainAcc (m : AccMode) (op : AccOp) (fails : Bool) : Bool :=
  m.order == .rlx && !m.ro && !m.quiet && (match op with | .atom .. => fails | _ => true)

/-- Whether a location is HEAD, TAIL or ring storage of a queue, whose plain loads are not checked (R268). -/
def queueByte (s : State) (l : Loc) : Bool :=
  match l with
  | .vault k =>
    s.parts.any (fun np => (SMap.vals np.2.allocs).any (fun a =>
      match np.2.clusters[a.vault]? with
      | none => false
      | some c => a.qcws.any (fun q =>
        let kq := vaultKey s.dieid.toNat c q
        let base := memNat s.mem kq 8
        let code := memNat s.mem (kq + 16) 1
        let len := 4 * 2 ^ (code / 32) * 2 ^ (code % 32)
        (decide (kq + 8 ≤ k) && decide (k < kq + 16)) ||
        (match np.2.clusters[base / 2 ^ 25 % 64]? with
         | some c' =>
           let r := vaultKey s.dieid.toNat c' (base % 2 ^ 25)
           decide (r ≤ k) && decide (k < r + len)
         | none => false))))
  | _ => false

/-- Whether an access with what it read is one that the detector checks. -/
def checkedAcc (s : State) (a : Agent) (m : AccMode) (x : Acc) (l : Loc) (fails : Bool) : Bool :=
  a.race && plainAcc m x.op fails && !(decide (x.op = .load) && queueByte s l)

/-- Whether an access, with what it read, is a compare and swap that fails. -/
def AccOp.fails (op : AccOp) (old : List Byte) : Bool :=
  match op with | .atom 13 _ c => natOfBytes old != c | _ => false

/-- Whether a kick value is one its register accepts: reserved bits 0, and a ring that the engine
serves (R295). -/
def kickOk (off : Nat) (v : DWord) : Bool :=
  zeroBits v 63 48 && zeroBits v 15 6 && bits v 5 0 % 8 == (off - 0x40000) / 0x100

/-- The check of one access: translation, the aperture's acceptance of 8-byte stores of SST and VST alone (R204),
and of well-formed kicks alone (R295). -/
def checkAcc (s : State) (a : Agent) (m : AccMode) (x : Acc) : Chk :=
  match locate s a.ctx a.part false x.op.writes x.va with
  | .ok (.aperture off) =>
    match x.op with
    | .store bs =>
      if m.kick && x.size = 8 && (decide (off < 0x40000) || kickOk off (dw (natOfBytes bs))) then .ok (.aperture off)
      else .trap 0x07
    | _ => .trap 0x07
  | c => c

/-- What an access leaves at its bytes, where it is an atomic that read `old`. -/
def AccOp.leaves (op : AccOp) (old : List Byte) : List Byte :=
  match op with
  | .atom aop v c => match atomWrite aop old.length (natOfBytes old) v c with
    | some n => bytesOf old.length n
    | none => old
  | _ => old

/-- The values that lanes of one instruction read, or left, by address (R221). -/
abbrev Got := List (DWord × List Byte)

/-- What an atomic finds at a location: at another die, what an earlier lane of its instruction left (R221). -/
def atomOld (s : State) (got : Got) (va : DWord) (l : Loc) (n : Nat) : List Byte :=
  match l, got.find? (fun g => g.1 = va) with
  | .remote _, some g => g.2
  | _, _ => homeRead s l n

/-- One access performed: its state and what it read. An atomic that touches a guard byte is not performed, and R206 states no
value that its register receives: a free one (log 114). -/
def performAcc (s : State) (a : Agent) (m : AccMode) (epoch : Nat) (got : Got) (x : Acc) (l : Loc) : State × List Byte :=
  match x.op, l with
  | .atom .., .guard => ({ s with free := s.free + 1 }, bytesOf x.size (Config.freeWord s.free).toNat)
  | _, .guard => (s, List.replicate x.size 0)
  | _, .aperture _ => (s, [])
  | .load, .vault _ => (s, homeRead s l x.size)
  | .load, _ =>
    if m.ro then roLoad s a epoch x.va l x.size else l1Load s a x.va l x.size
  | .store bs, .mem _ => (l1Store s a x.va bs, [])
  | .store bs, .remote _ => (l1Store s a x.va bs, [])
  | .store bs, .codec .. => (homeWrite (dropLine s a.core (lineKey a.ctx x.va)) l bs, [])
  | .store bs, .vault _ => (homeWrite s l bs, [])
  | .atom aop v c, _ =>
    let s := match l with
      | .vault _ => s
      | _ => dropLine s a.core (lineKey a.ctx x.va)
    let old := atomOld s got x.va l x.size
    match atomWrite aop x.size (natOfBytes old) v c with
    | some n => (homeWrite s l (bytesOf x.size n), old)
    | none => (homeFill s l, old)

/-- For each scope, the greatest number among the releases at a location that it takes up. -/
def acquiredAll (s : State) (l : Loc) (core part ctx : Nat) : List Nat :=
  (List.range 5).map (fun sc => acquired s l sc core part ctx)

/-- Whether a release has been performed at a location. -/
def syncedAt (s : State) (l : Loc) : Bool :=
  match granKey l with
  | some k => !(granOf s k).sync.isEmpty
  | none => false

/-- Pointwise maxima of two lists of five. -/
def maxAll (a b : List Nat) : List Nat := (List.range 5).map (fun i => Nat.max (a.getD i 0) (b.getD i 0))

/-- One access as its order has it: an SC access is performed at the home, whatever its scope (R240). -/
def performOne (s : State) (a : Agent) (m : AccMode) (epoch : Nat) (got : Got) (x : Acc) (l : Loc) : State × List Byte :=
  let key := lineKey a.ctx x.va
  if m.order = .sc then
    let (s, v) := performAcc (dropLine s a.core key) a m epoch got x l
    (writeThroughLine s a.core key, v)
  else performAcc s a m epoch got x l

/-- The accesses that pass every check, performed in lane order, with the detector's records and, by scope, the
releases met. Lanes of one load at one address get the value of the first, and each lane of an atomic that which the lane
before it left (R221). -/
def performAll (s : State) (a : Agent) (m : AccMode) (epoch : Nat) (got : Got) :
    List (Acc × Loc) → State × SMap (List Byte) × List Nat
  | [] => (s, [], [])
  | (x, l) :: rest =>
    let up := acquiredAll s l a.core a.part a.ctx
    let same := if x.op = .load then got.find? (fun g => g.1 = x.va) else none
    let (s', v) := match same with | some g => (s, g.2) | none => performOne s a m epoch got x l
    let fails := x.op.fails v
    let writes := x.op.writes && !fails
    let s := if checkedAcc s a m x l fails || (writes && !a.race && !m.quiet) then noteAccess s' a l writes else s'
    let (s, vs, n) := performAll s a m epoch ((x.va, x.op.leaves v) :: got) rest
    (s, (x.lane, v) :: vs, match x.op with | .store _ => n | _ => maxAll up n)

/-- Numbers met by reads of a class, 5·class + scope from `base` on, kept with those met before. -/
def noteSeen (base : Nat) (m : SMap Nat) (up : List Nat) : SMap Nat :=
  (List.range 5).foldl (fun m i => SMap.write 0 m (base + i) (Nat.max (SMap.getD m (base + i) 0) (up.getD i 0))) m

/-- The releases that reads of an engine agent meet are known to the wave that started it, by the class of the agent (R241). -/
def noteReads (s : State) (a : Agent) (ls : List Loc) : State :=
  match a.starter with
  | none => s
  | some w =>
    match ls.filter (syncedAt s) with
    | [] => s
    | ls =>
      let up := ls.foldl (fun n l => maxAll (acquiredAll s l a.core a.part a.ctx) n) []
      modWave s w (fun x => { x with seen := noteSeen (8 + 5 * a.cls) x.seen up })

/-- Whether an access writes a codec page. -/
def Loc.isCodec : Loc → Bool
  | .codec .. => true
  | _ => false

/-- Whether a location is another die's. -/
def Loc.isRemote : Loc → Bool
  | .remote _ => true
  | _ => false

/-- Accesses tried in lane order on the homes: the state they would leave, and which are a compare and swap that
fails. -/
def trialAll (s : State) (a : Agent) (m : AccMode) (epoch : Nat) (got : Got) :
    List (Acc × Loc) → State × List (Acc × Loc × Bool)
  | [] => (s, [])
  | (x, l) :: rest =>
    let again := match x.op with | .atom .. => true | op => op.writes && l.isCodec
    let (s, v) := if again then performAcc s a m epoch got x l else (s, [])
    let (s, out) := trialAll s a m epoch ((x.va, x.op.leaves v) :: got) rest
    (s, (x, l, x.op.fails v) :: out)

/-- Whether a load hits the L1, or, by the read-only path, a line of its own (R208, R209); an SC load does not. -/
def loadHits (s : State) (a : Agent) (m : AccMode) (epoch : Nat) (x : Acc) : Bool :=
  if m.ro then (roHit s a epoch x.va x.size).isSome
  else
    let need := lineMask (x.va.toNat % 64) x.size
    m.order != .sc && (match SMap.get? (coreOf s a.core).l1 (lineKey a.ctx x.va) with
      | some l => l.valid &&& need == need
      | none => false)

/-- Whether ECC cannot correct the data an access needs (R15): a store of whole bytes outside codec pages and a load
that hits the L1 need none of the home's. -/
def accEcc (s : State) (a : Agent) (m : AccMode) (epoch : Nat) (x : Acc) (l : Loc) : Bool :=
  homeEcc s l x.size &&
  (match x.op, l with
   | .store _, .mem _ | .store _, .vault _ | .store _, .remote _ => false
   | .load, .vault _ => true
   | .load, _ => !loadHits s a m epoch x
   | _, _ => true)

/-- An instruction's accesses: checked all, then performed by R222. Of an agent that is the focus
wave, Acq and the numbers seen rise with what it acquires or reads. -/
def makeAccesses (s : State) (a : Agent) (m : AccMode) (epoch : Nat) (xs : List Acc) : AccRes :=
  let stop (c : Nat) (f g : DWord) : AccRes :=
    { trap := some (c, f, g), st := s, vals := [], page := [], ecc := [], guard := none, ap := [] }
  match xs.find? (fun x => x.va.toNat % x.size ≠ 0) with
  | some x => stop 0x05 x.va 0
  | none =>
    let cs := xs.map (fun x => (x, checkAcc s a m x))
    match cs.find? (fun c => c.2 = .trap 0x07) with
    | some c => stop 0x07 c.1.va 0
    | none =>
    match cs.find? (fun c => c.2 = .trap 0x0A) with
    | some c => stop 0x0A c.1.va 0
    | none =>
    let oks := cs.filterMap (fun c => match c.2 with | .ok l => some (c.1, l) | _ => none)
    let (trial, tried) := trialAll s a m epoch [] oks
    let races := tried.filterMap (fun c =>
      if checkedAcc s a m c.1 c.2.1 c.2.2 then (raceAt s a c.2.1 (c.1.op.writes && !c.2.2)).map (fun w => (c.1.va, w)) else none)
    match races with
    | (va, w) :: _ => stop 0x09 va w
    | [] =>
    match tried.find? (fun c => c.1.op.writes && !c.2.2 && !codecFinite trial c.2.1 c.1.size),
          cs.find? (fun c => c.2 = .trap 0x0B) with
    | some c, some d => stop 0x0B (if c.1.lane < d.1.lane then c.1.va else d.1.va) 0
    | some c, none => stop 0x0B c.1.va 0
    | none, some d => stop 0x0B d.1.va 0
    | none, none =>
    let page := cs.filterMap (fun c => if c.2 = .page then some c.1.lane else none)
    let rel := m.order = .rel || m.order = .sc
    let acq := m.order = .acq || m.order = .sc
    let s := if acq && decide (1 ≤ m.scope) then invalidateL1 s a.core
             else if rel && decide (1 ≤ m.scope) then writeThrough s a.core else s
    let bad (c : Acc × Loc) : Bool := accEcc s a m epoch c.1 c.2
    let good := oks.filter (fun c => !bad c)
    let (s, n) := if rel then publish s a.uid a.part else (s, 0)
    let (s, vals, up) := performAll s a m epoch [] good
    let s := if rel then
        good.foldl (fun s c =>
          if c.1.op.writes then
            syncAt s c.2 { n := n, scope := m.scope, core := a.core, part := a.part, ctx := a.ctx } else s)
          (if 1 ≤ m.scope then writeThrough s a.core else s)
      else s
    let s := if good.any (fun c => c.2.isRemote) then { s with free := s.free + 1 } else s
    let s := modWave s a.uid (fun w =>
      { w with seen := noteSeen 0 w.seen up, acq := if acq then Nat.max w.acq (up.getD m.scope 0) else w.acq })
    { trap := if page.isEmpty then (oks.find? bad).map (fun c => (0x14, c.1.va, a.word)) else none
      st := s
      vals := vals
      page := page
      ecc := if page.isEmpty then [] else (oks.filter bad).map (fun c => c.1.lane)
      guard := ((oks.find? (fun c => c.2 = .guard)).map (fun c => c.1.va))
      ap := oks.filterMap (fun c => match c.1.op, c.2 with
        | .store bs, .aperture off => some (c.1.lane, off, dw (natOfBytes bs))
        | _, _ => none) }

/-! ### Accesses of engines and units: whole at once, at the home, outside the L1 -/

/-- The bytes an engine reads, or the cause it meets (0x06 for V = 0). -/
def engRead (s : State) (ctx part : Nat) (exempt : Bool) (va : DWord) (n : Nat) : Except Nat (List Byte) :=
  (List.range n).foldlM (fun l i =>
    match locate s ctx part exempt false (va + dw i) with
    | .ok (.aperture _) => .error 0x07
    | .ok loc => if homeEcc s loc 1 then .error 0x14 else .ok (l ++ homeRead s loc 1)
    | .trap c => .error c
    | .page => .error 0x06) []

/-- 64-bit words an engine reads. -/
def engQuads (s : State) (ctx part : Nat) (exempt : Bool) (va : DWord) (n : Nat) : Except Nat (List DWord) :=
  (engRead s ctx part exempt va (8 * n)).map (quadsOfBytes n)

/-- Where an engine's write lands, byte by byte, or the cause it meets: a guard takes nothing. -/
def engTargets (s : State) (ctx part : Nat) (exempt : Bool) (va : DWord) (n : Nat) : Except Nat (List Loc) :=
  (List.range n).foldlM (fun ls i =>
    match locate s ctx part exempt true (va + dw i) with
    | .ok (.aperture _) => .error 0x07
    | .ok l => if l.isCodec && homeEcc s l 1 then .error 0x14 else .ok (ls ++ [l])
    | .trap c => .error c
    | .page => .error 0x06) []

/-- The cause an engine's write of `n` bytes would meet whatever they are, if any. -/
def engCheck (s : State) (ctx part : Nat) (exempt : Bool) (va : DWord) (n : Nat) : Option Nat :=
  match engTargets s ctx part exempt va n with
  | .ok _ => none
  | .error c => some c

/-- A writer that the race detector does not check: what it writes has no last writer (R244). -/
def Agent.unchecked : Agent :=
  { uid := 0, word := 0, ctx := 0, part := 0, core := 320, slot := 0, race := false, acq := 0 }

/-- Bytes an engine writes, whole or not at all, at the home; the L1 copies of other agents stay (R208). A value that is
not finite in a codec page is CODEC (R258). -/
def engPut (s : State) (ctx part : Nat) (exempt : Bool) (va : DWord) (bs : List Byte) : Except Nat State :=
  match engTargets s ctx part exempt va bs.length with
  | .error c => .error c
  | .ok ls =>
    let t := (ls.zip bs).foldl (fun s lb => homeWrite s lb.1 [lb.2]) s
    if ls.all (fun l => codecFinite t l 1) then .ok (ls.foldl (fun s l => noteAccess s Agent.unchecked l true) t)
    else .error 0x0B

/-- `engPut`, or nothing where it meets a cause. -/
def engWrite (s : State) (ctx part : Nat) (exempt : Bool) (va : DWord) (bs : List Byte) : State :=
  match engPut s ctx part exempt va bs with
  | .ok t => t
  | .error _ => s

/-- The first guard byte a range touches (R206). -/
def engGuard (s : State) (ctx part : Nat) (va : DWord) (n : Nat) : Option DWord :=
  (List.range n).findSome? (fun i =>
    match locate s ctx part true true (va + dw i) with
    | .ok .guard => some (va + dw i)
    | _ => none)

/-- Reads of one byte at a virtual address as the focus wave's memory stands: what a load by an
agent of a context and core would return, without its effects. -/
def viewByte (s : State) (ctx part core : Nat) (va : DWord) : Byte :=
  match locate s ctx part true false va with
  | .ok (.vault k) => memByte s.mem k
  | .ok loc =>
    match SMap.get? (coreOf s core).l1 (lineKey ctx va) with
    | some l =>
      if l.valid.getLsbD (va.toNat % 64) then l.data.extractLsb' (8 * (va.toNat % 64)) 8
      else (homeRead s loc 1).getD 0 0
    | none => (homeRead s loc 1).getD 0 0
  | _ => 0

end Sys2Proof.Machine
end

