-- ==== Sys2Proof/Machine/Front.lean ====
section
/-! DEFINITION. Agents' names (Table 06-6), the ring descriptor of an endpoint (Table 22-1), fault
records (R379) and completion records (R377). -/

namespace Sys2Proof.Machine

/-- A FAGENT word (Table 06-6). -/
def agentWord (kind die unit id : Nat) : DWord := dw (id * 2 ^ 32 + unit % 256 * 2 ^ 24 + die % 4096 * 2 ^ 12 + kind)

/-- A wave's scheduler slot as a number 0 to 63 (R104). -/
def Wave.slotNo (w : Wave) : Nat := w.sys.slot.toNat

/-- The FAGENT word of a wave. -/
def Wave.word (w : Wave) : DWord := agentWord 1 w.sys.dieid.toNat w.sys.core.toNat w.slotNo

/-- A wave as an agent, checked by the race detector when `race` (R244). -/
def Wave.agent (w : Wave) (race : Bool) : Agent :=
  { uid := w.id, word := w.word, ctx := w.ctx, part := w.part, core := w.sys.core.toNat,
    slot := w.sys.slot, race := race, acq := w.acq }

/-- A wave by id, in focus or not. -/
def waveOf (s : State) (id : Nat) : Option Wave :=
  if s.w.id = id then some s.w else SMap.get? s.waves id

/-- Every wave the machine holds, the focus wave first. -/
def allWaves (s : State) : List Wave := s.w :: SMap.vals s.waves

/-- Whether a wave holds a place: rows, a slot and tiles. -/
def Wave.placed (w : Wave) : Bool := w.status ≠ .retired && w.status ≠ .saved

/-- The focus moved to another wave (the wave in focus goes back among the others; a retired one
is dropped, but for its id). -/
def focusOn (s : State) (id : Nat) : State :=
  if s.w.id = id then s
  else match SMap.get? s.waves id with
    | none => s
    | some w =>
      let others := SMap.del s.waves id
      { s with w := w, waves := if s.w.status = .retired then others else SMap.put others s.w.id s.w }

/-! ### The ring descriptor (Table 22-1, R374) -/

/-- The physical address of an endpoint's page; 0xFFFF is the fabric manager's. -/
def pageOf (s : State) (ctx : Nat) : Nat :=
  s.chip.toNat * 2 ^ 48 + 0xFF0000000000 + (if ctx = 0xFFFF then 0x180000 else 0x1000 * ctx)

/-- A field of the descriptor: byte offset and width in bytes. -/
def descRead (s : State) (ctx off n : Nat) : Nat := memNat s.mem (pageOf s ctx + off) n

/-- A field of the descriptor written. -/
def descWrite (s : State) (ctx off n x : Nat) : State :=
  { s with mem := memPutNat s.mem (pageOf s ctx + off) n x }

/-- RBASE. -/
def rbase (s : State) (ctx : Nat) : Nat := descRead s ctx 0 8
/-- CBASE. -/
def cbase (s : State) (ctx : Nat) : Nat := descRead s ctx 8 8
/-- LRSIZE. -/
def lrsize (s : State) (ctx : Nat) : Nat := descRead s ctx 16 1 % 32
/-- LCSIZE. -/
def lcsize (s : State) (ctx : Nat) : Nat := descRead s ctx 17 1 % 32
/-- HEAD. -/
def headOf (s : State) (ctx : Nat) : Nat := descRead s ctx 20 4
/-- CTAIL. -/
def ctail (s : State) (ctx : Nat) : Nat := descRead s ctx 24 4
/-- CHEAD. -/
def chead (s : State) (ctx : Nat) : Nat := descRead s ctx 28 4
/-- FBASE. -/
def fbase (s : State) (ctx : Nat) : Nat := descRead s ctx 32 8
/-- LFSIZE. -/
def lfsize (s : State) (ctx : Nat) : Nat := descRead s ctx 40 1 % 32
/-- FTAIL. -/
def ftail (s : State) (ctx : Nat) : Nat := descRead s ctx 48 4
/-- FHEAD. -/
def fhead (s : State) (ctx : Nat) : Nat := descRead s ctx 52 4

/-! ### Fault records (R379) -/

/-- What a fault record says; `core` is the core of an agent that Table 06-6 does not name. -/
structure FRec where
  code : Nat
  imp : Bool
  await : Bool
  task : Option Nat
  faddr : DWord
  fagent : DWord
  access : Nat
  agent : DWord
  core : Option Nat := none
  deriving DecidableEq, Repr

/-- The eight quadwords of a fault record with an ID. -/
def FRec.quads (r : FRec) (die id : Nat) : List DWord :=
  let kind := bits r.agent 3 0
  let unit := bits r.agent 31 24
  let cluster :=
    if kind = 1 || kind = 4 then unit / 4 else if kind = 2 || kind = 3 || kind = 8 then unit else r.core.getD 0 / 4
  let core := if kind = 1 || kind = 4 then unit else r.core.getD 0
  [dw (r.code + (if r.imp then 2 ^ 8 else 0) + (if r.await then 2 ^ 9 else 0) +
       r.task.getD 0xFFFF % 65536 * 2 ^ 16 + die * 2 ^ 32 + cluster % 64 * 2 ^ 44 + core % 256 * 2 ^ 50),
   r.faddr, r.fagent, dw r.access, dw id, r.agent, 0, 0]

/-- Whether a fault ring has room; a ring not yet described has none. -/
def faultRoom (s : State) (ctx : Nat) : Bool :=
  decide (4 ≤ lfsize s ctx) && decide (diff32 (ftail s ctx) (fhead s ctx) < 2 ^ lfsize s ctx)

/-- Held records written to the fault ring while it has room. -/
def drainFaults (s : State) (ctx : Nat) : Nat → State
  | 0 => s
  | fuel + 1 =>
    match (ctxOf s ctx).held with
    | [] => s
    | q :: rest =>
      if !faultRoom s ctx then s
      else
        let t := ftail s ctx
        let s := { s with mem := memPut s.mem (fbase s ctx + 64 * (t % 2 ^ lfsize s ctx)) (bytesOfQuads q) }
        let s := descWrite s ctx 48 4 ((t + 1) % 2 ^ 32)
        drainFaults (modCtx s ctx (fun c => { c with held := rest })) ctx fuel

/-- A record posted to a context's fault ring, or held until it has room (R379). -/
def postQuads (s : State) (ctx : Nat) (q : List DWord) : State :=
  let s := modCtx s ctx (fun c => { c with held := c.held ++ [q] })
  drainFaults s ctx ((ctxOf s ctx).held.length + 1)

/-- A fault record posted: the state and the record's ID. -/
def postFault (s : State) (ctx : Nat) (r : FRec) : State × Nat :=
  let id := (ctxOf s ctx).nextFault
  let s := modCtx s ctx (fun c => { c with nextFault := id + 1 })
  (postQuads s ctx (r.quads s.dieid.toNat id), id)

/-- A fault record that awaits an answer posted (R215, R379): the state and the record's ID. -/
def postAwait (s : State) (ctx : Nat) (r : FRec) : State × Nat :=
  let (s, id) := postFault s ctx { r with await := true }
  (modCtx s ctx (fun c => { c with awaits := SMap.put c.awaits id r.faddr }), id)

/-! ### Completion (R377) -/

/-- A command of a context completes: its record waits for its turn in the order of completion. -/
def completeCmd (s : State) (ctx n : Nat) (status : Nat) (value : BitVec 128) : State :=
  match SMap.get? (ctxOf s ctx).cmds n with
  | none => s
  | some c =>
    if c.done then s
    else modCtx s ctx (fun x =>
      { x with cmds := SMap.put x.cmds n { c with done := true, status := BitVec.ofNat 16 status, value := value }
               doneQ := x.doneQ ++ [n] })

/-- The completion record of a command (Table 22-4), lowest byte first. -/
def completionBytes (c : Cmd) : List Byte :=
  bytesOf 8 c.seq.toNat ++ bytesOf 2 c.opc.toNat ++ bytesOf 2 c.status.toNat ++ bytesOf 4 c.off.toNat ++
    bytesOf 16 c.value.toNat

/-- Whether the completion ring has room (R377). -/
def completionRoom (s : State) (ctx : Nat) : Bool :=
  decide (4 ≤ lcsize s ctx) && decide (diff32 (ctail s ctx) (chead s ctx) < 2 ^ lcsize s ctx)

/-- The oldest completed command's record posted, when the ring has room. -/
def postCompletion (s : State) (ctx : Nat) : State :=
  match (ctxOf s ctx).doneQ with
  | [] => s
  | n :: rest =>
    match SMap.get? (ctxOf s ctx).cmds n with
    | none => modCtx s ctx (fun c => { c with doneQ := rest })
    | some c =>
      if !completionRoom s ctx then s
      else
        let t := ctail s ctx
        let s := { s with mem := memPut s.mem (cbase s ctx + 32 * (t % 2 ^ lcsize s ctx)) (completionBytes c) }
        let s := descWrite s ctx 24 4 ((t + 1) % 2 ^ 32)
        modCtx s ctx (fun x => { x with doneQ := rest, cmds := SMap.del x.cmds n })

end Sys2Proof.Machine
end

