-- ==== Sys2Proof/Machine/Table.lean ====
section
/-! DEFINITION. Operand records as reservations (R180 to R184), scratchpad allocations (R205),
incumbents (R338 to R344) and the task table (R301 to R309). -/

namespace Sys2Proof.Machine

/-! ### Engines and records -/

/-- A cluster's matrix engine. -/
def engineOf (s : State) (e : Nat) : Engine := SMap.getD s.engines e Engine.zero

/-- The state with an engine changed. -/
def modEngine (s : State) (e : Nat) (f : Engine → Engine) : State :=
  { s with engines := SMap.put s.engines e (f (engineOf s e)) }

/-- The records an operation names. -/
def MOp.records (o : MOp) : List Nat :=
  match o.kind with
  | .mma a b .. => a :: b.toList
  | .mmas a b _ _ _ _ _ _ bm => a :: bm :: b.toList
  | .osto r _ => [r]
  | .olod r .. => [r]
  | _ => []

/-- Accepted, unfinished operations of an engine, the running one first. -/
def Engine.ops (e : Engine) : List MOp := (e.run.map (·.op)).toList ++ e.susp.map (·.op) ++ e.queue

/-- Granules not reserved (R180). -/
def Engine.freeGran (e : Engine) : Nat :=
  Config.granules - (SMap.vals e.recs).foldl (fun n r => n + r.gran) 0

/-- Whether two task entries share a split task's holdings, or are one (R314). -/
def sameShare (p : Part) (e f : Nat) : Bool :=
  e = f || (match SMap.get? p.tasks e, SMap.get? p.tasks f with
    | some t, some u => t.shares.isSome && t.shares == u.shares
    | _, _ => false)

/-- Whether a wave holds a record: as its holder, or by its task, which shares it (R181, R310, R314). -/
def Rec.heldBy (s : State) (w : Wave) (r : Rec) : Bool :=
  r.holder = some w.id ||
  (match w.task, r.task with
    | some e, some f => sameShare (partOf s w.part) e f
    | _, _ => false)

/-- The records a matrix instruction names (Table 10-5). -/
def recordsOf : Instr → List Nat
  | .mma x => x.ra.toNat :: (match x.b with | .record b => [b.toNat] | .slice _ => [])
  | .mmas x orm => x.ra.toNat :: orm.toNat :: (match x.b with | .record b => [b.toNat] | .slice _ => [])
  | .osto x | .olod x => [x.o.toNat]
  | _ => []

/-- Whether a matrix instruction of a wave numbered below `n` names record `o` and has not issued. -/
def recordQueued (l : LaneStream) (o n : Nat) : Bool :=
  (l.issue :: l.q).any (fun e => decide (l.seq ≤ e.num) && decide (e.num < n) && (recordsOf e.i).contains o)

/-- Whether a pending release may take effect: every matrix instruction that the holder enqueued before the
OREL and that names the record has finished (R182). -/
def releasable (s : State) (e : Engine) (o : Nat) (r : Rec) : Bool :=
  match r.relp with
  | none => false
  | some n =>
    let holder := r.holder.getD 0
    !(match r.holder.bind (waveOf s) with | some w => recordQueued w.lane o n | none => false) &&
    !(e.ops.any (fun x => x.wave = holder && decide (x.num < n) && x.records.contains o))

/-- The releases of an engine that may take effect, made. -/
def settleRecords (s : State) (e : Nat) : State :=
  let en := engineOf s e
  if en.recs.any (fun or => releasable s en or.1 or.2) then
    modEngine s e (fun x => { x with recs := x.recs.filter (fun or => !releasable s en or.1 or.2) })
  else s

/-- Every record a wave holds marked for release, and released where it may be (R182). -/
def releaseRecords (s : State) (e wave : Nat) : State :=
  if (engineOf s e).recs.any (fun or => or.2.holder = some wave) then
    settleRecords (modEngine s e (fun x =>
      { x with recs := x.recs.map (fun or =>
          if or.2.holder = some wave then (or.1, { or.2 with relp := some 0 }) else or) })) e
  else s

/-! ### Scratchpad (R205) -/

/-- Where a vault's scratchpad begins (R11). -/
def scratchBase (p : Part) : Nat := Config.vaultShared + (p.p + p.t) * 2 ^ 20

/-- The footprints in a vault: start and end. -/
def footprints (p : Part) (j : Nat) : List (Nat × Nat) :=
  ((SMap.vals p.allocs).filter (fun a => a.vault = j)).map (fun a => (a.start - 256, a.start + a.size + 256))

/-- Bytes of a vault's scratchpad in no footprint. -/
def scratchFree (p : Part) (j : Nat) : Nat :=
  Config.vaultBytes - scratchBase p - (footprints p j).foldl (fun n f => n + (f.2 - f.1)) 0

/-- The lowest start of a free range of `n` bytes in a vault. -/
def scratchRange (p : Part) (j n : Nat) : Option Nat :=
  let fs := footprints p j
  let ok (b : Nat) : Bool :=
    decide (b + n ≤ Config.vaultBytes) && fs.all (fun f => decide (b + n ≤ f.1) || decide (f.2 ≤ b))
  let cands := (scratchBase p :: fs.map (·.2)).filter ok
  cands.foldl (fun m c => match m with | none => some c | some x => some (Nat.min x c)) none

/-- An element put before the first that it is not after. -/
def insertBy {α : Type} (le : α → α → Bool) (x : α) : List α → List α
  | [] => [x]
  | y :: l => if le x y then x :: y :: l else y :: insertBy le x l

/-- A list in order; equals keep theirs. -/
def sortBy {α : Type} (le : α → α → Bool) (l : List α) : List α := l.foldr (insertBy le) []

/-- The vaults in descending order of free scratchpad, lowest index first on a tie. -/
def scratchOrder (p : Part) : List Nat :=
  sortBy (fun i j => decide (scratchFree p j ≤ scratchFree p i)) (List.range p.clusters.length)

/-- Usable bytes for a need of `n` bytes. -/
def scratchSize (n : Nat) : Nat := 256 * ((n + 255) / 256)

/-- Whether a need is more than an idle vault's scratchpad (R205, R310). -/
def scratchTooBig (p : Part) (n : Nat) : Bool :=
  decide (n ≠ 0) && decide (Config.vaultBytes - scratchBase p < scratchSize n + 512)

/-- An allocation of `n` bytes for a context, when some vault has a range: the state with it, its
number, and the base written into the argument block. Where the block cannot be written nothing is, and nothing is
reported (log 89). -/
def allocScratch (s : State) (part ctx n : Nat) (argb : DWord) : Option (State × Nat) :=
  let p := partOf s part
  let size := scratchSize n
  match (scratchOrder p).findSome? (fun j => (scratchRange p j (size + 512)).map (fun b => (j, b))) with
  | none => none
  | some (j, b) =>
    let id := p.nextAlloc
    let a : Alloc := { ctx := ctx, vault := j, start := b + 256, size := size, users := 1, copies := 0, qcws := [] }
    let s := modPart s part (fun p => { p with allocs := SMap.put p.allocs id a, nextAlloc := id + 1 })
    some (engWrite s ctx part true argb (bytesOf 8 (vaultVa j (b + 256)).toNat), id)

/-- An allocation changed, and freed when no wave or task uses it and no copy writes it (R36). -/
def modAlloc (s : State) (part id : Nat) (f : Alloc → Alloc) : State :=
  modPart s part (fun p =>
    match SMap.get? p.allocs id with
    | none => p
    | some a =>
      let a := f a
      { p with allocs := if a.users = 0 && a.copies = 0 then SMap.del p.allocs id else SMap.put p.allocs id a })

/-- One user less of an allocation. -/
def dropAlloc (s : State) (part : Nat) (id : Option Nat) : State :=
  match id with
  | none => s
  | some i => modAlloc s part i (fun a => { a with users := a.users - 1 })

/-! ### Incumbents (R339 to R343) -/

/-- The reset value of an incumbent (Table 19-2). -/
def Inc.reset (ty : Bool) : Inc := { ty := ty, tag := 0, value := 0x7FFFFFFF }

/-- Ord of R340. -/
def incOrd (ty : Bool) (x : Word) : Nat :=
  if ty then (if x.getLsbD 31 then (~~~ x).toNat else (x ||| 0x80000000).toNat)
  else (x ^^^ 0x80000000).toNat

/-- Better of R340. -/
def incBetter (ty : Bool) (v w : Word) : Bool := decide (incOrd ty v < incOrd ty w)

/-- The Meridian's incumbent. -/
def incOf (p : Part) (i : Nat) : Inc := SMap.getD p.inc i (Inc.reset false)

/-- The Orrery's copy. -/
def incOrreryOf (p : Part) (i : Nat) : Inc := SMap.getD p.incOrrery i (Inc.reset false)

/-- A core's copy. -/
def incCoreOf (p : Part) (core i : Nat) : Inc := SMap.getD p.incCore (core * 8 + i) (Inc.reset false)

/-- Prunable of R341: key, its type, and the mode, against a copy. -/
def prunable (key : Word) (ktype mode : Bool) (w : Inc) : Bool :=
  ktype == w.ty &&
  (if mode then decide (incOrd w.ty w.value < incOrd w.ty key) else decide (incOrd w.ty w.value ≤ incOrd w.ty key))

/-! ### The task record (Table 17-2) -/

namespace TaskRec
/-- A quadword of the record. -/
def q (r : List DWord) (i : Nat) : DWord := r.getD i 0
/-- ENTRY. -/
def entry (r : List DWord) : DWord := q r 0
/-- ARGB. -/
def argb (r : List DWord) : DWord := q r 1
/-- INPUTS. -/
def inputs (r : List DWord) : DWord := q r 2
/-- ARG. -/
def arg (r : List DWord) : DWord := q r 3
/-- LO. -/
def lo (r : List DWord) : Nat := bits (q r 4) 31 0
/-- HI. -/
def hi (r : List DWord) : Nat := bits (q r 4) 63 32
/-- KEY. -/
def key (r : List DWord) : Word := (q r 5).extractLsb' 0 32
/-- INC. -/
def inc (r : List DWord) : Nat := bits (q r 5) 34 32
/-- MODE. -/
def mode (r : List DWord) : Bool := (q r 5).getLsbD 35
/-- KTYPE. -/
def ktype (r : List DWord) : Bool := (q r 5).getLsbD 36
/-- BBK. -/
def bbk (r : List DWord) : Bool := (q r 5).getLsbD 37
/-- SCRATCH. -/
def scratch (r : List DWord) : Nat := bits (q r 6) 31 0
/-- DEPS. -/
def deps (r : List DWord) : Nat := bits (q r 6) 47 32
/-- NIN. -/
def nin (r : List DWord) : Nat := bits (q r 6) 51 48
/-- PRIO. -/
def prio (r : List DWord) : Nat := bits (q r 6) 54 52
/-- KIND. -/
def kind (r : List DWord) : Nat := bits (q r 6) 57 55
/-- LANES. -/
def lanes (r : List DWord) : Nat := bits (q r 6) 62 58

/-- Whether a record is invalid (R303). -/
def invalid (r : List DWord) : Bool :=
  q r 7 != 0 || !zeroBits (q r 6) 63 63 || !zeroBits (q r 5) 63 38 ||
  decide (4 ≤ kind r) || decide (9 ≤ nin r) ||
  (kind r == 3 && lanes r != 0) ||
  (kind r != 2 && (key r != 0 || !zeroBits (q r 5) 37 32)) ||
  (kind r == 1 && decide (hi r < lo r)) ||
  (kind r == 3 && (lo r == 0 || hi r == 0 || decide (64 < hi r))) ||
  decide (16776704 < scratch r) ||
  (scratch r != 0 && (argb r == 0 || !zeroBits (argb r) 2 0)) ||
  (nin r != 0 && !zeroBits (inputs r) 2 0)
end TaskRec

/-- Whether a task is prunable against a copy of its incumbent; no task but a bound one is. -/
def Task.prunable (t : Task) (w : Inc) : Bool :=
  TaskRec.kind t.r == 2 &&
  Machine.prunable (TaskRec.key t.r) (TaskRec.ktype t.r) (TaskRec.mode t.r) w

/-- The lowest-numbered Free entry of a partition's table (R306). -/
def freeEntry (p : Part) : Option Nat := SMap.freeFrom p.tasks 0 Config.taskEntries

/-- A record put into an entry in state Admitting, by a submitter with an Acq, its detector on or off,
whose release took number `n`. -/
def submitTask (s : State) (part ctx acq n : Nat) (race : Bool) (tmpl : DWord) (r : List DWord) (e : Nat) : State :=
  modPart s part (fun p =>
    { p with
      seq := p.seq + 1
      tasks := SMap.put p.tasks e
        { st := .admitting, r := r, ctx := ctx, tmpl := tmpl, acq := n, jacq := acq, race := race,
          count := TaskRec.deps r, cur := TaskRec.lo r, hi := TaskRec.hi r, seq := p.seq,
          home := none, alloc := none, recs := [], jobs := 0, core := none, since := 0, wave := none,
          launch := none, shares := none, killed := false } })

/-- An entry changed. -/
def modTask (s : State) (part e : Nat) (f : Task → Task) : State :=
  modPart s part (fun p => { p with tasks := SMap.adjust p.tasks e f })

/-- An entry becomes Ready, behind the entries that are (R311). -/
def readyTask (s : State) (part e : Nat) : State :=
  modPart s part (fun p =>
    { p with seq := p.seq + 1, tasks := SMap.adjust p.tasks e (fun t => { t with st := .ready, seq := p.seq }) })

/-- A dependence signal or completion to an entry, or its discard (R304). The task takes up the
signaller's publication `n`. -/
def signalTask (s : State) (part e n : Nat) : State :=
  match SMap.get? (partOf s part).tasks e with
  | none => s
  | some t =>
    if t.st = .running || t.st = .cancelling || t.count = 0 then s
    else
      let s := modTask s part e (fun t => { t with count := t.count - 1, acq := Nat.max t.acq n })
      if t.count = 1 && t.st = .waiting then readyTask s part e else s

/-- An entry taken out of the deque that holds it; the idle count of that core starts again (R319). -/
def undeque (s : State) (part e : Nat) : State :=
  match (partOf s part).deques.find? (fun kd => kd.2.contains e) with
  | none => s
  | some (core, l) =>
    let s := modPart s part (fun p => { p with deques := SMap.write [] p.deques core (l.filter (fun x => x ≠ e)) })
    modCore s core (fun c => { c with idleSince := s.clock })

/-- Another entry that shares a task's holdings (R314). -/
def heirOf (p : Part) (e : Nat) : Option (Nat × Task) := p.tasks.find? (fun kt => kt.1 ≠ e && sameShare p e kt.1)

/-- Records reserved for an entry that others share pass to one of them, and to its wave (R314). -/
def passShared (s : State) (part e : Nat) : State :=
  let p := partOf s part
  match (SMap.get? p.tasks e).bind (fun t => (heirOf p e).map (fun h => (t, h))) with
  | none => s
  | some (t, h, u) =>
    t.recs.foldl (fun s er => modEngine s er.1 (fun en =>
      { en with recs := SMap.adjust en.recs er.2 (fun r =>
          if r.task = some e then { r with holder := u.wave, task := some h } else r) })) s

/-- An entry becomes Free: its allocation loses a user, and its records are released unless
another task shares them (R309, R314). -/
def freeTask (s : State) (part e : Nat) : State :=
  match SMap.get? (partOf s part).tasks e with
  | none => s
  | some t =>
    let s := passShared s part e
    let s := undeque (modPart s part (fun p =>
      { p with
        tasks := SMap.del p.tasks e
        -- a frame this entry gates loses its gate term for good (R324)
        frames := p.frames.map (fun kf =>
          (kf.1, { kf.2 with gate := kf.2.gate && !(bits (kf.2.d.getD 10 0) 15 0 == e) })) })) part e
    t.recs.foldl (fun s er =>
      modEngine s er.1 (fun en => { en with recs := en.recs.filter (fun or => !(or.1 = er.2 && or.2.task = some e)) }))
      (dropAlloc s part t.alloc)

/-- An entry removed before it runs: Cancelling while its jobs are in flight, then Free (R304,
R309). -/
def removeTask (s : State) (part e : Nat) : State :=
  match SMap.get? (partOf s part).tasks e with
  | none => s
  | some t =>
    if t.jobs = 0 then freeTask s part e
    else undeque (modTask s part e (fun t => { t with st := .cancelling, core := none })) part e

/-- A bound entry pruned while queued (R344). -/
def pruneTask (s : State) (part e : Nat) : State :=
  removeTask (modPart s part (fun p => { p with killq := p.killq + 1 })) part e

/-- TCANCEL's effect on an entry (R309). -/
def cancelEntry (s : State) (part e : Nat) : State :=
  match SMap.get? (partOf s part).tasks e with
  | none => s
  | some t => if t.st = .running || t.st = .cancelling then s else removeTask s part e

/-- One job of an entry's admission completes: a completion signal, and the end of Cancelling. -/
def jobDone (s : State) (part e n : Nat) : State :=
  let s := signalTask s part e n
  let s := modTask s part e (fun t => { t with jobs := t.jobs - 1 })
  match SMap.get? (partOf s part).tasks e with
  | some t => if t.st = .cancelling && t.jobs = 0 then freeTask s part e else s
  | none => s

/-- A core's deque. -/
def dequeOf (p : Part) (core : Nat) : List Nat := SMap.getD p.deques core []

/-- A core's deque written (bottom last); an empty one is no entry. -/
def setDeque (s : State) (part core : Nat) (l : List Nat) : State :=
  modPart s part (fun p => { p with deques := SMap.write [] p.deques core l })

/-- The cores of a partition in ascending number (R313). -/
def coresOf (p : Part) : List Nat := p.clusters.flatMap (fun c => [4 * c, 4 * c + 1, 4 * c + 2, 4 * c + 3])

/-! ### Copy channels -/

/-- A channel's queue: cluster and channel number. -/
def channelOf (s : State) (c n : Nat) : List Job := SMap.getD s.channels (16 * c + n) []

/-- A channel's queue written. -/
def setChannel (s : State) (c n : Nat) (l : List Job) : State :=
  { s with channels := SMap.write [] s.channels (16 * c + n) l }

/-- Jobs queued on a cluster's copy engine. -/
def jobsOn (s : State) (c : Nat) : Nat := (List.range 16).foldl (fun n k => n + (channelOf s c k).length) 0

/-- A fresh identity for an agent. -/
def freshId (s : State) : State × Nat := ({ s with nextWave := s.nextWave + 1 }, s.nextWave)

/-- Imprecise causes become pending for a wave: the first of each code is kept (R206, R352). -/
def makePending (s : State) (wave code : Nat) (p : Pend) : State :=
  modWave s wave (fun w =>
    if (SMap.get? w.pend code).isSome then w else { w with pend := SMap.put w.pend code p })

end Sys2Proof.Machine
end

