-- ==== Sys2Proof/Machine/Pool.lean ====
section
/-! DEFINITION. The ray pool (18): records, frames, bins, and the movements of rays that the
retirement of an episode needs (R321 to R336). -/

namespace Sys2Proof.Machine

/-! ### The ray record (Table 18-2) and the frame descriptor (Table 18-3) -/

namespace Ray
/-- Word k of a record. -/
def word (r : Ray) (k : Nat) : Word := SMap.getD r.words k 0
/-- FRAME. -/
def frame (r : Ray) : Nat := bits (r.word 11) 15 0
/-- SHADER. -/
def shader (r : Ray) : Nat := bits (r.word 11) 31 16
/-- DEPTH. -/
def depth (r : Ray) : Nat := bits (r.word 9) 23 16
/-- ANY. -/
def any (r : Ray) : Bool := (r.word 9).getLsbD 25
/-- CULLB. -/
def cullb (r : Ray) : Bool := (r.word 9).getLsbD 26
/-- A record with a word written. -/
def put (r : Ray) (k : Nat) (x : Word) : Ray := { r with words := SMap.write 0 r.words k x }
/-- A record with FRAME, DEPTH set and every hit field and SHADER 0 (R332, R334). -/
def fresh (r : Ray) (fr dp : Nat) : Ray :=
  let w9 := (r.word 9).extractLsb' 25 7 ++ (0 : BitVec 1) ++ BitVec.ofNat 8 dp ++ (r.word 9).extractLsb' 0 16
  let w11 := (0 : BitVec 16) ++ BitVec.ofNat 16 fr
  ((((((r.put 9 w9).put 11 w11).put 12 0).put 13 0).put 14 0).put 15 0)
end Ray

namespace FrameEnt
/-- A quadword of the descriptor. -/
def q (f : FrameEnt) (i : Nat) : DWord := f.d.getD i 0
/-- ARGB. -/
def argb (f : FrameEnt) : DWord := f.q 4
/-- ACCBASE. -/
def accBase (f : FrameEnt) : DWord := f.q 3
/-- PIXELS. -/
def pixels (f : FrameEnt) : Nat := bits (f.q 6) 63 32
/-- SPILLN. -/
def spillN (f : FrameEnt) : Nat := bits (f.q 6) 31 0
/-- CELL. -/
def cell (f : FrameEnt) : Nat := bits (f.q 7) 63 32
/-- ROOT. -/
def root (f : FrameEnt) : Word := (f.q 7).extractLsb' 0 32
/-- SCENEMIN, axis k. -/
def sceneMin (f : FrameEnt) (k : Nat) : Nat :=
  match k with | 0 => bits (f.q 8) 31 0 | 1 => bits (f.q 8) 63 32 | _ => bits (f.q 9) 31 0
/-- MISS. -/
def miss (f : FrameEnt) : Nat := bits (f.q 9) 63 48
/-- GATE. -/
def gateTask (f : FrameEnt) : Nat := bits (f.q 10) 15 0
/-- SIGTASK. -/
def sigTask (f : FrameEnt) : Nat := bits (f.q 10) 31 16
/-- PRIO. -/
def prio (f : FrameEnt) : Nat := bits (f.q 10) 34 32
/-- FLUSH. -/
def flush (f : FrameEnt) : Bool := (f.q 10).getLsbD 35
/-- SIGEN. -/
def sigen (f : FrameEnt) : Bool := (f.q 10).getLsbD 36
end FrameEnt

/-- A frame-table entry changed, if it is open. -/
def modFrame (s : State) (part fr : Nat) (f : FrameEnt → FrameEnt) : State :=
  modPart s part (fun p => { p with frames := SMap.adjust p.frames fr f })

/-! ### Slots -/

/-- The pool's slots: P MiB of each vault, 128 bytes each. -/
def poolSlots (p : Part) : Nat := p.clusters.length * (8192 * p.p)

/-- Hops between two clusters (R14). -/
def hops (a b : Nat) : Nat :=
  let d (x y : Nat) : Nat := if x < y then y - x else x - y
  d (a / 8) (b / 8) + d (a % 8) (b % 8)

/-- Free slots of the pool. -/
def freeSlots (p : Part) : Nat := poolSlots p - p.rays.length

/-- A free slot, in the cluster's own vault or the nearest (R332). -/
def takeSlot (p : Part) (cluster : Nat) : Option Nat :=
  let order := sortBy (fun i j => decide (hops cluster (p.clusters.getD i 0) ≤ hops cluster (p.clusters.getD j 0)))
    (List.range p.clusters.length)
  order.findSome? (fun j => SMap.freeFrom p.rays (j * (8192 * p.p)) (8192 * p.p))

/-- A slot set aside, holding no ray. -/
def Ray.placeholder (ctx : Nat) : Ray := { words := [], loc := .reserved, since := 0, seq := 0, pub := 0, ctx := ctx }

/-! ### Bins (R328) -/

/-- The overflow bin of traversal keys, and that of shader keys. -/
def overflowBin (shade : Bool) : Nat := if shade then 4097 else 4096

/-- The rays of a bin, oldest first, with their slots. -/
def raysIn (p : Part) (b : Nat) : List (Nat × Ray) :=
  sortBy (fun x y => decide (x.2.seq ≤ y.2.seq)) (p.rays.filter (fun sr => sr.2.loc = .bin b))

/-- The bin for a key: its entry, a free one, the least recently used empty one, or the overflow
bin. -/
def binFor (p : Part) (shade : Bool) (key : Nat) : Nat :=
  match p.bins.find? (fun kb => kb.1 < 4096 && kb.2.shade = shade && kb.2.key = key) with
  | some kb => kb.1
  | none =>
    match SMap.freeFrom p.bins 0 4096 with
    | some b => b
    | none =>
      let empty := p.bins.filter (fun kb => kb.1 < 4096 && !(p.rays.any (fun sr => sr.2.loc = .bin kb.1)))
      match sortBy (fun x y => decide (x.2.used ≤ y.2.used)) empty with
      | kb :: _ => kb.1
      | [] => overflowBin shade

/-- The integer below a value, kept within 0 to `hi`; NaN gives 0. -/
def floorClamp (hi : Nat) : FVal → Nat
  | .nan => 0
  | .inf neg => if neg then 0 else hi
  | .fin neg m e => if neg then 0 else Nat.min hi (roundQ .rtz false m e 0 false).1

/-- FP32 sum of codes. -/
def f32Add (a b : Nat) : Nat := (fpAdd .f32 .rne (FFmt.dec .f32 a) (FFmt.dec .f32 b)).code
/-- FP32 difference of codes. -/
def f32Sub (a b : Nat) : Nat := (fpAdd .f32 .rne (FFmt.dec .f32 a) (FFmt.dec .f32 b).neg).code
/-- FP32 product of codes. -/
def f32Mul (a b : Nat) : Nat := (fpMul .f32 .rne (FFmt.dec .f32 a) (FFmt.dec .f32 b)).code
/-- FP32 quotient of codes. -/
def f32Div (a b : Nat) : Nat := (fpDiv .f32 .rne (FFmt.dec .f32 a) (FFmt.dec .f32 b)).code
/-- FP32 magnitude of a code. -/
def f32Abs (a : Nat) : Nat := a % 2 ^ 31
/-- Whether a code's sign bit is 1. -/
def f32Neg (a : Nat) : Bool := a / 2 ^ 31 % 2 == 1
/-- Whether a code is finite. -/
def f32Finite (a : Nat) : Bool := a / 2 ^ 23 % 256 != 255

/-- The origin cell (R328). -/
def originCell (f : FrameEnt) (r : Ray) : Nat :=
  let c (k : Nat) : Nat := floorClamp 63 (FFmt.dec .f32 (f32Div (f32Sub (r.word k).toNat (f.sceneMin k)) f.cell))
  c 0 + 64 * c 1 + 4096 * c 2

/-- The direction cell (R328). -/
def directionCell (r : Ray) : Nat :=
  let x := (r.word 3).toNat
  let y := (r.word 4).toNat
  let z := (r.word 5).toNat
  if (f32Abs x = 0 && f32Abs y = 0 && f32Abs z = 0) || !(f32Finite x && f32Finite y && f32Finite z) then 0
  else
    let one := 0x3F800000
    let l := f32Add (f32Add (f32Abs x) (f32Abs y)) (f32Abs z)
    let nx := f32Div x l
    let ny := f32Div y l
    let nz := f32Div z l
    let sgn (a : Nat) : Nat := if f32Neg a && f32Abs a != 0 then 0xBF800000 else one
    let up := !f32Neg nz || f32Abs nz = 0
    let u := if up then nx else f32Mul (f32Sub one (f32Abs ny)) (sgn nx)
    let v := if up then ny else f32Mul (f32Sub one (f32Abs nx)) (sgn ny)
    let cell (a : Nat) : Nat := floorClamp 7 (FFmt.dec .f32 (f32Mul (f32Add a one) 0x40800000))
    cell u + 8 * cell v

/-- The traversal key of a ray of a frame. -/
def rayKey (f : FrameEnt) (r : Ray) : Nat := originCell f r + directionCell r * 2 ^ 18

/-- A ray filed in the bin for a key: newest in it. A traversal bin that so reaches 64 rays starts
its prefetch (R329). -/
def fileRay (s : State) (part slot : Nat) (r : Ray) (shade : Bool) (key : Nat) : State :=
  modPart s part (fun p =>
    let b := binFor p shade key
    let old := SMap.get? p.bins b
    let same := match old with | some x => x.shade = shade && (x.key = key || decide (4096 ≤ b)) | none => false
    let n := (p.rays.filter (fun sr => sr.2.loc = .bin b && sr.1 ≠ slot)).length + 1
    let bin : Bin :=
      { shade := shade, key := if b < 4096 then key else 0, used := p.raySeq,
        treelet := if same then (old.map (·.treelet)).getD none else none
        batch := (old.map (·.batch)).getD 0
        since64 :=
          if n = 64 && !shade then some s.clock else (old.map (·.since64)).getD none
        fresh := same && (old.map (·.fresh)).getD false }
    { p with
      raySeq := p.raySeq + 1
      bins := SMap.put p.bins b bin
      rays := SMap.put p.rays slot { r with loc := .bin b, since := s.clock, seq := p.raySeq } })

/-- A ray enters traversal: it is filed by its key; one whose frame is not open has key 0. -/
def enterTraversal (s : State) (part slot : Nat) (r : Ray) : State :=
  let key := match SMap.get? (partOf s part).frames r.frame with
    | some f => rayKey f r
    | none => 0
  fileRay s part slot r false key

/-! ### Freed slots (R333) -/

/-- A slot that frees goes to the oldest formation that still collects, then to the oldest waiting
spawn lane; else it is free. -/
def freeSlot (s : State) (part slot : Nat) : State :=
  modPart s part (fun p =>
    let p := { p with rays := SMap.del p.rays slot }
    let ctx := 0
    match p.forms.findIdx? (fun f => f.slots.length < f.rays.length && !f.jam) with
    | some i =>
      { p with
        rays := SMap.put p.rays slot (Ray.placeholder ctx)
        forms := p.forms.modify i (fun f => { f with slots := f.slots ++ [slot] }) }
    | none =>
      match p.spawns.findIdx? (fun x => x.granted.isNone && !x.discarded) with
      | some i =>
        { p with
          rays := SMap.put p.rays slot (Ray.placeholder ctx)
          spawns := p.spawns.modify i (fun x => { x with granted := some slot }) }
      | none => p)

/-! ### The count F (R324) -/

/-- The rays a running episode holds of a frame. -/
def episodeHolds (p : Part) (w : Wave) (fr : Nat) : Bool :=
  decide (w.status ≠ .retired) && w.ep.any (fun e =>
    match SMap.get? p.rays e.2.slot with
    | some r => r.frame == fr
    | none => false)

/-- F of an open frame. -/
def frameCount (s : State) (part fr : Nat) : Nat :=
  let p := partOf s part
  match SMap.get? p.frames fr with
  | none => 0
  | some f =>
    (p.rays.filter (fun sr => sr.2.loc ≠ .reserved && sr.2.frame = fr)).length + f.spill.length +
    ((allWaves s).filter (fun w => w.part = part && episodeHolds p w fr)).length +
    p.spawns.countP (fun x => x.ext && x.frame = fr && !x.discarded) +
    (if f.gate then 1 else 0)

/-! ### The end of an episode (R334) -/

/-- One lane's ray at the episode's retirement: it re-enters traversal when RCONT marked it and
its depth allows, and ends otherwise; an unused reservation is freed. -/
def endLane (s : State) (part : Nat) (e : EpLane) : State :=
  let s := match SMap.get? (partOf s part).rays e.slot with
    | none => s
    | some r =>
      let fr := r.frame
      if e.cont && r.depth < 255 then enterTraversal s part e.slot (r.fresh fr (r.depth + 1))
      else
        let s := if e.cont then modFrame s part fr (fun f => { f with dcap := satAdd f.dcap 1 0xFFFFFFFF }) else s
        freeSlot s part e.slot
  match e.reserved with
  | some slot => freeSlot s part slot
  | none => s

/-- Every lane of an episode ends. -/
def endEpisode (s : State) (part : Nat) (ep : SMap EpLane) : State :=
  (SMap.vals ep).foldl (fun s e => endLane s part e) s

/-- The waiting spawn lanes of a wave withdrawn; their slots are freed. -/
def dropSpawns (s : State) (part wave : Nat) : State :=
  let mine := (partOf s part).spawns.filter (fun x => x.wave = wave)
  if mine.isEmpty then s
  else
    let s := modPart s part (fun p => { p with spawns := p.spawns.filter (fun x => x.wave ≠ wave) })
    mine.foldl (fun s x => match x.granted with | some slot => freeSlot s part slot | none => s) s

end Sys2Proof.Machine
end

