-- ==== Sys2Proof/Machine/Ops.lean ====
section
/-! DEFINITION. The named operations over a wave: registers, waits, barriers, Blink triggers,
retirement, taking a trap and returning from one, parking. -/

namespace Sys2Proof.Machine

/-- The outcome of an instruction. -/
abbrev Result := Host.Outcome State Fault Refusal

/-! ### Registers -/

/-- Scalar register n (R92: none is hard-wired). -/
def getS (w : Wave) (n : Nat) : DWord := SMap.getD w.regs.s n 0
/-- Lane i of vector register r. -/
def getV (w : Wave) (r i : Nat) : Word := SMap.getD w.regs.v (32 * r + i) 0
/-- Predicate register n, a bit a lane. -/
def getVp (w : Wave) (n : Nat) : Word := SMap.getD w.regs.vp n 0
/-- The populated mask (R21). -/
def Wave.populated (w : Wave) : Word := popMask w.pop
/-- Whether c[n] reads 1: c6 is em ≠ 0 and c7 is true (R94). -/
def getC (w : Wave) (n : Nat) : Bool := if n = 6 then w.regs.em != 0 else if n = 7 then true else w.regs.c.getLsbD n

/-- The focus wave's registers changed. -/
def modRegs (s : State) (f : Regs → Regs) : State := { s with w := { s.w with regs := f s.w.regs } }
/-- The focus wave changed. -/
def modW (s : State) (f : Wave → Wave) : State := { s with w := f s.w }
/-- The focus wave's lane stream changed. -/
def modLane (s : State) (f : LaneStream → LaneStream) : State := { s with w := { s.w with lane := f s.w.lane } }
/-- The focus wave's system registers changed. -/
def modSys (s : State) (f : Sys → Sys) : State := { s with w := { s.w with sys := f s.w.sys } }

/-- s[n] written. -/
def setS (s : State) (n : Nat) (x : DWord) : State := modRegs s (fun r => { r with s := SMap.write 0 r.s n x })
/-- c[n] written. -/
def setC (s : State) (n : Nat) (b : Bool) : State :=
  modRegs s (fun r => { r with c := if b then r.c ||| BitVec.twoPow 6 n else r.c &&& ~~~ BitVec.twoPow 6 n })
/-- em written, ANDed with the populated mask (R21). -/
def setEm (s : State) (m : Word) : State := modRegs s (fun r => { r with em := m &&& s.w.populated })
/-- vp[n] written whole. -/
def setVp (s : State) (n : Nat) (m : Word) : State := modRegs s (fun r => { r with vp := SMap.write 0 r.vp n m })
/-- Lane i of v[r] written. -/
def setV (s : State) (r i : Nat) (x : Word) : State :=
  modRegs s (fun g => { g with v := SMap.write 0 g.v (32 * r + i) x })

/-! ### Progress of the scalar stream -/

/-- The focus wave as running: not waiting, and issued now. -/
def Wave.run (w : Wave) (clock : Nat) : Wave :=
  { w with status := .ready, park := none, answered := none, lastIssue := clock, starved := false }

/-- The wave after its lane stream has issued: a park of the lane stream is over, and what the scalar stream's park was
answered with stands (R34, R215). -/
def Wave.runLane (w : Wave) (clock : Nat) : Wave :=
  { w with status := .ready, park := none, lastIssue := clock, starved := false }

/-- The wave with the registers that its lane instruction in issue reads: as they stood when it issued (R71). -/
def Wave.reading (w : Wave) : Wave :=
  match w.lane.issue.regs with
  | some r => { w with regs := r }
  | none => w

/-- A jump of the scalar stream: the instruction completes and SPC goes to an address. -/
def goto (s : State) (pc : DWord) : State :=
  modRegs { s with w := s.w.run s.clock } (fun r => { r with spc := pc })

/-- The instruction completes and SPC goes to the next word. -/
def advance (s : State) : State := goto s (s.w.regs.spc + 4)

/-- The instruction waits: nothing is changed but the wave's state, and it executes again
(Table 02-4, Waiting). -/
def waitHere (s : State) : State :=
  modW s (fun w => { w with status := if w.status = .ready then .waiting else w.status })

/-- The address a branch of a word offset goes to (R62). -/
def branchTo (s : State) {n : Nat} (off : BitVec n) : DWord := s.w.regs.spc + (off.signExtend 64 <<< 2)

/-- Whether every lane instruction enqueued has completed (R164). -/
def laneIdle (w : Wave) : Bool := w.lane.q.isEmpty && w.lane.inflight.isEmpty

/-- Whether the wave has pushes that no home unit has served (R270). -/
def pushesOut (s : State) (id : Nat) : Bool := (SMap.vals s.cores).any (fun c => c.pushes.any (fun p => p.wave = id))

/-- Whether it has pushes of lane instructions that no home unit has served (R164, R270). -/
def lanePushesOut (s : State) (id : Nat) : Bool :=
  (SMap.vals s.cores).any (fun c => c.pushes.any (fun p => p.wave = id && p.lane))

/-- Whether every lane instruction the focus wave has enqueued has completed, its pushes served (R164). -/
def laneComplete (s : State) : Bool := laneIdle s.w && !lanePushesOut s s.w.id

/-- The wave's accepted, unfinished matrix operations. -/
def matrixOps (s : State) (id : Nat) : List MOp :=
  (SMap.vals s.engines).flatMap (fun e => e.ops.filter (fun o => o.wave = id))

/-! ### The publication and acquire side of synchronisation -/

/-- A release of the focus wave at a scope: its L1 written through at core scope or above, and a
publication number taken (R208, R240); one that covers class GS publishes the accesses of its streams too (R236, R241). -/
def releaseW (s : State) (scope : Nat) (gs : Bool := false) : State × Nat :=
  let s := if 1 ≤ scope then writeThrough s s.w.sys.core.toNat else s
  publishAll s (s.w.id :: (if gs then streamUids s.w else [])) s.w.part

/-- An acquire of the focus wave of a number: at core scope or above the L1 is invalidated (R208),
and Acq rises (R244). -/
def acquireW (s : State) (scope n : Nat) : State :=
  let s := if 1 ≤ scope then invalidateL1 s s.w.sys.core.toNat else s
  modW s (fun w => { w with acq := Nat.max w.acq n })

/-! ### Blink triggers (R365, R366) -/

/-- A trigger of a kind fires in a partition, if armed: it joins the event of this turn, or is
missed during the hold-off and while a snapshot read copies. -/
def fireBlink (s : State) (part kind tag : Nat) : State :=
  modPart s part (fun p =>
    let b := p.blink
    if !b.ctl.getLsbD kind then p
    else
      let held := decide (s.clock < b.copying) || (match b.holdUntil with | some t => decide (s.clock < t) | none => false)
      if held then { p with blink := { b with missed := satAdd b.missed 1 0xFFFFFFFF } }
      else
        let tags := if (SMap.get? b.tags kind).isSome then b.tags else SMap.put b.tags kind (BitVec.ofNat 16 tag)
        { p with blink := { b with fired := b.fired ||| BitVec.twoPow 5 kind, tags := tags } })

/-- The trap-cause trigger: it fires when the cause is armed in CAUSEMASK. -/
def fireCause (s : State) (part code : Nat) : State :=
  if (partOf s part).blink.ctl.getLsbD (19 + code) && decide (1 ≤ code) && decide (code ≤ 0x14) then
    fireBlink s part 1 code
  else s

/-- A cause delivered to a context (R356). -/
def postCause (s : State) (ctx part : Nat) (r : FRec) : State := (postFault (fireCause s part r.code) ctx r).1

/-! ### Barriers (R32) -/

/-- The key of a workgroup's groups: even, and so never that of a wave alone. -/
def wgKey (launch wg : Nat) : Nat := 2 * (launch * 2 ^ 32 + wg)

/-- The key of a wave's groups: its workgroup's, or its own (R30). -/
def Wave.groupKey (w : Wave) : Nat := if w.kind = .grid then wgKey w.launch w.wg else 2 * w.id + 1

/-- Whether a key is that of a workgroup of launch `l`. -/
def keyOfLaunch (l k : Nat) : Bool := decide (k % 2 = 0) && decide (k / 2 ^ 33 = l)

/-- A workgroup's record. -/
def groupOf (s : State) (w : Wave) : Group :=
  SMap.getD (partOf s w.part).groups w.groupKey { sets := [], size := 0, bars := [], gone := [] }

/-- Whether a wave is a member of group g (R30, R32); a wave alone has group 0 = {itself}. -/
def isMember (s : State) (w : Wave) (g : Nat) : Bool :=
  if w.kind = .grid then
    match (groupOf s w).sets[g]? with
    | some m => m.getLsbD w.widx && decide (w.widx < (groupOf s w).size)
    | none => false
  else g == 0

/-- A barrier of which nobody has arrived. -/
def Barrier.zero : Barrier :=
  { inst := 0, mask := none, arrived := [], mismatch := false, pub := 0, donePub := 0, doneMismatch := false }

/-- The members of group g, within the workgroup. -/
def Group.members (g : Group) (i : Nat) : List Nat :=
  match g.sets[i]? with
  | some m => (List.range g.size).filter (fun k => m.getLsbD k)
  | none => []

/-- The barrier completed when every member has arrived or retired. -/
def Barrier.settle (b : Barrier) (members gone : List Nat) : Barrier :=
  if !b.arrived.isEmpty && members.all (fun k => b.arrived.contains k || gone.contains k) then
    { b with inst := b.inst + 1, mask := none, arrived := [], mismatch := false, pub := 0,
             donePub := b.pub, doneMismatch := b.mismatch }
  else b

/-- The arrival of member `k` with a mask and a publication number. -/
def Barrier.arrive (b : Barrier) (k : Nat) (m : Word) (n : Nat) : Barrier :=
  { b with mask := some (b.mask.getD m), arrived := k :: b.arrived,
           mismatch := b.mismatch || (b.mask.any (fun x => x != m)), pub := Nat.max b.pub n }

/-- Barrier g of the workgroup of a wave. -/
def barOf (s : State) (w : Wave) (g : Nat) : Barrier := SMap.getD (groupOf s w).bars g Barrier.zero

/-- A workgroup's record changed. -/
def modGroup (s : State) (w : Wave) (f : Group → Group) : State :=
  modPart s w.part (fun p => { p with groups := SMap.put p.groups w.groupKey (f (groupOf s w)) })

/-- The focus wave arrives at group g. A wave alone completes its instance at once. -/
def arriveAt (s : State) (g : Nat) (m : Word) (n : Nat) : State :=
  modGroup s s.w (fun gr =>
    let b := (SMap.getD gr.bars g Barrier.zero).arrive s.w.widx m n
    let members := if s.w.kind = .grid then gr.members g else [s.w.widx]
    { gr with bars := SMap.put gr.bars g (b.settle members gr.gone) })

/-- A retired wave counts as arrived at every instance of its groups, from now on (R32). -/
def leaveGroups (s : State) (w : Wave) : State :=
  if w.kind ≠ .grid then
    modPart s w.part (fun p => { p with groups := SMap.del p.groups w.groupKey })
  else
    modGroup s w (fun gr =>
      let gone := w.widx :: gr.gone
      { gr with gone := gone, bars := gr.bars.map (fun ib => (ib.1, ib.2.settle (gr.members ib.1) gone)) })

/-! ### Launches -/

/-- A launch ends: its command completes, its task entry becomes Free, its allocation loses a
user, and its groups are forgotten (R36, R378). -/
def endLaunch (s : State) (l : Nat) : State :=
  match SMap.get? s.launches l with
  | none => s
  | some x =>
    let s := { s with launches := SMap.del s.launches l }
    let s := modPart s x.part (fun p => { p with groups := p.groups.filter (fun kg => !keyOfLaunch l kg.1) })
    let s := dropAlloc s x.part x.alloc
    let s := match x.task with | some e => freeTask s x.part e | none => s
    let s := match x.cmd with
      | some c => completeCmd s x.ctx c (if x.cancelled then 7 else 0) 0
      | none => s
    x.cancels.foldl (fun s c => completeCmd s x.ctx c 0 0) s

/-- A launch's count of live waves falls; a cancelled one, or one without nodes, ends with its last
wave. -/
def launchLess (s : State) (l : Nat) : State :=
  match SMap.get? s.launches l with
  | none => s
  | some x =>
    let x := { x with live := x.live - 1 }
    let s := { s with launches := SMap.put s.launches l x }
    if x.live = 0 && (x.cancelled || (x.nodes.isEmpty && decide ((x.n + 31) / 32 ≤ x.next))) then endLaunch s l else s

/-! ### Retirement (R36) -/

/-- The tiles a wave's accumulators are bound to freed. -/
def freeTiles (s : State) (w : Wave) : State :=
  if w.tiles.isEmpty then s
  else modEngine s (w.sys.core.toNat / 4) (fun e => { e with owner := e.owner.filter (fun t => t.2 ≠ w.id) })

/-- The focus wave's SC operations that wait with a ticket, or for one, given up (R240). -/
def dropTickets (s : State) : State :=
  let w := s.w
  if w.ticket.isNone && w.pod.isNone && w.lane.ticket.isNone && w.lane.pod.isNone then s
  else
    modW (modPart s w.part (fun p => { p with scq := p.scq.filter (fun t => t.wave ≠ some w.id) }))
      (fun w => { w with ticket := none, pod := none, lane := { w.lane with ticket := none, pod := none } })

/-- The streams of an episode's wave are agents of its frames, whose drain publishes their accesses (R247). -/
def keepStreams (s : State) (w : Wave) : State :=
  if w.streams.isEmpty then s
  else (SMap.vals w.ep).foldl (fun s e =>
    match SMap.get? (partOf s w.part).rays e.slot with
    | some r => modFrame s w.part r.frame (fun f => { f with uids := f.uids ++ streamUids w })
    | none => s) s

/-- The focus wave retires: barriers count it, tiles, records, victim tags, rays and its SC ticket
are given up, and its task, episode or launch ends with it. Rows and slot are free because the
wave is no longer placed. -/
def retire (s : State) (k : RetireKind) : State :=
  let w := s.w
  let s := modW s (fun w => { w with status := .retired, ended := some k, preq := false, park := none, answered := none })
  let s := leaveGroups s w
  let s := freeTiles s w
  let s := match w.task with | some e => passShared s w.part e | none => s
  let s := releaseRecords s (w.sys.core.toNat / 4) w.id
  let s := modCore s w.sys.core.toNat (fun c => 
    { c with victims := c.victims.filter (fun v => v.slot ≠ w.sys.slot), idleSince := s.clock })
  let s := dropTickets s
  let s := keepStreams (dropSpawns s w.part w.id) w
  let s := endEpisode s w.part w.ep
  let s := match w.task with | some e => freeTask s w.part e | none => s
  if w.launch = 0 then s else launchLess s w.launch

/-- The groups of whose completed BARA instance the wave keeps a MASKDIS. -/
def maskdisGroups (s : State) (w : Wave) : List Nat :=
  (w.bara.filter (fun gb => gb.2.open_ &&
    (gb.2.maskdis || (decide (gb.2.inst < (barOf s w gb.1).inst) && (barOf s w gb.1).doneMismatch)))).map (·.1)

/-- The end of a wave that raises nothing more (R355, R36): by a fault, or by an EXIT, a kill or a cancel in a
handler. It waits for its lane stream, pushes and matrix operations, and the causes still pending
are posted to the context. A wave that has faulted does nothing else from then on. -/
def quitWave (s : State) (k : RetireKind) : State :=
  let s := if k = .faulted then modW s (fun w => { w with ended := some k }) else s
  let w := s.w
  if !laneIdle w || pushesOut s w.id || !(matrixOps s w.id).isEmpty then waitHere s
  else
    let post (s : State) (c : Nat) (fa fg : DWord) (access : Nat) : State :=
      postCause s w.ctx w.part
        { code := c, imp := true, await := false, task := w.task, faddr := fa, fagent := fg,
          access := access, agent := w.word }
    let s := w.pend.foldl (fun s cp => post s cp.1 cp.2.faddr cp.2.fagent cp.2.access) s
    let s := (maskdisGroups s w).foldl (fun s _ => post s 0x0E 0 0 0) s
    retire (writeThrough (modW s (fun w => { w with pend := [], bara := [] })) w.sys.core.toNat) k

/-! ### Traps (R353, R354) -/

/-- The CAUSE word (Table 06-5). -/
def causeWord (code : Nat) (imp lane : Bool) (timm : Nat) : DWord :=
  dw (code % 256 + (if imp then 2 ^ 8 else 0) + (if lane then 2 ^ 9 else 0) + timm % 2 ^ 18 * 2 ^ 16)

/-- The return-stack depth (R353, step 4). -/
def returnDepth (w : Wave) : Nat := w.regs.rstack.length + 8 * w.regs.rsc

/-- The focus wave with no park and no SC operation under way: the instruction in hand is over. -/
def unpark (s : State) : State :=
  modW (dropTickets s) (fun w =>
    { w with park := none, answered := none, status := if w.status = .parked then .ready else w.status })

/-- Taking a trap on the focus wave (R353): the one operation every cause goes through. The lane
stream is settled by its callers; in a handler, or without one, the wave retires faulted. A scalar instruction that has not
completed has not begun: an SC one gives its ticket up, and an LRUN or LNEXT stopped by a full queue enqueues its whole batch
when it executes again (R24 leaves what it has enqueued open; log 104). -/
def takeTrap (s : State) (c : Cause) : State :=
  let s := unpark s
  let w := s.w
  let ctx := ctxOf s w.ctx
  let s := modLane s (fun l => { l with q := [], batch := 0, seq := l.seq + l.q.length })
  if w.sys.handler || ctx.handler = 0 then
    let s := postCause s w.ctx w.part
      { code := c.code, imp := c.imp, await := false, task := w.task, faddr := c.faddr,
        fagent := c.fagent, access := c.access, agent := w.word }
    quitWave s .faulted
  else
    let s := fireCause s w.part c.code
    let s := modSys s (fun x =>
      { x with cause := causeWord c.code c.imp c.lane c.timm, epc := c.epc &&& ~~~ 3,
               elpc := dw (bits c.elpc 19 0), faddr := c.faddr, fagent := c.fagent, handler := true })
    let frame : Frame :=
      { resume := c.resume, em := w.regs.em, lpc := w.regs.lpc, lbase := w.regs.lbase, depth := returnDepth w,
        again := c.again, access := c.access }
    let s := modW s (fun w => { w.run s.clock with frame := some frame })
    modRegs s (fun r =>
      { r with em := w.populated, lpc := ctx.hlbase, lbase := ctx.hlbase, spc := ctx.handler })

/-- A precise trap of the scalar instruction at SPC: it first waits for the lane instructions
enqueued before it (R108), then enters. -/
def scalarTrapAt (s : State) (resume : DWord) (code timm : Nat) (faddr fagent : DWord) (access : Nat := 0) : State :=
  if !laneComplete s then waitHere s
  else takeTrap s
    { code := code, imp := false, lane := false, timm := timm, epc := s.w.regs.spc, elpc := 0,
      faddr := faddr, fagent := fagent, resume := resume, access := access }

/-- The common case: the resume point is the instruction. -/
def scalarTrap (s : State) (code : Nat) (faddr fagent : DWord) (access : Nat := 0) : State :=
  scalarTrapAt s s.w.regs.spc code 0 faddr fagent access

/-- The ILLEGAL trap of the scalar instruction at SPC (R59). -/
def illegal (s : State) : State := scalarTrap s 0x01 0 0

/-- A result lands: its lanes are written, and FPSTAT takes an update (R71, R86). -/
def landWrite (s : State) (p : PendWrite) : State :=
  match p.dest with
  | .v r => p.data.foldl (fun s kv => setV s r kv.1 (kv.2.setWidth 32)) (modRegs s (fun g => { g with bad := g.bad.erase r }))
  | .vp n => p.data.foldl (fun s kv =>
      setVp s n (if kv.2 = 0 then getVp s.w n &&& ~~~ BitVec.twoPow 32 kv.1 else getVp s.w n ||| BitVec.twoPow 32 kv.1)) s
  | .s n => p.data.foldl (fun s kv => setS s n kv.2) s
  | .fpstat => p.data.foldl (fun s kv => modSys s (fun x => { x with fpstat := fpApply x.fpstat kv.2 })) s

/-- Lanes of a result that a later-issued one to the same register has already written fall away
(R71): an in-flight result is cut by each result issued after it that lands. -/
def cutOlder (l : List PendWrite) (p : PendWrite) : List PendWrite :=
  l.filterMap (fun o =>
    if o.dest = p.dest && o.seq < p.seq && p.dest ≠ .fpstat then
      let d := o.data.filter (fun kv => (SMap.get? p.data kv.1).isNone)
      if d.isEmpty then none else some { o with data := d }
    else some o)

/-- One in-flight result of the focus wave lands and leaves the list. -/
def landOne (s : State) (p : PendWrite) : State :=
  let s := landWrite s p
  modLane s (fun l => { l with inflight := cutOlder (l.inflight.erase p) p })

/-- Every in-flight result lands, in issue order, and no writer is left to wait for (R73). -/
def landAll (s : State) : State :=
  modLane ((sortBy (fun a b => decide (a.seq ≤ b.seq)) s.w.lane.inflight).foldl landOne s)
    (fun l => { l with writers := [] })

/-- A lane trap whose earlier lane instructions have all landed: those enqueued after it are discarded, and it
is entered when the pushes of the earlier ones are served (R24, R164). -/
def enterLane (s : State) (c : Cause) : State :=
  if lanePushesOut s s.w.id then
    modW (waitHere (modLane s (fun l => { l with q := [], batch := 0, seq := l.seq + l.q.length })))
      (fun w => { w with park := none, answered := none, owed := some c })
  else takeTrap (modW s (fun w => { w with owed := none })) c

/-- A precise trap of the lane instruction in issue (R24): those issued before it land, those
enqueued after it are discarded, and the control thread resumes where it stands. -/
def laneTrap (s : State) (code : Nat) (faddr fagent : DWord) (access : Nat := 0) : State :=
  let e := s.w.lane.issue
  enterLane (modLane (landAll s) (fun l => { l with seq := l.seq + 1 }))
    { code := code, imp := false, lane := true, timm := 0, epc := e.epc, elpc := e.elpc,
      faddr := faddr, fagent := fagent, resume := s.w.regs.spc, access := access }

/-- Trap return, where CAUSE.CODE says (R354). -/
def trapReturn (s : State) (f : Frame) : State :=
  let code := bits s.w.sys.cause 7 0
  if 0x15 ≤ code then
    let s := postCause s s.w.ctx s.w.part
      { code := code, imp := s.w.sys.cause.getLsbD 8, await := false, task := s.w.task,
        faddr := s.w.sys.faddr, fagent := s.w.sys.fagent, access := f.access, agent := s.w.word }
    quitWave s .faulted
  else
    let s := goto s (if code = 0 then s.w.sys.epc else f.resume)
    let s := modRegs s (fun r => { r with em := f.em, lpc := f.lpc, lbase := f.lbase })
    let s := modSys s (fun x => { x with handler := false })
    -- an MWAIT that reported a cause executes again, where the return is to the resume point (R352; log 86): before what
    -- the handler left in the queue, which keep their numbers
    let s := match f.again with
      | some e =>
        if code = 0 then s
        else modLane s (fun l =>
          let e := { e with num := l.seq - 1 }
          { l with q := e :: l.q, issue := e, seq := l.seq - 1 })
      | none => s
    modW s (fun w => { w with frame := none })

/-! ### Imprecise causes (R352, R355) -/

/-- The lowest pending cause, if the wave may report it. -/
def pendingCause (w : Wave) : Option (Nat × Pend) := if w.sys.handler then none else w.pend.head?

/-- The lowest pending cause delivered at the scalar instruction at SPC, which executes again on
return (R352). -/
def reportPending (s : State) (c : Nat) (p : Pend) : State :=
  takeTrap (modW s (fun w => { w with pend := SMap.del w.pend c }))
    { code := c, imp := true, lane := p.lane, timm := 0, epc := s.w.regs.spc, elpc := p.elpc,
      faddr := p.faddr, fagent := p.fagent, resume := s.w.regs.spc, access := p.access }

/-- The state an instruction's accesses leave, with GUARD pending when one touched a guard byte (R206). -/
def accGuard (s : State) (r : AccRes) (lane : Bool) (elpc : DWord) (access : Nat) : State :=
  match r.guard with
  | some va => makePending r.st s.w.id 0x08 { faddr := va, fagent := 0, lane := lane, elpc := elpc, access := access }
  | none => r.st

/-- A MASKDIS kept from a BARA (R172), cleared from the wave. -/
def clearMaskdis (s : State) (g : Nat) : State :=
  modW s (fun w => { w with bara := SMap.adjust w.bara g (fun b => { b with maskdis := false, open_ := false }) })

/-- A MASKDIS that a handler meets stays pending with the wave (R355). -/
def keepMaskdis (s : State) (g : Nat) : State :=
  modW s (fun w => { w with bara := SMap.adjust w.bara g (fun b => { b with maskdis := true }) })

/-- MASKDIS taken at the scalar instruction at SPC, with its resume point. -/
def maskdisTrap (s : State) (resume : DWord) : State :=
  takeTrap s
    { code := 0x0E, imp := false, lane := false, timm := 0, epc := s.w.regs.spc, elpc := 0, faddr := 0,
      fagent := 0, resume := resume }

/-- The end of a wave by EXIT, kill or cancel (R36): it waits for the lane stream, pushes and
matrix operations; causes still pending are raised at the instruction, or in a handler posted to
the context (R355); then it retires. A cancelled wave that raises one notes it, so that the handler runs (R378). -/
def leaveWave (s : State) (k : RetireKind) : State :=
  let w := s.w
  if !laneIdle w || pushesOut s w.id || !(matrixOps s w.id).isEmpty then waitHere s
  else if w.sys.handler then quitWave s k
  else
    let mask := maskdisGroups s w
    let s := if k = .cancelled && !(w.pend.isEmpty && mask.isEmpty) then modW s (fun w => { w with ended := some k }) else s
    match w.pend, mask with
    | (c, p) :: _, [] => reportPending s c p
    | (c, p) :: _, g :: _ => if c < 0x0E then reportPending s c p else maskdisTrap (clearMaskdis s g) w.regs.spc
    | [], g :: _ => maskdisTrap (clearMaskdis s g) w.regs.spc
    | [], [] => retire (writeThrough s w.sys.core.toNat) k

/-! ### Kill points (R346) -/

/-- Whether the focus wave runs a bound task that its core's copy prunes. -/
def killNow (s : State) : Bool :=
  match s.w.task with
  | none => false
  | some e =>
    match SMap.get? (partOf s s.w.part).tasks e with
    | none => false
    | some t => t.prunable (incCoreOf (partOf s s.w.part) s.w.sys.core.toNat (TaskRec.inc t.r))

/-- Whether its record makes backward branches kill points (R161). -/
def killsBack (s : State) : Bool :=
  match s.w.task with
  | none => false
  | some e =>
    match SMap.get? (partOf s s.w.part).tasks e with
    | none => false
    | some t => TaskRec.bbk t.r

/-- The kill: KILLR grows once, and the wave retires killed under R36. -/
def killWave (s : State) : State :=
  let s :=
    if s.w.ended = some .killed then s
    else modPart (modW s (fun w => { w with ended := some .killed })) s.w.part (fun p => { p with killr := p.killr + 1 })
  leaveWave s .killed

/-! ### Parking (R34, R215) -/

/-- The focus wave parks at the instruction in hand: a fault record that awaits an answer is
posted, and the unfinished lane entry, if any, is kept. -/
def parkWave (s : State) (access : Nat) (va : DWord) (lane : Option LEntry) : State :=
  let w := s.w
  let (s, id) := postAwait s w.ctx
    { code := 0x06, imp := false, await := true, task := w.task, faddr := va, fagent := 0,
      access := access, agent := w.word }
  modW s (fun w => { w with status := .parked, answered := if lane.isNone then none else w.answered,
                            park := some { id := id, access := access, faddr := va, lane := lane, st := .await } })

/-- The focus wave meets V = 0 at a scalar instruction: it parks there (R215). -/
def pageAt (s : State) (access : Nat) (va : DWord) : State := parkWave s access va none

/-- A park answered with fail: PAGE at the parked instruction, scalar or lane (R215). -/
def pageFail (s : State) (p : Park) : State :=
  match p.lane with
  | none => scalarTrap s 0x06 p.faddr 0 p.access
  | some e => laneTrap (modLane s (fun l => { l with issue := e })) 0x06 p.faddr 0 p.access

/-! ### SC operations (R240) -/

/-- Whether an SC operation uses this die's Meridian: pod scope does when the anchor is this die. -/
def scHere (s : State) (scope : Nat) : Bool := decide (scope < 4) || s.anchor == s.dieid

/-- The ticket with which an SC operation of one of the focus wave's streams waits. -/
def scTicket (w : Wave) (lane : Bool) : Option Nat := if lane then w.lane.ticket else w.ticket

/-- What it has asked the anchor die for. -/
def scPod (w : Wave) (lane : Bool) : Option Bool := if lane then w.lane.pod else w.pod

/-- Its ticket, and what it has asked for, written. -/
def setSc (s : State) (lane : Bool) (t : Option Nat) (p : Option Bool) : State :=
  if lane then modLane s (fun l => { l with ticket := t, pod := p }) else modW s (fun w => { w with ticket := t, pod := p })

/-- The SC operation of the focus wave's lane or scalar stream asks to be performed: the state, and whether its turn has
come. It takes its ticket when it first asks; one that must wait for lower tickets is queued. One of pod scope off the
anchor die asks that die, whose answer is SC_OPERATION_PERFORM's to give (log 17). -/
def scAsk (s : State) (lane : Bool) (scope : Nat) : State × Bool :=
  if !scHere s scope then
    match scPod s.w lane with
    | some true => (setSc s lane none none, true)
    | some false => (s, false)
    | none => (setSc s lane none (some false), false)
  else
    let p := partOf s s.w.part
    match scTicket s.w lane with
    | some n =>
      if p.scq.any (fun t => t.n < n) then (s, false)
      else (setSc (modPart s s.w.part (fun p => { p with scq := p.scq.filter (fun t => t.n ≠ n) })) lane none none, true)
    | none =>
      let n := p.tickets + 1
      if p.scq.isEmpty then (modPart s s.w.part (fun p => { p with tickets := n }), true)
      else
        (setSc (modPart s s.w.part (fun p =>
            { p with tickets := n, scq := p.scq ++ [{ n := n, wave := some s.w.id, lane := lane, req := none }] }))
          lane (some n) none, false)

end Sys2Proof.Machine
end

