-- ==== Sys2Proof/Machine/Operands.lean ====
section
/-! DEFINITION. Lane instructions: the registers they read and write, latency, active lanes, every
operand form (R122 to R129), the issue rules of R70 to R73, and the landing of results. -/

namespace Sys2Proof.Machine

/-! ### Registers of an instruction -/

/-- The acceptance row of an arithmetic-form instruction, with its fields. -/
def rowOf : Instr → Option (LArith × Row)
  | .vadd x | .vsub x => some (x, Rows.vadd)
  | .vmul x => some (x, Rows.vmul)
  | .vmulh x => some (x, Rows.vmulh)
  | .vmulhu x | .vmix x => some (x, Rows.word2)
  | .vmad x => some (x, Rows.vmad)
  | .vand x | .vor x | .vxor x | .vandn x => some (x, Rows.logic)
  | .vshl x | .vshr x | .vminu x | .vmaxu x => some (x, Rows.unsig)
  | .vsar x => some (x, Rows.vsar)
  | .vmin x | .vmax x => some (x, Rows.vmin)
  | .vpopc x | .vclz x | .vbrev x => some (x, Rows.unary)
  | .vbfe x => some (x, Rows.vbfe)
  | .vbfi x => some (x, Rows.vbfi)
  | .vcmp x => some (x, Rows.vcmp)
  | .vsel x => some (x, Rows.vsel)
  | .vmov x => some (x, Rows.vmov)
  | .vadd64 x | .vsub64 x | .vmul64 x => some (x, Rows.vadd64)
  | .vshl64 x => some (x, Rows.vshl64)
  | .vshr64 x => some (x, Rows.vshr64)
  | .vlaneid x => some (x, Rows.vlaneid)
  | .vfadd x | .vfsub x | .vfmul x => some (x, Rows.vfadd)
  | .vfma x => some (x, Rows.vfma)
  | .vfmin x | .vfmax x => some (x, Rows.vfmin)
  | .vfcmp x => some (x, Rows.vfcmp)
  | .vfdiv x => some (x, Rows.vfdiv)
  | .vfsqrt x | .vfrcp x | .vfrsq x | .vexp2 x | .vlog2 x | .vsinpi x | .vcospi x => some (x, Rows.trans)
  | .vfrnd x => some (x, Rows.vfrnd)
  | .vfclass x => some (x, Rows.vfclass)
  | .vfldexp x => some (x, Rows.vfldexp)
  | .vfdot2 x => some (x, Rows.vfdot2)
  | .vfdot4 x => some (x, Rows.vfdot4)
  | .vcvt x => some (x, Rows.vcvt)
  | .vcvtpk x => some (x, Rows.vcvtpk)
  | .vqblk x => some (x, Rows.vqblk)
  | .vdqblk x => some (x, Rows.vdqblk)
  | .vshfl x => some (x, Rows.vshfl)
  | .vscan x | .vradd x => some (x, Rows.vscan)
  | .vrmin x | .vrmax x => some (x, Rows.vrmin)
  | .vcompact x => some (x, Rows.vcompact)
  | .vmatch x => some (x, Rows.vmatch)
  | .vprank x => some (x, Rows.vprank)
  | .vqpush x => some (x, Rows.vqpush)
  | .vqpop x => some (x, Rows.vqpop)
  | .wemit x => some (x, Rows.wemit)
  | .rspawn x => some (x, Rows.rspawn)
  | .rcont x => some (x, Rows.rcont)
  | .racc x => some (x, Rows.racc)
  | .vtrapif x => some (x, Rows.vtrapif)
  | _ => none

/-- The memory form of an instruction. -/
def memForm : Instr → Option LMem
  | .vld x | .vst x | .vldc x | .vstc x | .vldro x | .vatom x | .vcas x | .vpref x => some x
  | _ => none

/-- `n` consecutive registers. -/
def regRange (r n : Nat) : List Nat := (List.range n).map (r + ·)

/-- The registers an operand of a type takes. -/
def typedRegs (ty : LTy) (r : Nat) : List Nat := regRange r (if ty.wide then 2 else 1)

/-- Words of a VQPUSH, VQPOP or WEMIT element. -/
def countOf (i : Instr) : Nat :=
  match i with
  | .vqpush x | .vqpop x => x.m.aux10.toNat + 1
  | .wemit x => x.m.aux4.toNat + 1
  | _ => 1

/-- Vector registers read as operand a. -/
def aRegs (i : Instr) : List Nat :=
  match i with
  | .vqpush x | .wemit x => regRange x.va.toNat (countOf i)
  | .rspawn x | .rcont x => regRange x.va.toNat 32
  | .racc x => regRange x.va.toNat 3
  | .vmov x => match x.b with | .vec _ => typedRegs x.ty x.va.toNat | _ => []
  | i =>
    match rowOf i with
    | some (x, r) =>
      match r.a with
      | .none => []
      | .typed => typedRegs x.ty x.va.toNat
      | .single => [x.va.toNat]
    | none => []

/-- Vector registers read as operand b. -/
def bRegs (i : Instr) : List Nat :=
  match rowOf i with
  | some (x, r) =>
    match x.b, r.b with
    | .vec n, .typed => typedRegs x.ty n.toNat
    | .vec n, .word => [n.toNat]
    | .vec n, .wordNoQueue => [n.toNat]
    | _, _ => []
  | none => []

/-- Whether an instruction has an operand c that it reads: VCVTPK only to a type of four elements (R148). -/
def usesC : Instr → Bool
  | .vcvtpk x => ((LTy.ofCode x.m.aux4.toNat).getD .f16x2).elems == 4
  | _ => true

/-- Vector registers read as operand c. -/
def cRegs (i : Instr) : List Nat :=
  match rowOf i with
  | some (x, r) =>
    if !usesC i then []
    else match x.c, r.c with
    | .vec n, .typed => typedRegs x.ty n.toNat
    | .vec n, .word => [n.toNat]
    | .vec n, .vecOnly => [n.toNat]
    | .vec n, .stoch => if x.m.aux10 = 0 then [] else [n.toNat]
    | _, _ => []
  | none => []

/-- Vector registers a lane instruction reads. -/
def readsV (f64 : Bool) (i : Instr) : List Nat :=
  match memForm i with
  | some x =>
    let base := match x.base with | .vec r => regRange r.toNat 2 | .scal _ => []
    let n := x.size.regs
    match i with
    | .vst _ | .vstc _ | .vatom _ => base ++ regRange x.va.toNat n
    | .vcas _ => base ++ regRange x.va.toNat n ++ regRange x.vc.toNat n
    | _ => base
  | none =>
    match i with
    | .mwr x => regRange x.v.toNat ((x.cnt.toNat + 1) * (if f64 then 2 else 1))
    | .osto x => regRange x.v.toNat (x.cnt.toNat + 1)
    | .olod x => regRange x.v.toNat 2
    | .mepi x => regRange x.va.toNat 2
    | i => aRegs i ++ bRegs i ++ cRegs i

/-- Vector registers a lane instruction writes. -/
def writesV (f64 : Bool) (i : Instr) : List Nat :=
  match i with
  | .vld x | .vldc x | .vldro x | .vatom x | .vcas x => regRange x.vd.toNat x.size.regs
  | .mrd x => regRange x.v.toNat ((x.cnt.toNat + 1) * (if f64 then 2 else 1))
  | .vqpop x => regRange x.vd.toNat (countOf i)
  | .vqblk x => regRange x.vd.toNat 2
  | .vcvt x =>
    let dst := (LTy.ofCode x.m.aux4.toNat).getD .b32
    if x.ty.elems ≠ 1 && dst.elems = 1 then regRange x.vd.toNat x.ty.elems
    else typedRegs dst x.vd.toNat
  | i =>
    match rowOf i with
    | some (x, r) =>
      match r.d with
      | .typed => typedRegs x.ty x.vd.toNat
      | .single => [x.vd.toNat]
      | _ => []
    | none => []

/-- The predicate fields of a lane instruction. -/
def predOf (i : Instr) : Pred :=
  match memForm i with
  | some x => x.pred
  | none =>
    match i with
    | .mrd x | .mwr x => x.pred
    | .osto x | .olod x => x.pred
    | .mepi x => x.pred
    | i => match rowOf i with | some (x, _) => x.pred | none => { pe := false, pn := false, pi := 0 }

/-- The stall count of a lane instruction. -/
def stallOf (i : Instr) : Nat :=
  match memForm i with
  | some x => x.stall.toNat
  | none =>
    match i with
    | .mma x => x.stall.toNat
    | .mmas x _ => x.stall.toNat
    | .mrd x | .mwr x => x.stall.toNat
    | .mzero st _ => st.toNat
    | .mwait st => st.toNat
    | .osto x | .olod x => x.stall.toNat
    | .mepi x => x.stall.toNat
    | .vnop st => st.toNat
    | i => match rowOf i with | some (x, _) => x.stall.toNat | none => 0

/-- Predicate registers read: the predicate, and the selector of VSEL, VCOMPACT and VPRANK. -/
def readsVp (i : Instr) : List Nat :=
  let p := predOf i
  (if p.pe then [p.pi.toNat] else []) ++
  (match rowOf i with
   | some (x, r) => match r.c, x.c with | .pred, .vec n => [n.toNat % 16] | _, _ => []
   | none => [])

/-- Predicate registers written. -/
def writesVp (i : Instr) : List Nat :=
  match i with
  | .vcmp x | .vfcmp x => [x.vd.toNat % 16]
  | _ => []

/-- Scalar registers read. -/
def readsS (i : Instr) : List Nat :=
  match memForm i with
  | some x => match x.base with | .scal r => [r.toNat] | .vec _ => []
  | none =>
    match i with
    | .mma x | .mmas x _ =>
      (match x.b with | .slice r => [r.toNat] | _ => []) ++ [x.shape.toNat] ++ (if x.fmtA == .fp4 then [x.sbs.toNat] else [])
    | .osto x | .olod x => [x.off.toNat]
    | .mepi x => [x.scale.toNat, x.shape.toNat] ++ (if x.fold then [x.sfold.toNat] else [])
    | i =>
      match rowOf i with
      | some (x, _) =>
        (match x.b with | .scal r => [r.toNat] | _ => []) ++ (match x.c with | .scal r => [r.toNat] | _ => [])
      | none => []

/-- Scalar registers written (R20: MRD's step destination). -/
def writesS (i : Instr) : List Nat :=
  match i with
  | .mrd x => [x.sd.toNat]
  | _ => []

/-- The fixed latency of Table 04-10; none for the variable class and for VNOP. -/
def latency (i : Instr) : Option Nat :=
  match i with
  | .vtrapif _ => some 4
  | .vfdot2 _ | .vfdot4 _ => some 8
  | .vfdiv _ | .vfsqrt _ | .vfrcp _ | .vfrsq _ | .vexp2 _ | .vlog2 _ | .vsinpi _ | .vcospi _ => none
  | .vqpush _ | .vqpop _ | .wemit _ | .rspawn _ | .rcont _ | .racc _ => none
  | .vcvt x => some (if x.ty = .f64 || x.m.aux4 = 3 then 8 else 6)
  | .vcvtpk _ | .vqblk _ | .vdqblk _ => some 6
  | .vshfl x | .vscan x | .vradd x | .vrmin x | .vrmax x | .vcompact x | .vmatch x | .vprank x =>
    some (if x.ty.wide then 8 else 6)
  | .vfadd x | .vfsub x | .vfmul x | .vfma x | .vfmin x | .vfmax x | .vfcmp x | .vfrnd x | .vfclass x
  | .vfldexp x => some (if x.ty = .f64 then 8 else 6)
  | i => (rowOf i).map (fun _ => 4)

/-! ### Active lanes (R123) -/

/-- The active lanes of an entry: captured em, or a replay's unfinished lanes, under the
predicate as it stands at issue. -/
def activeOf (w : Wave) (e : LEntry) (p : Pred) : Word :=
  match e.mask with
  | some m => m
  | none =>
    if p.pe then e.em &&& (if p.pn then ~~~ getVp w p.pi.toNat else getVp w p.pi.toNat) else e.em

/-- The active lanes of the instruction in issue; the predicate is read when it issues (R71). -/
def active (w : Wave) (i : Instr) : Word := activeOf w.reading w.lane.issue (predOf i)

/-! ### Operand values (R122, R125 to R129) -/

/-- An operand of a type in one lane: a register or a pair. -/
def regVal (w : Wave) (ty : LTy) (r i : Nat) : Nat :=
  if ty.wide then (getV w r i).toNat + 2 ^ 32 * (getV w (r + 1) i).toNat else (getV w r i).toNat

/-- The source lane of a cross-lane read (Table 07-3). -/
def sourceLane (m : XMode) (k i : Nat) : Option Nat :=
  match m with
  | .none => some i
  | .bcast => some k
  | .rot => some ((i + k) % 32)
  | .xor => some (i ^^^ k)
  | .up => if i < k then none else some (i - k)
  | .dn => if i + k > 31 then none else some (i + k)
  | .quad =>
    let j := i % 4
    let lo := k % 4
    let mid := k / 4 % 4
    let j' := if k / 16 % 2 = 1 then (lo + mid) % 4 else ((j ^^^ lo) + mid) % 4
    some (i / 4 * 4 + j')

/-- Operand a before its sign modifiers: the cross-lane fetch (R128). -/
def fetchA (w : Wave) (x : LArith) (i : Nat) : Nat :=
  match sourceLane x.m.xmode x.m.xarg.toNat i with
  | some j => if w.populated.getLsbD j || x.m.xmode = .none then regVal w x.ty x.va.toNat j
              else if x.m.fs then regVal w x.ty x.va.toNat i else 0
  | none => if x.m.fs then regVal w x.ty x.va.toNat i else 0

/-- The elements of a value, element 0 lowest (R78). -/
def splitElems (n width x : Nat) : List Nat := (List.range n).map (fun k => x / 2 ^ (width * k) % 2 ^ width)

/-- A value of elements, element 0 lowest. -/
def joinElems (width : Nat) : List Nat → Nat
  | [] => 0
  | e :: l => e % 2 ^ width + 2 ^ width * joinElems width l

/-- Absolute value and negation of one element: by the sign bit of a float, modulo the width of
an integer (R129, R139). -/
def signElem (float : Bool) (width : Nat) (abs neg : Bool) (x : Nat) : Nat :=
  if float then
    let y := if abs then x % 2 ^ (width - 1) else x
    if neg then (if y / 2 ^ (width - 1) % 2 = 1 then y - 2 ^ (width - 1) else y + 2 ^ (width - 1)) else y
  else
    let y := if abs && x / 2 ^ (width - 1) % 2 = 1 then (2 ^ width - x) % 2 ^ width else x
    if neg then (2 ^ width - y) % 2 ^ width else y

/-- Operand a of a lane, in elements. -/
def elemsA (w : Wave) (x : LArith) (i : Nat) : List Nat :=
  (splitElems x.ty.elems x.ty.width (fetchA w x i)).map
    (signElem x.ty.isFloat x.ty.width x.m.absa x.m.nega)

/-- The values a lane's queue operands popped. -/
structure Pops where
  b : SMap Nat
  c : SMap Nat
  deriving DecidableEq, Repr

/-- No pops. -/
def Pops.none : Pops := { b := [], c := [] }

/-- Operand b of a lane before its sign modifier: at the type's width, or as a 32-bit word. -/
def fetchB (w : Wave) (x : LArith) (word : Bool) (p : Pops) (i : Nat) : Nat :=
  let wide := x.ty.wide && !word
  match x.b with
  | .vec r => if wide then regVal w x.ty r.toNat i else (getV w r.toNat i).toNat
  | .scal r => if wide then (getS w r.toNat).toNat else (getS w r.toNat).toNat % 2 ^ 32
  | .imm k =>
    if wide then
      match x.ty with
      | .f64 => k.toNat * 2 ^ 32
      | .i64 => (k.signExtend 64).toNat
      | _ => k.toNat
    else k.toNat
  | .queue _ => let v := SMap.getD p.b i 0
                if wide then v % 2 ^ 64 else v % 2 ^ 32

/-- Operand b of a lane, in elements. -/
def elemsB (w : Wave) (x : LArith) (p : Pops) (i : Nat) : List Nat :=
  (splitElems x.ty.elems x.ty.width (fetchB w x false p i)).map
    (signElem x.ty.isFloat x.ty.width false x.m.negb)

/-- Operand b as a 32-bit word. -/
def wordB (w : Wave) (x : LArith) (p : Pops) (i : Nat) : Nat := fetchB w x true p i

/-- Operand c of a lane before its sign modifier. -/
def fetchC (w : Wave) (x : LArith) (word : Bool) (p : Pops) (i : Nat) : Nat :=
  let wide := x.ty.wide && !word
  match x.c with
  | .vec r => if wide then regVal w x.ty r.toNat i else (getV w r.toNat i).toNat
  | .scal r => if wide then (getS w r.toNat).toNat else (getS w r.toNat).toNat % 2 ^ 32
  | .queue _ => let v := SMap.getD p.c i 0
                if wide then v % 2 ^ 64 else v % 2 ^ 32

/-- Operand c of a lane, in elements. -/
def elemsC (w : Wave) (x : LArith) (p : Pops) (i : Nat) : List Nat :=
  (splitElems x.ty.elems x.ty.width (fetchC w x false p i)).map
    (signElem x.ty.isFloat x.ty.width false x.m.negc)

/-- The predicate that vc[3:0] selects, in a lane. -/
def selC (w : Wave) (x : LArith) (i : Nat) : Bool :=
  match x.c with
  | .vec r => (getVp w (r.toNat % 16)).getLsbD i
  | _ => false

/-! ### Issue and landing (R70 to R73) -/

/-- The key of a predicate in the table of writers. -/
def vpKey (n : Nat) : Nat := 1024 + n

/-- The instruction in issue goes back to the head of the queue and waits. -/
def unissue (s : State) : State :=
  modW (modLane s (fun l => { l with q := l.issue :: l.q }))
    (fun w => { w with status := if w.status = .ready then .waiting else w.status })

/-- The instruction in issue has issued and is not done: it goes back to the head of the queue with the registers it reads as
they stood, and with its unfinished lanes where they are not all it has (R71). -/
def issuedPart (w : Wave) (e : LEntry) (left : Option Word) : LEntry :=
  { e with mask := if left.isSome then left else e.mask, regs := some (e.regs.getD w.regs) }

/-- The instruction in issue waits as one that has issued. -/
def stayIssued (s : State) (left : Option Word) : State :=
  unissue (modLane s (fun l => { l with issue := issuedPart s.w l.issue left }))

/-- Fixed-latency results whose landing cycle is past land (R71). -/
def landDue (s : State) : State :=
  (sortBy (fun a b => decide (a.seq ≤ b.seq)) (s.w.lane.inflight.filter (fun p => p.fixed && decide (p.due < s.clock)))).foldl landOne s

/-- Whether a variable-latency write is outstanding to a register the instruction reads or writes
(R72). -/
def scoreboard (w : Wave) (i : Instr) : Bool :=
  w.lane.inflight.any (fun p => !p.fixed &&
    match p.dest with
    | .v r => (readsV w.accF64 i).contains r || (writesV w.accF64 i).contains r
    | .vp n => (readsVp i).contains n || (writesVp i).contains n
    | .s n => (readsS i).contains n || (writesS i).contains n
    | .fpstat => false)

/-- Whether the newest writer of one of some registers is fixed-latency and not yet landed (R73, R175). -/
def unlanded (w : Wave) (clock : Nat) (ks : List Nat) : Bool :=
  ks.any (fun k =>
    match SMap.get? w.lane.writers k with
    | some x => x.fixed && decide (clock ≤ x.due)
    | none => false)

/-- Whether that holds of a register that an instruction reads: of its predicate while it has a lane, of an operand while a
lane is active (R70, R158; log 105). -/
def hazard (w : Wave) (clock : Nat) (i : Instr) : Bool :=
  let p := predOf i
  (w.lane.issue.em != 0 && p.pe && unlanded w clock [vpKey p.pi.toNat]) ||
  (active w i != 0 && unlanded w clock (readsV w.accF64 i ++ (readsVp i).map vpKey))

/-- Whether an instruction's effect is that it waits unissued: the entry is back in the queue (R72, R185, R270,
R333). A memory instruction that waits for its turn has issued. -/
def waited (s t : State) (i : Instr) : Bool :=
  (memForm i).isNone && decide (s.w.lane.q.length < t.w.lane.q.length) && decide (t.w.lane.issue = s.w.lane.issue)

/-- Whether an instruction can raise a fault: VPREF none of any kind (R231, Table 12-1). -/
def faultless : Instr → Bool
  | .vpref _ => true
  | _ => false

/-- Whether STALLCHK stops an instruction: one that carries it and would read a register before its fixed-latency writer
lands (R73, R175). -/
def stallTrap (w : Wave) (clock : Nat) (i : Instr) : Bool :=
  w.lane.issue.stallchk && hazard w clock i && !faultless i

/-- Whether an active instruction reads a row whose data ECC cannot correct (R15). -/
def rowBad (w : Wave) (i : Instr) : Bool :=
  active w i != 0 && (readsV w.accF64 i).any w.regs.bad.contains && !faultless i

/-- A lane instruction reaches issue: it waits for its cycle, its scoreboard and its own conditions, traps
STALLCHK or ECC, or goes on with its own effect. One that has issued goes on at once. A row has no virtual address, and
an ECC met in one names 0 (log 81). -/
def laneStart (s : State) (i : Instr) (k : State → State) : State :=
  let s := landDue s
  let w := s.w
  if w.lane.issue.regs.isSome then k s
  else if s.clock < w.lane.nextIssue || scoreboard w i then unissue s
  else if stallTrap w s.clock i || rowBad w i then
    let t := k s
    if waited s t i then t else if stallTrap w s.clock i then laneTrap s 0x02 0 0 else laneTrap s 0x14 0 w.word
  else k s

/-- The instruction has issued: its stall applies to the next (R70), and its results are in flight
with the latency given, or variable. -/
def laneDone (s : State) (i : Instr) (load : Bool) (ws : List (Dest × SMap DWord)) : State :=
  let seq := s.w.lane.seq
  let ws := ws.filter (fun d => !d.2.isEmpty)
  let due := s.clock + (latency i).getD 1 - 1
  let fixed := (latency i).isSome
  let keys := ws.filterMap (fun d => match d.1 with | .v r => some r | .vp n => some (vpKey n) | _ => none)
  let s := modLane s (fun l =>
    { l with
      seq := seq + 1
      nextIssue := s.clock + stallOf i + 1
      inflight := l.inflight ++ ws.map (fun d =>
        { dest := d.1, data := d.2, fixed := fixed, load := load, due := due, seq := seq })
      writers := keys.foldl (fun m k => SMap.put m k { fixed := fixed, due := due }) l.writers })
  { s with w := s.w.runLane s.clock }

/-- A result by lane as register writes: one register, or a pair's two halves. -/
def laneWrites (wide : Bool) (r : Nat) (d : SMap Nat) : List (Dest × SMap DWord) :=
  if wide then
    [(.v r, d.map (fun kv => (kv.1, dw (kv.2 % 2 ^ 32)))), (.v (r + 1), d.map (fun kv => (kv.1, dw (kv.2 / 2 ^ 32))))]
  else [(.v r, d.map (fun kv => (kv.1, dw kv.2)))]

/-- A predicate result by lane. -/
def predWrites (n : Nat) (d : SMap Bool) : List (Dest × SMap DWord) :=
  [(.vp n, d.map (fun kv => (kv.1, if kv.2 then 1 else 0)))]

/-- The FPSTAT update of an instruction, if any lane was active (R86). -/
def statWrites (evs : List FpEv) : List (Dest × SMap DWord) :=
  if fpDelta evs = 0 then [] else [(.fpstat, [(0, fpDelta evs)])]

/-! ### What the scalar stream waits for (R23, R93, R168) -/

/-- Whether an enqueued lane instruction still reads or writes s[n]. -/
def busyS (w : Wave) (n : Nat) : Bool :=
  w.lane.q.any (fun e => (readsS e.i).contains n || (writesS e.i).contains n) ||
  w.lane.inflight.any (fun p => p.dest = .s n)

/-- Whether an enqueued lane instruction still writes s[n]. -/
def writerS (w : Wave) (n : Nat) : Bool :=
  w.lane.q.any (fun e => (writesS e.i).contains n) || w.lane.inflight.any (fun p => p.dest = .s n)

/-- Whether an enqueued lane instruction still writes v[r]. -/
def writerV (w : Wave) (r : Nat) : Bool :=
  w.lane.q.any (fun e => (writesV w.accF64 e.i).contains r) || w.lane.inflight.any (fun p => p.dest = .v r)

/-- Whether one still reads or writes v[r]. -/
def busyV (w : Wave) (r : Nat) : Bool :=
  writerV w r || w.lane.q.any (fun e => (readsV w.accF64 e.i).contains r)

/-- Whether one still writes vp[n]. -/
def writerVp (w : Wave) (n : Nat) : Bool :=
  w.lane.q.any (fun e => (writesVp e.i).contains n) || w.lane.inflight.any (fun p => p.dest = .vp n)

/-- Whether one still reads or writes vp[n]. -/
def busyVp (w : Wave) (n : Nat) : Bool :=
  writerVp w n || w.lane.q.any (fun e => (readsVp e.i).contains n)

/-- A scalar instruction that reads the registers `rs` and writes s[d]: it waits for lane
instructions by R23 and R93, and then has its effect. -/
def scalarOp (s : State) (rs : List Nat) (d : Nat) (k : State → State) : State :=
  if rs.any (writerS s.w) || busyS s.w d then waitHere s else k s

/-- One that only reads scalar registers. -/
def scalarRead (s : State) (rs : List Nat) (k : State → State) : State :=
  if rs.any (writerS s.w) then waitHere s else k s

end Sys2Proof.Machine
end

