-- ==== Sys2Proof/Machine/Agents.lean ====
section
/-! DEFINITION. The accesses of engine agents (R243, R245, R262, R293): whole at the home, outside the
L1, checked by the race detector, and how their faults are delivered. -/

namespace Sys2Proof.Machine

/-- The Acq an agent that a wave starts begins with: what the wave acquired, and its own releases (R242, R246; log 103). -/
def Wave.startAcq (w : Wave) : Nat := Nat.max w.acq w.rel

/-- What an engine's access met. -/
inductive EngOut where
  | ok (bs : List Byte)
  | fault (code : Nat) (va fagent : DWord)
  | page (va : DWord)
  | guard (va : DWord)
  deriving DecidableEq, Repr

/-- The location of each byte of an access, or the first obstacle. -/
def engPlaces (s : State) (a : Agent) (exempt write : Bool) (failed : List Nat) (va : DWord) (n : Nat) :
    Except EngOut (List Loc) :=
  (List.range n).foldlM (fun ls i =>
    let x := va + dw i
    match locate s a.ctx a.part exempt write x with
    | .ok (.aperture _) => .error (.fault 0x07 x 0)
    | .ok .guard => .error (.guard x)
    | .ok l => .ok (ls ++ [l])
    | .trap c => .error (.fault c x 0)
    | .page => .error (if failed.contains x.toNat then .fault 0x06 x 0 else .page x)) []

/-- The race an access of several bytes meets first. -/
def engRace (s : State) (a : Agent) (write : Bool) (va : DWord) (ls : List Loc) : Option (DWord × DWord) :=
  ((List.range ls.length).zip ls).findSome? (fun il => (raceAt s a il.2 write).map (fun w => (va + dw il.1, w)))

/-- An access recorded at each granule it touches. -/
def engNote (s : State) (a : Agent) (write : Bool) (ls : List Loc) : State := ls.foldl (fun s l => noteAccess s a l write) s

/-- A read of an engine agent. -/
def engLoad (s : State) (a : Agent) (exempt : Bool) (failed : List Nat) (va : DWord) (n : Nat) : State × EngOut :=
  match engPlaces s a exempt false failed va n with
  | .error e => (s, e)
  | .ok ls =>
    match engRace s a false va ls with
    | some (x, w) => (s, .fault 0x09 x w)
    | none =>
      if ls.any (fun l => homeEcc s l 1) then (s, .fault 0x14 va a.word)
      else (noteReads (engNote s a false ls) a ls, .ok (ls.flatMap (fun l => homeRead s l 1)))

/-- A write of an engine agent; a line of a codec page named in `blocked` takes nothing (R262), nor does one where a value
merged would not be finite (R258). `late` leaves that test to its caller, but for one whole value. -/
def engStore (s : State) (a : Agent) (exempt late : Bool) (failed blocked : List Nat) (va : DWord) (bs : List Byte) :
    State × EngOut :=
  match engPlaces s a exempt true failed va bs.length with
  | .error e => (s, e)
  | .ok ls =>
    match engRace s a true va ls with
    | some (x, w) => (s, .fault 0x09 x w)
    | none =>
      let hit (l : Loc) : Bool := match l with
        | .codec leaf _ _ off => blocked.contains (clineKey leaf (off / 64))
        | _ => false
      let bad (l : Loc) : Bool := match l with | .codec .. => homeEcc s l 1 | _ => false
      if ls.any bad then (s, .fault 0x14 va a.word)
      else if ls.any hit then (s, .fault 0x0B va 0)
      else
        let t := (ls.zip bs).foldl (fun s lb => homeWrite s lb.1 [lb.2]) s
        if !(late && !(bs.length == 8 && va.toNat % 8 == 0)) && ls.any (fun l => !codecFinite t l 1) then (s, .fault 0x0B va 0)
        else (engNote t a true ls, .ok [])

/-- The codec lines of an access. -/
def engLines (s : State) (a : Agent) (va : DWord) (n : Nat) : List Nat :=
  (List.range n).filterMap (fun i =>
    match locate s a.ctx a.part true true (va + dw i) with
    | .ok (.codec leaf _ _ off) => some (clineKey leaf (off / 64))
    | _ => none)

/-- Whether a decoded line holds a value that is not finite. -/
def lineBad (s : State) (key : Nat) : Bool :=
  match SMap.get? s.clines key with
  | some l => (lineValues l.data).any f64NonFinite
  | none => false

/-- An atomic of an engine agent on an aligned word (folds and counters), which the detector does not check: that of an
unchecked agent leaves no writer (R244). -/
def engAtomic (s : State) (a : Agent) (exempt : Bool) (failed : List Nat) (va : DWord) (size aop x : Nat) : State × EngOut :=
  if va.toNat % size ≠ 0 then (s, .fault 0x05 va 0)
  else
    match engPlaces s a exempt true failed va size with
    | .error e => (s, e)
    | .ok ls =>
      if ls.any (fun l => homeEcc s l 1) then (s, .fault 0x14 va a.word)
      else
        let s := noteReads s a ls
        let old := natOfBytes (ls.flatMap (fun l => homeRead s l 1))
        match atomWrite aop size old x 0 with
        | some v =>
          let t := (ls.zip (bytesOf size v)).foldl (fun s lb => homeWrite s lb.1 [lb.2]) s
          if ls.any (fun l => !codecFinite t l 1) then (s, .fault 0x0B va 0)
          else (if a.race then t else engNote t a true ls, .ok [])
        | none => (s, .ok [])

/-- A release recorded at the granule an address lies in. -/
def engSync (s : State) (a : Agent) (va : DWord) (r : Rel) : State :=
  match locate s a.ctx a.part true true va with
  | .ok l => syncAt s l r
  | _ => s

/-- Whether a wave can still be told of a cause. -/
def waveLives (s : State) (wave : Nat) : Bool :=
  match waveOf s wave with | some w => decide (w.status ≠ .retired) | none => false

/-- A cause delivered imprecisely to the wave that started an agent, or to the context where there
is none (R293, R245; log 15). -/
def deliver (s : State) (a : Agent) (wave task : Option Nat) (lane : Bool) (elpc : DWord) (code : Nat)
    (faddr fagent : DWord) (access : Nat) : State :=
  match wave with
  | some w =>
    if waveLives s w then
      makePending s w code { faddr := faddr, fagent := fagent, lane := lane, elpc := elpc, access := access }
    else post
  | none => post
where
  /-- The record posted to the context. -/
  post : State :=
    postCause s a.ctx a.part
      { code := code, imp := true, await := false, task := task, faddr := faddr, fagent := fagent, access := access,
        agent := a.word }

/-- An agent parks on an access whose translation has V = 0: the record that awaits an answer, and
its ID (R215). -/
def parkAgent (s : State) (a : Agent) (task : Option Nat) (access : Nat) (va : DWord) : State × Nat :=
  postAwait s a.ctx
    { code := 0x06, imp := false, await := true, task := task, faddr := va, fagent := 0, access := access, agent := a.word }

end Sys2Proof.Machine
end

