-- ==== Sys2Proof/Machine/Copy.lean ====
section
/-! DEFINITION. The bulk copy engines and the transform engines (16, R283 to R298): aperture stores,
templates and cards, the walk over the source shape, decompression, conversion, placement, control
blocks and completion. -/

namespace Sys2Proof.Machine

/-! ### Fields -/

/-- Bits [hi:lo] of a record of quadwords. -/
def fieldOf (q : List DWord) (hi lo : Nat) : Nat :=
  q.foldr (fun w n => w.toNat + 2 ^ 64 * n) 0 / 2 ^ lo % 2 ^ (hi + 1 - lo)

/-- A 32-bit field read as signed. -/
def signed32 (n : Nat) : Int := if n < 2 ^ 31 then (n : Int) else (n : Int) - 2 ^ 32

/-- A format of Table 16-3's codes but for raw bytes and FP4. -/
def copyFmt : Nat → Option FFmt
  | 1 => some .f64 | 2 => some .f32 | 3 => some .f16 | 4 => some .bf16 | 5 => some .e4m3' | 6 => some .e5m2
  | _ => none

/-- Bytes of an element; FP4 is a block of eight in 5 bytes. -/
def copyBytes : Nat → Nat
  | 0 => 1 | 1 => 8 | 2 => 4 | 3 => 2 | 4 => 2 | 5 => 1 | 6 => 1 | _ => 5

/-- Elements that one step of the walk takes. -/
def copyWidth (sf df : Nat) : Nat := if sf = 7 || df = 7 then 8 else 1

/-- Bytes from x = 0 to element x of a format. -/
def copySpan (f x : Nat) : Nat := if f = 7 then 5 * x / 8 else copyBytes f * x

/-- Whether some value of one format is not a value of the other (R146). -/
def fmtNarrows (a b : FFmt) : Bool :=
  decide (b.fb < a.fb) || decide (a.qmin < b.qmin) || decide (b.eb < a.eb)

/-! ### Conversion (R288, R90) -/

/-- Bytes of each destination element, the magnitude of each as FP32, and the counts. -/
structure Conv where
  out : List (List Byte × Nat)
  sat : Nat
  flush : Nat
  nan : Nat
  deriving DecidableEq, Repr

/-- A written value's magnitude as FP32, an FP64 one rounded up (R288). -/
def magF32 (v : FVal) : Nat :=
  match v with
  | .nan => FFmt.f32.qnan
  | .inf _ => FFmt.f32.top
  | .fin _ m e => (roundFin .f32 .rup false false m e false).code

/-- The source values of a step. -/
def sourceVals (sf : Nat) (src : List (List Byte)) : List FVal :=
  if sf = 7 then (List.range 8).map (blockElem (src.getD 0 []))
  else match copyFmt sf with
    | some f => src.map (fun b => f.dec (natOfBytes b))
    | none => []

/-- A step's elements converted. -/
def convStep (sf df : Nat) (rnd : Rnd) (sat : Bool) (src : List (List Byte)) : Conv :=
  if sf = df then
    { out := src.map (fun b =>
        let m := match copyFmt df with
          | some f => magF32 (f.dec (natOfBytes b))
          | none => if df = 7 then (List.range 8).foldl (fun a k => fpMinMax .f32 true a (magF32 (blockElem b k))) 0 else 0
        (b, m)), sat := 0, flush := 0, nan := 0 }
  else
    let vs := sourceVals sf src
    if df = 7 then
      let (codes, sc, ns, nf, nn) := quantBlock vs
      let b := packBlock codes sc
      { out := [(b, (List.range 8).foldl (fun a k => fpMinMax .f32 true a (magF32 (blockElem b k))) 0)], sat := ns, flush := nf, nan := nn }
    else
      match copyFmt df with
      | none => { out := [], sat := 0, flush := 0, nan := 0 }
      | some f =>
        let narrow := match copyFmt sf with | some g => fmtNarrows g f | none => true
        let rs := vs.map (cvtFloat f rnd sat narrow)
        { out := rs.map (fun r => (bytesOf (copyBytes df) r.code, magF32 (f.dec r.code)))
          sat := rs.countP (·.ev.sat), flush := rs.countP (·.ev.flush), nan := rs.countP (·.ev.nan) }

/-! ### A run of a job -/

/-- Where an element is written. -/
inductive CDst where
  | mem (va : DWord)
  | record (off : Int)
  deriving DecidableEq, Repr

/-- Where a step's source elements come from. -/
inductive CSrcs where
  | addrs (vas : List DWord)
  | bytes (bs : List (List Byte))
  deriving DecidableEq, Repr

/-- One step of the walk: its source elements and the place of its first destination element. -/
structure CUnit where
  src : CSrcs
  dst : CDst
  deriving DecidableEq, Repr

/-- A job under way: the state, what it wrote and counted, its first fault with the access kind, a first access that parks, the codec lines it
wrote and those where a value was not finite, and whether a record was too small. -/
structure CRun where
  st : State
  nbytes : Nat
  sat : Nat
  flush : Nat
  nan : Nat
  fault : Option (Nat × DWord × DWord × Nat)
  refused : Bool
  recd : Bool
  derr : Bool
  guard : Option DWord
  page : Option (DWord × Nat)
  mag : Option Nat
  lines : List Nat
  bad : List Nat
  short : Bool
  deriving DecidableEq, Repr

/-- A run that has done nothing. -/
def CRun.start (s : State) : CRun :=
  { st := s, nbytes := 0, sat := 0, flush := 0, nan := 0, fault := none, refused := false, recd := false,
    derr := false, guard := none, page := none, mag := none, lines := [], bad := [], short := false }

/-- What a run uses throughout: agent, failed addresses, refused codec lines, formats, mode,
engine, record and the holder test of R184. -/
structure CEnv where
  a : Agent
  failed : List Nat
  blocked : List Nat
  sf : Nat
  df : Nat
  rnd : Rnd
  sat : Bool
  engine : Nat
  wave : Option Nat
  task : Option Nat
  deriving DecidableEq, Repr

/-- An obstacle noted. FADDR of CODEC names the element refused, the first that the job writes to its block (log 109). -/
def CRun.note (r : CRun) (kind : Nat) : EngOut → CRun
  | .ok _ => r
  | .fault c va fg => { r with fault := some (r.fault.getD (c, va, fg, kind)), refused := r.refused || c == 0x0B }
  | .page va => { r with page := some (r.page.getD (va, kind)) }
  | .guard va => { r with guard := some (r.guard.getD va) }

/-- Whether a job may write a record (R184). -/
def recordOpen (s : State) (v : CEnv) (o : Nat) : Option Rec :=
  match SMap.get? (engineOf s v.engine).recs o with
  | some r =>
    let byWave := (v.wave.bind (waveOf s)).any (fun w => r.heldBy s w)
    let byTask := match v.task, r.task with | some e, some f => sameShare (partOf s v.a.part) e f | _, _ => false
    let byItsWave := v.task.isSome && (r.holder.bind (waveOf s)).any (fun w => w.task == v.task)
    if byWave || byTask || byItsWave then some r else none
  | none => none

/-- Bytes written into a record. -/
def recordPut (s : State) (e o off : Nat) (bs : List Byte) : State :=
  modEngine s e (fun en => { en with recs := SMap.adjust en.recs o (fun r =>
    { r with bytes := ((List.range bs.length).zip bs).foldl (fun m ib => SMap.write 0 m (off + ib.1) ib.2) r.bytes }) })

/-- One destination element written. -/
def writeElem (v : CEnv) (drec : Nat) (dst : CDst) (k : Nat) (r : CRun) (b : List Byte × Nat) : CRun :=
  let done (r : CRun) : CRun :=
    { r with nbytes := r.nbytes + b.1.length
             mag := some (match r.mag with | none => b.2 | some m => fpMinMax .f32 true m b.2) }
  match dst with
  | .mem va =>
    let va := va + dw (k * b.1.length)
    let r := { r with lines := r.lines ++ engLines r.st v.a va b.1.length }
    match engStore r.st v.a true true v.failed v.blocked va b.1 with
    | (s, .ok _) => done { r with st := s }
    | (_, e) =>
      let whole := b.1.length = 8 && va.toNat % 8 = 0
      let r := match e with
        | .fault 0x0B _ _ => if whole then { r with bad := r.bad ++ engLines r.st v.a va 8 } else r
        | _ => r
      r.note 1 e
  | .record off =>
    let o := off + (k * b.1.length : Nat)
    match recordOpen r.st v drec with
    | none => { r with recd := true }
    | some x =>
      if o < 0 || ((x.gran * 4096 : Nat) : Int) < o + (b.1.length : Nat) then { r with recd := true }
      else done { r with st := recordPut r.st v.engine drec o.toNat b.1 }

/-- The source elements of a step, read; none when one could not be, as where it touches a guard byte: then the step
writes nothing (log 91). -/
def readUnit (v : CEnv) (r : CRun) (u : CUnit) : CRun × Option (List (List Byte)) :=
  match u.src with
  | .bytes bs => (r, some bs)
  | .addrs vas =>
    vas.foldl (fun x va =>
      match engLoad x.1.st v.a true v.failed va (copyBytes v.sf) with
      | (s, .ok b) => ({ x.1 with st := s }, x.2.map (fun l => l ++ [b]))
      | (_, e) => (x.1.note 0 e, none)) (r, some [])

/-- One step of the walk. -/
def runUnit (v : CEnv) (drec : Nat) (r : CRun) (u : CUnit) : CRun :=
  match readUnit v r u with
  | (r, none) => r
  | (r, some src) =>
    let c := convStep v.sf v.df v.rnd v.sat src
    let r := { r with sat := r.sat + c.sat, flush := r.flush + c.flush, nan := r.nan + c.nan }
    ((List.range c.out.length).zip c.out).foldl (fun r kb => writeElem v drec u.dst kb.1 r kb.2) r

/-! ### The dictionary stream (R289) -/

/-- How a stream ended. -/
inductive StreamEnd where
  | full
  | bad
  | stop (e : EngOut)
  deriving DecidableEq, Repr

/-- Reads of stream bytes: the state, by position. -/
abbrev ByteAt := State → Nat → State × EngOut

/-- A LEB128 value from a position: at most `n` more bytes. -/
def lebAt (rd : ByteAt) (slim : Nat) : Nat → State → Nat → Nat → Nat → State × Except StreamEnd (Nat × Nat)
  | 0, s, _, _, _ => (s, .error .bad)
  | n + 1, s, pos, k, acc =>
    if slim ≤ pos then (s, .error .bad)
    else
      match rd s pos with
      | (s, .ok bs) =>
        let b := (bs.getD 0 0).toNat
        let acc := acc + b % 128 * 2 ^ (7 * k)
        if 128 ≤ b then lebAt rd slim n s (pos + 1) (k + 1) acc
        else if acc < 2 ^ 32 then (s, .ok (acc, pos + 1)) else (s, .error .bad)
      | (s, e) => (s, .error (.stop e))

/-- Literal bytes: output newest first. -/
def litAt (rd : ByteAt) (slim total : Nat) : Nat → State → Nat → List Byte → Nat → State × Nat × List Byte × Nat × Option StreamEnd
  | 0, s, pos, out, n => (s, pos, out, n, none)
  | k + 1, s, pos, out, n =>
    if slim ≤ pos || total ≤ n then (s, pos, out, n, some .bad)
    else
      match rd s pos with
      | (s, .ok bs) => litAt rd slim total k s (pos + 1) (bs.getD 0 0 :: out) (n + 1)
      | (s, e) => (s, pos, out, n, some (.stop e))

/-- A match of bytes from `d` before the end of the output. -/
def matchAt (d total : Nat) : Nat → List Byte → Nat → List Byte × Nat × Bool
  | 0, out, n => (out, n, true)
  | k + 1, out, n =>
    if total ≤ n then (out, n, false) else matchAt d total k (out.getD (d - 1) 0 :: out) (n + 1)

/-- The items of a stream, with fuel of one a byte of the stream. -/
def streamItems (rd : ByteAt) (slim total : Nat) : Nat → State → Nat → List Byte → Nat → State × List Byte × StreamEnd
  | 0, s, _, out, _ => (s, out, .bad)
  | fuel + 1, s, pos, out, n =>
    match lebAt rd slim 5 s pos 0 0 with
    | (s, .error e) => (s, out, e)
    | (s, .ok (l, pos)) =>
      match litAt rd slim total l s pos out n with
      | (s, _, out, _, some e) => (s, out, e)
      | (s, pos, out, n, none) =>
        match lebAt rd slim 5 s pos 0 0 with
        | (s, .error e) => (s, out, e)
        | (s, .ok (m, pos)) =>
          if m = 0 then (s, out, if n = total then .full else .bad)
          else
            match lebAt rd slim 5 s pos 0 0 with
            | (s, .error e) => (s, out, e)
            | (s, .ok (d, pos)) =>
              if d = 0 || n < d then (s, out, .bad)
              else
                match matchAt d total m out n with
                | (out, _, false) => (s, out, .bad)
                | (out, n, true) => streamItems rd slim total fuel s pos out n

/-- A byte string cut into whole elements of `n` bytes. -/
def chunks (n : Nat) (bs : List Byte) : List (List Byte) :=
  (List.range (bs.length / n)).map (fun k => (bs.drop (n * k)).take n)

/-! ### Templates (Table 16-3) -/

namespace Tmpl
/-- NX. -/
def nx (t : List DWord) : Nat := fieldOf t 351 320
/-- NY. -/
def ny (t : List DWord) : Nat := fieldOf t 383 352
/-- NZ. -/
def nz (t : List DWord) : Nat := fieldOf t 415 384
/-- SFMT. -/
def sfmt (t : List DWord) : Nat := fieldOf t 707 704
/-- DFMT. -/
def dfmt (t : List DWord) : Nat := fieldOf t 711 708
/-- RND. -/
def rnd (t : List DWord) : Rnd := match fieldOf t 713 712 with | 0 => .rne | 1 => .rtz | 2 => .rup | _ => .rdn
/-- SAT. -/
def sat (t : List DWord) : Bool := fieldOf t 714 714 == 1
/-- FOLD. -/
def fold (t : List DWord) : Bool := fieldOf t 715 715 == 1
/-- DKIND. -/
def dkind (t : List DWord) : Nat := fieldOf t 717 716
/-- CODEC. -/
def codec (t : List DWord) : Nat := fieldOf t 719 718
/-- DREC. -/
def drec (t : List DWord) : Nat := fieldOf t 723 720
/-- MREC. -/
def mrec (t : List DWord) : Nat := fieldOf t 727 724
/-- CTASK. -/
def ctask (t : List DWord) : Nat := fieldOf t 743 728
/-- CKIND. -/
def ckind (t : List DWord) : Nat := fieldOf t 745 744
/-- SBASE. -/
def sbase (t : List DWord) : DWord := t.getD 0 0
/-- DBASE. -/
def dbase (t : List DWord) : DWord := t.getD 1 0
/-- CBASE. -/
def cbase (t : List DWord) : DWord := t.getD 2 0
/-- CTGT. -/
def ctgt (t : List DWord) : DWord := t.getD 3 0
/-- FOLDA. -/
def folda (t : List DWord) : DWord := t.getD 4 0

/-- K elements a step of a matrix operand takes (R87). -/
def stepWidth : Nat → Nat
  | 7 => 8 | 5 => 4 | 6 => 4 | 3 => 2 | 4 => 2 | _ => 1

/-- Whether a template is valid (R293, R287, R290), but for the vault that a B-slice destination names. -/
def ok (t : List DWord) : Bool :=
  fieldOf t 1023 800 == 0 && fieldOf t 767 746 == 0 &&
  decide (ckind t ≤ 2) && decide (codec t ≤ 2) && decide (dkind t ≤ 2) && decide (dfmt t ≤ 7) && decide (sfmt t ≤ 7) &&
  ((sfmt t == 0) == (dfmt t == 0)) &&
  (copyWidth (sfmt t) (dfmt t) == 1 || nx t % 8 == 0) &&
  (if codec t = 2 then
     dkind t == 1 && nz t == 1 && decide (ny t ≤ 128) && dfmt t != 0 && dfmt t != 2 &&
     nx t % stepWidth (dfmt t) == 0 && decide (nx t / stepWidth (dfmt t) ≤ 4096)
   else
     (match dkind t with
      | 1 => zeroBits (dbase t) 63 20
      | 2 =>
        vaSpace (dbase t) == 0xE && decide (vaOff (dbase t) % 2 ^ 25 < 0x800000) && nz t == 1 && decide (ny t ≤ 128) &&
        decide (vaOff (dbase t) % 2 ^ 25 + copySpan (dfmt t) (nx t) ≤ 0x10000)
      | _ => true))

/-- The points (x, y, z) of the shape at which steps of the walk begin, in order. -/
def points (t : List DWord) : List (Nat × Nat × Nat) :=
  let w := copyWidth (sfmt t) (dfmt t)
  (List.range (nz t)).flatMap (fun z => (List.range (ny t)).flatMap (fun y =>
    (List.range (nx t / w)).map (fun x => (w * x, y, z))))

/-- The source addresses of a step (R287). -/
def srcAt (t : List DWord) (p : Int) (x y z : Nat) : List DWord :=
  let base : Int := (sbase t).toNat + p * signed32 (fieldOf t 575 544) + y * signed32 (fieldOf t 447 416) + z * signed32 (fieldOf t 479 448)
  let n := if sfmt t = 7 then 1 else copyWidth (sfmt t) (dfmt t)
  (List.range n).map (fun k => dwI (base + copySpan (sfmt t) (x + k)))

/-- The destination of a step's first element (R287). -/
def dstAt (t : List DWord) (p : Int) (x y z : Nat) : CDst :=
  let part : Int := p * signed32 (fieldOf t 607 576) + copySpan (dfmt t) x + y * signed32 (fieldOf t 511 480) + z * signed32 (fieldOf t 543 512)
  match dkind t with
  | 1 => .record (bits (dbase t) 19 0 + part)
  | 2 => .mem (dbase t + dw (y * 0x10000 + copySpan (dfmt t) x))
  | _ => .mem (dwI ((dbase t).toNat + part))
end Tmpl

/-! ### Bitmap-pack (R290) -/

/-- The converted rows of a bitmap-pack job: each row's steps, each step the bytes of its elements. -/
def packRows (v : CEnv) (t : List DWord) (p : Int) (r : CRun) : CRun × List (List (List Byte × Bool)) :=
  let w := Tmpl.stepWidth v.df
  (List.range (Tmpl.ny t)).foldl (fun acc y =>
    let (r, row) := (List.range (Tmpl.nx t / copyWidth v.sf v.df)).foldl (fun (x : CRun × List (List Byte)) i =>
      let u : CUnit := { src := .addrs (Tmpl.srcAt t p (copyWidth v.sf v.df * i) y 0), dst := .record 0 }
      match readUnit v x.1 u with
      | (r, some src) =>
        let c := convStep v.sf v.df v.rnd v.sat src
        let m := c.out.foldl (fun m b => some (match m with | none => b.2 | some k => fpMinMax .f32 true k b.2)) r.mag
        ({ r with sat := r.sat + c.sat, flush := r.flush + c.flush, nan := r.nan + c.nan, mag := m }, x.2 ++ c.out.map (·.1))
      | (r, none) =>
        (r, x.2 ++ (if v.df = 7 then [List.replicate 5 0] else List.replicate (copyWidth v.sf v.df) (List.replicate (copyBytes v.df) 0)))) (acc.1, [])
    -- elements (FP4 blocks) of a step, and whether one of them is nonzero
    let per := if v.df = 7 then 1 else w
    let steps := (List.range (row.length / per)).map (fun k =>
      let es := (row.drop (per * k)).take per
      let nonzero := es.any (fun b =>
        if v.df = 7 then (List.range 8).any (fun j => (match blockElem b j with | .fin _ m _ => m != 0 | _ => true))
        else natOfBytes b % 2 ^ (8 * b.length - 1) != 0)
      (es.flatten, nonzero))
    (r, acc.2 ++ [steps])) (r, [])

/-- The bitmap record of surviving steps (R180): the level-1 word and the level-2 words. -/
def bitmapBytes (n : Nat) (survives : Nat → Bool) : List Byte :=
  let groups := List.range 64
  let word (g : Nat) : Nat := (List.range 64).foldl (fun a i => if 64 * g + i < n && survives (64 * g + i) then a + 2 ^ i else a) 0
  let l1 := groups.foldl (fun a g => if word g ≠ 0 then a + 2 ^ g else a) 0
  bytesOf 8 l1 ++ (groups.filter (fun g => word g ≠ 0)).flatMap (fun g => bytesOf 8 (word g))

/-- One record of a bitmap-pack job written: by the test of R184, and where it is large enough (R290). -/
def packRecord (v : CEnv) (o : Nat) (bs : List Byte) (r : CRun) : CRun × Bool :=
  match recordOpen r.st v o with
  | none => ({ r with recd := true }, false)
  | some x =>
    if x.gran * 4096 < bs.length then ({ r with short := true }, false)
    else ({ r with st := recordPut r.st v.engine o 0 bs, nbytes := r.nbytes + bs.length }, true)

/-- A bitmap-pack job; the magnitude is of what it wrote (R288). -/
def runPack (v : CEnv) (t : List DWord) (p : Int) (r : CRun) : CRun :=
  let (r, rows) := packRows v t p r
  let n := Tmpl.nx t / Tmpl.stepWidth v.df
  let survives (k : Nat) : Bool := rows.any (fun row => (row.getD k ([], false)).2)
  let kept := (List.range n).filter survives
  let data := rows.flatMap (fun row => kept.flatMap (fun k => (row.getD k ([], false)).1))
  let (r, wrote) := packRecord v (Tmpl.drec t) data r
  let (r, _) := packRecord v (Tmpl.mrec t) (bitmapBytes n survives) r
  if wrote then r else { r with mag := none }

/-! ### A whole template job -/

/-- A job's walk under a set of refused codec lines. -/
def runTemplate (v : CEnv) (t : List DWord) (p : Int) (s : State) : CRun :=
  let r := CRun.start s
  if Tmpl.nx t * Tmpl.ny t * Tmpl.nz t = 0 then r
  else if Tmpl.codec t = 2 then runPack v t p r
  else
    let pts := Tmpl.points t
    if Tmpl.codec t = 1 then
      let base : DWord := dwI ((Tmpl.sbase t).toNat + p * signed32 (fieldOf t 575 544))
      let lim := fieldOf t 799 768
      let slim := if lim = 0 then 2 ^ 32 else lim
      let es := copyBytes v.sf
      let total := if v.sf = 7 then 5 * (Tmpl.nx t * Tmpl.ny t * Tmpl.nz t / 8) else es * (Tmpl.nx t * Tmpl.ny t * Tmpl.nz t)
      let rd : ByteAt := fun s k => engLoad s v.a true v.failed (base + dw k) 1
      let (s, out, e) := streamItems rd slim total slim s 0 [] 0
      let r := { r with st := s }
      let r := match e with
        | .full => r
        | .bad => { r with derr := true }
        | .stop x => r.note 0 x
      let els := chunks es out.reverse
      let per := if v.sf = 7 then 1 else copyWidth v.sf v.df
      ((List.range pts.length).zip pts).foldl (fun r ip =>
        let bs := (els.drop (per * ip.1)).take per
        if bs.length < per then r
        else runUnit v (Tmpl.drec t) r { src := .bytes bs, dst := Tmpl.dstAt t p ip.2.1 ip.2.2.1 ip.2.2.2 }) r
    else
      pts.foldl (fun r q =>
        runUnit v (Tmpl.drec t) r { src := .addrs (Tmpl.srcAt t p q.1 q.2.1 q.2.2), dst := Tmpl.dstAt t p q.1 q.2.1 q.2.2 }) r

/-- A run made again, within `fuel` times, until no more codec lines are found that would take a value which is not finite:
those take nothing (R262). One more line, the first in the job's order, is refused each time: an element that a refused line
keeps from being written may leave the line beside it finite. -/
def runAgain (run : List Nat → CRun) : Nat → List Nat → CRun
  | 0, blocked => run blocked
  | fuel + 1, blocked =>
    let r := run blocked
    match r.lines.find? (fun k => !blocked.contains k && (r.bad.contains k || lineBad r.st k)) with
    | none => r
    | some k => runAgain run fuel (k :: blocked)

/-- A run with every such line found: each time finds one more. -/
def runClean (run : List Nat → CRun) : CRun :=
  let r := run []
  if r.lines.isEmpty then r else runAgain run r.lines.length []

/-- The largest magnitude folded into a word (R288). -/
def runFold (v : CEnv) (fold : Bool) (folda : DWord) (r : CRun) : CRun :=
  match r.mag with
  | some m =>
    if fold && v.df ≠ 0 then
      match engAtomic r.st v.a true v.failed folda 4 11 m with
      | (s, .ok _) => { r with st := s }
      | (_, e) => r.note 2 e
    else r
  | none => r

/-! ### Completion (R291, R292) -/

/-- The status bits of a run (Table 16-5). -/
def runStatus (r : CRun) (invalid conv : Bool) : Nat :=
  1 + (if conv then 2 else 0) + (if r.derr then 4 else 0) + (if r.fault.isSome || r.short then 8 else 0) +
    (if r.refused then 16 else 0) + (if r.recd then 32 else 0) + (if invalid then 64 else 0)

/-- Whether a count passes its threshold; 0xFFFF_FFFF never fires (R90). -/
def passes (n th : Nat) : Bool := th != 0xFFFFFFFF && decide (th < Nat.min n 0xFFFFFFFF)

/-- The eight quadwords of a control block. -/
def controlBlock (r : CRun) (status tsat tflush tnan : Nat) : List DWord :=
  let c (n : Nat) : Nat := Nat.min n 0xFFFFFFFF
  [dw status, dw r.nbytes, dw (c r.sat + c r.flush * 2 ^ 32), dw (c r.nan), dw (tsat + tflush * 2 ^ 32), dw tnan, 0, 0]

/-- A fault met at a completion write: its cause, FADDR, FAGENT and access kind. -/
abbrev Met := Nat × DWord × DWord × Nat

/-- What an engine's access met, as a fault of an access kind. -/
def EngOut.met (kind : Nat) : EngOut → Option Met
  | .ok _ => none
  | .fault c va fg => some (c, va, fg, kind)
  | .page va => some (0x06, va, 0, kind)
  | .guard va => some (0x08, va, 0, kind)

/-- A control block written: by plain writes, but for STATUS, which shares its granule with BYTES (R291, R292). -/
def putBlock (s : State) (a : Agent) (va : DWord) (q : List DWord) : State × Option Met :=
  if va.toNat % 64 ≠ 0 then (s, some (0x05, va, 0, 1))
  else match engStore s a true false [] [] va (bytesOfQuads q) with
    | (s, e) => (s, e.met 1)

/-- A completion record written, as a release (R297): the detector neither checks it nor records it, but that an unchecked
agent's leaves no writer. -/
def putRecord (s : State) (a : Agent) (va : DWord) (q : List DWord) : State × Option Met :=
  if va.toNat % 32 ≠ 0 then (s, some (0x05, va, 0, 1))
  else match engStore s { a with race := false } true false [] [] va (bytesOfQuads q) with
    | (t, e) => (if a.race then { t with grans := s.grans } else t, e.met 1)

/-- The faults of a run delivered: the first fault, that of a completion write if the walk met none, and the first
touched guard byte (R206, R293). -/
def deliverRun (s : State) (a : Agent) (wave task : Option Nat) (lane : Bool) (elpc : DWord) (r : CRun)
    (extra : List Met) : State :=
  let faults := r.fault.toList ++ extra.filter (fun e => e.1 ≠ 0x08)
  let guards := r.guard.toList ++ (extra.filter (fun e => e.1 = 0x08)).map (·.2.1)
  let s := match faults with
    | (c, va, fg, k) :: _ => deliver s a wave task lane elpc c va fg k
    | [] => s
  match guards with
  | va :: _ => deliver s a wave task lane elpc 0x08 va 0 0
  | [] => s

/-- A run of an invalid job or card: PROT at its template or card is the first fault (R293). -/
def CRun.invalidAt (r : CRun) (invalid : Bool) (va : DWord) : CRun :=
  if invalid then { r with fault := some (0x07, va, 0, 0) } else r

/-! ### Copy jobs -/

/-- A job as an agent: copy channel `ch` of a cluster. -/
def Job.agent (j : Job) (die cluster ch : Nat) : Agent :=
  { uid := j.uid, word := agentWord 2 die cluster ch, ctx := j.ctx, part := j.part, core := Config.cores + cluster, slot := 0,
    race := j.race, acq := j.acq, starter := j.wave }

/-- A job's parameter. -/
def Job.param (j : Job) : Int := signed32 (bits j.value 47 16)

/-- A job's template address. -/
def Job.tmplAt (j : Job) : DWord := j.tmpl + dw (128 * bits j.value 15 0)

/-- The allocations of a partition that `n` bytes at an address touch. -/
def touchedAllocs (p : Part) (va : DWord) (n : Nat) : List Nat :=
  if vaSpace va = 0xE && decide (0 < n) then
    (p.allocs.filter (fun ia =>
      ia.2.vault = vaOff va / 2 ^ 25 % 64 && decide (ia.2.start < vaOff va % 2 ^ 25 + n) &&
      decide (vaOff va % 2 ^ 25 < ia.2.start + ia.2.size))).map (·.1)
  else []

/-- The allocations a job writes: by its rows, its fold, its control block and its counter (R298). -/
def jobAllocs (s : State) (j : Job) (t : List DWord) : List Nat :=
  let p := partOf s j.part
  let rows := if Tmpl.dkind t = 0 && Tmpl.codec t ≠ 2 then
      (List.range (Tmpl.nz t)).flatMap (fun z => (List.range (Tmpl.ny t)).flatMap (fun y =>
        match Tmpl.dstAt t j.param 0 y z with
        | .mem va => touchedAllocs p va (copySpan (Tmpl.dfmt t) (Tmpl.nx t))
        | .record _ => []))
    else []
  let sel := bits j.value 63 48
  (rows ++ (if Tmpl.fold t then touchedAllocs p (Tmpl.folda t) 4 else []) ++
    (if sel ≠ 0xFFFF then touchedAllocs p (Tmpl.cbase t + dw (64 * sel)) 64 else []) ++
    (if Tmpl.ckind t = 2 then touchedAllocs p (Tmpl.ctgt t) 8 else [])).eraseDups

/-- Whether a B-slice destination names a vault of the partition (R287, R293). -/
def sliceNamed (s : State) (part : Nat) (t : List DWord) : Bool :=
  let va := Tmpl.dbase t
  Tmpl.dkind t ≠ 2 || Tmpl.codec t = 2 ||
  ((vaDie va = 0xFFF || vaDie va = s.dieid.toNat) && decide (vaOff va / 2 ^ 25 < (partOf s part).clusters.length))

/-- The records a job writes. -/
def jobRecs (t : List DWord) : List Nat :=
  if Tmpl.codec t = 2 then [Tmpl.drec t, Tmpl.mrec t] else if Tmpl.dkind t = 1 then [Tmpl.drec t] else []

/-- Whether a copy is in flight into record `o` of an engine: a job of its cluster that has begun writes it (R183). -/
def copyInto (s : State) (e o : Nat) : Bool :=
  (List.range 16).any (fun ch =>
    (channelOf s e ch).head?.any (fun j => j.begun && !j.invalid && (jobRecs j.fields).contains o))

/-- The head of a channel changed. -/
def modHead (s : State) (c ch : Nat) (f : Job → Job) : State :=
  match channelOf s c ch with
  | j :: l => setChannel s c ch (f j :: l)
  | [] => s

/-- The 16 quadwords of a template or card as its engine reads them: a read that touches a guard byte gives zeros and that
byte (R206), any other obstacle nothing (R293). -/
def readFields (s : State) (a : Agent) (va : DWord) : State × Option (List DWord) × Option DWord :=
  match engLoad s a true [] va 128 with
  | (s, .ok b) => (s, some (quadsOfBytes 16 b), none)
  | (s, .guard g) => (s, some (List.replicate 16 0), some g)
  | (s, _) => (s, none, none)

/-- The job at the head of a channel begins: it reads its template (R285, R286, R293). -/
def beginJob (s : State) (c ch : Nat) : State :=
  match channelOf s c ch with
  | [] => s
  | j :: _ =>
    if j.begun then s
    else if 4096 ≤ bits j.value 15 0 then modHead s c ch (fun j => { j with begun := true, invalid := true })
    else
      let a := j.agent s.dieid.toNat c ch
      match readFields s a j.tmplAt with
      | (s, none, _) => modHead s c ch (fun j => { j with begun := true, invalid := true })
      | (s, some t, g) =>
        let s := match g with | some x => deliver s a j.wave j.task j.lane j.elpc 0x08 x 0 0 | none => s
        let good := Tmpl.ok t && sliceNamed s j.part t
        let al := if good then jobAllocs s j t else []
        let s := al.foldl (fun s i => modAlloc s j.part i (fun a => { a with copies := a.copies + 1 })) s
        modHead s c ch (fun j => { j with begun := true, fields := t, invalid := !good, fetched := true, allocs := al })

/-- The walk of a job, under the lines that take nothing. -/
def jobRun (s : State) (c ch : Nat) (j : Job) : CRun :=
  if j.invalid then CRun.start s
  else
    let t := j.fields
    let env (bl : List Nat) : CEnv :=
      { a := j.agent s.dieid.toNat c ch, failed := j.failed, blocked := bl, sf := Tmpl.sfmt t, df := Tmpl.dfmt t,
        rnd := Tmpl.rnd t, sat := Tmpl.sat t, engine := c, wave := j.wave, task := j.task }
    runFold (env []) (Tmpl.fold t) (Tmpl.folda t) (runClean (fun bl => runTemplate (env bl) t j.param s))

/-- A job completes after its walk (R292, R293): publication, control block, target, threshold and
faults; the channel goes on. -/
def finishJob (c ch : Nat) (j : Job) (r : CRun) : State :=
  let t := j.fields
  let a := j.agent r.st.dieid.toNat c ch
  let s := setChannel r.st c ch (channelOf r.st c ch).tail
  let (ts, tf, tn) := (fieldOf t 639 608, fieldOf t 671 640, fieldOf t 703 672)
  let conv := !j.invalid && (passes r.sat ts || passes r.flush tf || passes r.nan tn)
  let sel := bits j.value 63 48
  let cb := Tmpl.cbase t + dw (64 * sel)
  let useCb := sel != 0xFFFF && j.fetched && (!j.invalid || (Tmpl.cbase t).toNat % 64 == 0)
  let (s, f1) := if useCb then putBlock s a cb (controlBlock r (runStatus r j.invalid conv) ts tf tn) else (s, none)
  let (s, n) := publishFor s j.uid j.part a.core j.wave
  let rel : Rel := { n := n, scope := 3, core := a.core, part := j.part, ctx := j.ctx }
  let s := if useCb && f1.isNone then engSync s a cb rel else s
  let target (s : State) : State × Option Met :=
    match j.task with
    | some e => (jobDone s j.part e n, none)
    | none =>
      if !j.fetched then (s, none)
      else match Tmpl.ckind t with
        | 1 => (signalTask s j.part (Tmpl.ctask t) n, none)
        | 2 =>
          if (Tmpl.ctgt t).toNat % 8 ≠ 0 then (s, if j.invalid then none else some (0x05, Tmpl.ctgt t, 0, 2))
          else match engAtomic s a true [] (Tmpl.ctgt t) 8 0 1 with
            | (s, .ok _) => (engSync s a (Tmpl.ctgt t) rel, none)
            | (_, e) => (s, e.met 2)
        | _ => (s, none)
  let (s, f2) := target s
  let s := if conv || r.derr then
      postCause s j.ctx j.part
        { code := 0x12, imp := true, await := false, task := j.task, faddr := 0, fagent := 0, access := 0, agent := a.word }
    else s
  let s := deliverRun s a j.wave j.task j.lane j.elpc (r.invalidAt j.invalid j.tmplAt) (f1.toList ++ f2.toList)
  let s := j.allocs.foldl (fun s i => modAlloc s j.part i (fun a => { a with copies := a.copies - 1 })) s
  match j.cmd with
  | some k => completeCmd s j.ctx k 0 0
  | none => s

/-- A begun job completes, or parks on its first access whose translation has V = 0. -/
def completeJob (s : State) (c ch : Nat) : State :=
  match channelOf s c ch with
  | [] => s
  | j :: _ =>
    if !j.begun || j.parked.isSome then s
    else
      let r := jobRun s c ch j
      match r.page with
      | some (va, kind) =>
        let (s, id) := parkAgent s (j.agent s.dieid.toNat c ch) j.task kind va
        modHead s c ch (fun j => { j with parked := some id })
      | none => finishJob c ch j r

/-! ### Aperture stores (R204, R284, R295) -/

/-- Who stores to an aperture, and with what. -/
structure ApFrom where
  wave : Nat
  ctx : Nat
  part : Nat
  lane : Bool
  elpc : DWord
  tmpl : DWord
  acq : Nat
  race : Bool
  deriving DecidableEq, Repr

/-- The focus wave as the source of an aperture store. -/
def apWave (s : State) (lane : Bool) (elpc tmpl : DWord) (race : Bool) : ApFrom :=
  { wave := s.w.id, ctx := s.w.ctx, part := s.w.part, lane := lane, elpc := elpc, tmpl := tmpl, acq := s.w.startAcq,
    race := race }

/-- The cluster and channel of a copy aperture offset (Table 11-3). -/
def apChannel (s : State) (part off : Nat) : Nat × Nat :=
  ((partOf s part).clusters.getD (off / 0x1000) 0, off / 0x100 % 16)

/-- Whether the aperture takes a store now: a copy channel needs a free entry. -/
def apRoom (s : State) (part off : Nat) : Bool :=
  decide (0x40000 ≤ off) || decide ((channelOf s (apChannel s part off).1 (apChannel s part off).2).length < 16)

/-- A job of a start value, not begun. -/
def Job.fresh (uid : Nat) (v : DWord) (x : ApFrom) : Job :=
  { uid := uid, value := v, tmpl := x.tmpl, ctx := x.ctx, part := x.part, wave := some x.wave, task := none, cmd := none,
    lane := x.lane, elpc := x.elpc, acq := x.acq, race := x.race, begun := false, fields := [], invalid := false,
    fetched := false, parked := none, failed := [], allocs := [] }

/-- The descriptor of ring r of a context (Table 16-6). -/
def ringDesc (s : State) (ctx r : Nat) : Option (List DWord) :=
  match engQuads s ctx (ctxOf s ctx).part true ((ctxOf s ctx).rt + dw (64 * r)) 8 with
  | .ok q => some q
  | .error _ => none

/-- Whether a kick's producer index lies ahead of a card index. -/
def KRing.ahead (k : KRing) (n : Nat) : Bool := decide (0 < diff32 k.prod.toNat n) && decide (diff32 k.prod.toNat n < 2 ^ 31)

/-- Kicks, oldest first, without those whose cards have all been taken; the newest stays. -/
def kicksLeft (l : List KRing) (jhead : Nat) : List KRing :=
  l.dropLast.filter (fun k => k.ahead jhead) ++ l.getLast?.toList

/-- A kick of a ring: accepted unless its producer index lies behind the last one or too far ahead
(R295); a descriptor that cannot be read accepts none (log 16), and before a ring's first kick the last one is taken to
stand at JHEAD (log 92). -/
def kickRing (s : State) (x : ApFrom) (v : DWord) : State :=
  let r := bits v 5 0
  let prod := bits v 47 16
  match ringDesc s x.ctx r with
  | none => s
  | some q =>
    let jhead := fieldOf q 159 128
    let kicks := SMap.getD (ctxOf s x.ctx).kicks r []
    let last := match kicks.getLast? with | some k => k.prod.toNat | none => jhead
    if 2 ^ 31 ≤ diff32 prod last || 2 ^ fieldOf q 236 232 < diff32 prod jhead then s
    else
      let k : KRing :=
        { prod := BitVec.ofNat 32 prod, wave := x.wave, lane := x.lane, elpc := x.elpc, acq := x.acq, race := x.race,
          part := x.part }
      modCtx s x.ctx (fun c => { c with kicks := SMap.put c.kicks r (kicksLeft (kicks ++ [k]) jhead) })

/-- An accepted aperture store. -/
def apStore (s : State) (x : ApFrom) (off : Nat) (v : DWord) : State :=
  if 0x40000 ≤ off then kickRing s x v
  else
    let (c, ch) := apChannel s x.part off
    let (s, uid) := freshId s
    setChannel s c ch (channelOf s c ch ++ [Job.fresh uid v x])

/-! ### Cards (R294 to R297) -/

/-- Whether a card is valid. -/
def cardOk (q : List DWord) : Bool :=
  let op := fieldOf q 387 384
  let sf := fieldOf q 391 388
  let df := fieldOf q 395 392
  fieldOf q 1023 512 == 0 && fieldOf q 415 399 == 0 && decide (op ≤ 3) && decide (sf ≤ 7) && decide (df ≤ 7) &&
  (match op with
   | 1 => ((sf == 0) == (df == 0)) && (copyWidth sf df == 1 || fieldOf q 223 192 % 8 == 0)
   | 2 => sf == df && sf != 7
   | 3 => fieldOf q 223 192 % 8 == 0
   | _ => true)

/-- The steps of a card's walk. -/
def cardUnits (q : List DWord) : List CUnit :=
  let (sf, df) := (fieldOf q 391 388, fieldOf q 395 392)
  let (nx, ny) := (fieldOf q 223 192, fieldOf q 255 224)
  let (ssy, dsy) := (signed32 (fieldOf q 287 256), signed32 (fieldOf q 319 288))
  let src : Int := (q.getD 0 0).toNat
  let dst : Int := (q.getD 1 0).toNat
  match fieldOf q 387 384 with
  | 1 =>
    let w := copyWidth sf df
    let n := if sf = 7 then 1 else w
    (List.range ny).flatMap (fun y => (List.range (nx / w)).map (fun x =>
      { src := .addrs ((List.range n).map (fun k => dwI (src + copySpan sf (w * x + k) + y * ssy)))
        dst := .mem (dwI (dst + copySpan df (w * x) + y * dsy)) }))
  | 2 =>
    let e := copyBytes sf
    (List.range ny).flatMap (fun y => (List.range nx).map (fun x =>
      { src := .addrs [dwI (src + x * (e : Int) + y * ssy)], dst := .mem (dwI (dst + y * (e : Int) + x * dsy)) }))
  | 3 =>
    (List.range ny).flatMap (fun y => (List.range (nx / 8)).map (fun x =>
      { src := .bytes [bytesOf 8 (q.getD 5 0).toNat], dst := .mem (dwI (dst + ((8 * x : Nat) : Int) + y * dsy)) }))
  | _ => []

/-- The kicks of a ring, of those given, that announce cards no engine has taken. -/
def kicksAhead (s : State) (ctx r : Nat) (ks : List KRing) : List KRing :=
  match ringDesc s ctx r with
  | some q => ks.filter (fun k => k.ahead (fieldOf q 159 128))
  | none => []

/-- The rings an engine may take a card from: key `64·context + ring`, in order, with work and room
for a record. -/
def ringsReady (s : State) (e : Nat) : List Nat :=
  s.contexts.flatMap (fun kc =>
    if !kc.2.resident || kc.2.switching.isSome then []
    else kc.2.kicks.filterMap (fun rk =>
      if rk.1 % 8 ≠ e then none
      else match ringDesc s kc.1 rk.1 with
        | none => none
        | some q =>
          if rk.2.any (fun k => k.ahead (fieldOf q 159 128)) &&
             decide (diff32 (fieldOf q 191 160) (fieldOf q 223 192) < 2 ^ fieldOf q 244 240)
          then some (64 * kc.1 + rk.1) else none))

/-- The next ring in the round, after the one served last. -/
def nextRing (s : State) (e : Nat) : Option Nat :=
  let rs := ringsReady s e
  match SMap.get? s.cardTurn e with
  | some t => (rs.find? (fun k => t < k)).or rs.head?
  | none => rs.head?

/-- A card's job as an agent. -/
def Card.agent (c : Card) (die e : Nat) : Agent :=
  { uid := c.uid, word := agentWord 5 die 0 e, ctx := c.ctx, part := c.kick.part, core := Config.cores + Config.clusters, slot := 0,
    race := c.kick.race, acq := c.kick.acq, starter := some c.kick.wave }

/-- An idle engine takes the next card of its next ring: JHEAD advances (R296). -/
def takeCard (s : State) (e : Nat) : State :=
  if (SMap.get? s.cards e).isSome then s
  else match nextRing s e with
    | none => s
    | some k =>
      let (ctx, r) := (k / 64, k % 64)
      let kicks := SMap.getD (ctxOf s ctx).kicks r []
      let owner (q : List DWord) : Option KRing := kicks.find? (fun k => k.ahead (fieldOf q 159 128))
      match ringDesc s ctx r, (ringDesc s ctx r).bind owner with
      | some q, some kick =>
        let n := fieldOf q 159 128
        let s := modCtx s ctx (fun c => { c with kicks := SMap.put c.kicks r (kicksLeft kicks ((n + 1) % 2 ^ 32)) })
        let va := q.getD 0 0 + dw (128 * (n % 2 ^ fieldOf q 236 232))
        let (s, uid) := freshId s
        let c : Card :=
          { uid := uid, ctx := ctx, ring := r, n := BitVec.ofNat 32 n, fields := [], invalid := true, kick := kick,
            parked := none, failed := [] }
        let a := c.agent s.dieid.toNat e
        let (s, c) := match readFields s a va with
          | (s, none, _) => (s, c)
          | (s, some q, g) =>
            (match g with | some x => deliver s a (some kick.wave) none kick.lane kick.elpc 0x08 x 0 0 | none => s,
             { c with fields := q, invalid := !cardOk q })
        let s := engWrite s ctx kick.part true ((ctxOf s ctx).rt + dw (64 * r + 16)) (bytesOf 4 ((n + 1) % 2 ^ 32))
        { s with cards := SMap.put s.cards e c, cardTurn := SMap.put s.cardTurn e k }
      | _, _ => s

/-- The walk of a card. -/
def cardRun (s : State) (e : Nat) (c : Card) : CRun :=
  if c.invalid then CRun.start s
  else
    let q := c.fields
    let fill := fieldOf q 387 384 = 3
    let env (bl : List Nat) : CEnv :=
      { a := c.agent s.dieid.toNat e, failed := c.failed, blocked := bl, sf := if fill then 0 else fieldOf q 391 388,
        df := if fill then 0 else fieldOf q 395 392,
        rnd := (match fieldOf q 397 396 with | 0 => .rne | 1 => .rtz | 2 => .rup | _ => .rdn),
        sat := fieldOf q 398 398 == 1, engine := 0, wave := none, task := none }
    runClean (fun bl => (cardUnits q).foldl (runUnit (env bl) 0) (CRun.start s))

/-- A card completes after its walk (R297): publication, control block, record, CTAIL, threshold. -/
def finishCard (e : Nat) (c : Card) (r : CRun) : State :=
  let a := c.agent r.st.dieid.toNat e
  let q := c.fields
  let s := { r.st with cards := SMap.del r.st.cards e }
  let (ts, tf, tn) := (fieldOf q 447 416, fieldOf q 479 448, fieldOf q 511 480)
  let conv := !c.invalid && (passes r.sat ts || passes r.flush tf || passes r.nan tn)
  let st := runStatus r c.invalid conv
  let jcb := q.getD 2 0
  let useCb := jcb != 0 && (!c.invalid || jcb.toNat % 64 == 0)
  let (s, f1) := if useCb then putBlock s a jcb (controlBlock r st ts tf tn) else (s, none)
  let (s, n) := publishFor s c.uid c.kick.part a.core (some c.kick.wave)
  let rel : Rel := { n := n, scope := 3, core := a.core, part := c.kick.part, ctx := c.ctx }
  let s := if useCb && f1.isNone then engSync s a jcb rel else s
  let desc := (ctxOf s c.ctx).rt + dw (64 * c.ring)
  let (s, f2) := match ringDesc s c.ctx c.ring with
    | none => (s, none)
    | some d =>
      let tail := fieldOf d 191 160
      let va := d.getD 1 0 + dw (32 * (tail % 2 ^ fieldOf d 244 240))
      let (s, f) := putRecord s a va [dw (c.n.toNat + st * 2 ^ 32), dw r.nbytes, jcb, 0]
      let s := if f.isNone then engSync s a va rel else s
      (engWrite s c.ctx c.kick.part true (desc + 20) (bytesOf 4 ((tail + 1) % 2 ^ 32)), f)
  let s := if conv || r.derr then
      postCause s c.ctx c.kick.part
        { code := 0x12, imp := true, await := false, task := none, faddr := 0, fagent := 0, access := 0, agent := a.word }
    else s
  let k := c.kick
  let cardVa : DWord := match ringDesc s c.ctx c.ring with
    | some d => d.getD 0 0 + dw (128 * (c.n.toNat % 2 ^ fieldOf d 236 232))
    | none => desc
  deliverRun s a (some k.wave) none k.lane k.elpc (r.invalidAt c.invalid cardVa) (f1.toList ++ f2.toList)

/-- An engine's card completes, or parks. -/
def completeCard (s : State) (e : Nat) : State :=
  match SMap.get? s.cards e with
  | none => s
  | some c =>
    if c.parked.isSome then s
    else
      let r := cardRun s e c
      match r.page with
      | some (va, kind) =>
        let (s, id) := parkAgent s (c.agent s.dieid.toNat e) none kind va
        { s with cards := SMap.put s.cards e { c with parked := some id } }
      | none => finishCard e c r

/-! ### The steps -/

/-- COPY_START: a store to a copy aperture by an agent of a wave reaches its channel (R284). -/
def execCopyStart (w : Nat) (va value tmpl : BitVec 64) (s : State) : Result :=
  .next (match waveOf s w with
    | none => s
    | some x =>
      if vaSpace va = 0xF && apertureOk s x.part (vaOff va) && decide (vaOff va < 0x40000) && apRoom s x.part (vaOff va) then
        apStore s { wave := w, ctx := x.ctx, part := x.part, lane := false, elpc := 0, tmpl := tmpl &&& ~~~ 127, acq := x.startAcq,
                    race := x.sys.fpmode.getLsbD 1 } (vaOff va) value
      else s)

/-- KICK: a store to a kick register by an agent of a wave reaches its engine (R295). -/
def execKick (w : Nat) (va value : BitVec 64) (s : State) : Result :=
  .next (match waveOf s w with
    | none => s
    | some x =>
      if vaSpace va = 0xF && apertureOk s x.part (vaOff va) && decide (0x40000 ≤ vaOff va) && kickOk (vaOff va) value then
        apStore s { wave := w, ctx := x.ctx, part := x.part, lane := false, elpc := 0, tmpl := 0, acq := x.startAcq,
                    race := x.sys.fpmode.getLsbD 1 } (vaOff va) value
      else s)

/-- COPY_JOB_BEGIN: channel k of cluster n begins its next job (R285). -/
def execCopyJobBegin (s : State) : Result := .next (beginJob s s.target.n s.target.k)

/-- COPY_JOB_COMPLETE: the job at channel k of cluster n (R292). -/
def execCopyJobComplete (s : State) : Result := .next (completeJob s s.target.n s.target.k)

/-- CARD_TAKE: transform engine n (R296). -/
def execCardTake (s : State) : Result := .next (takeCard s s.target.n)

/-- CARD_COMPLETE: transform engine n (R297). -/
def execCardComplete (s : State) : Result := .next (completeCard s s.target.n)

end Sys2Proof.Machine
end

