-- ==== Sys2Proof/Machine/Stack.lean ====
section
/-! DEFINITION. Scalar memory accesses (R215, R222) and the mask and return stacks with their spill
area (R155 to R157). -/

namespace Sys2Proof.Machine

/-- One access of the focus wave's scalar stream, checked under FPMODE.RACE as it stands (R102): on
success the continuation gets the state and the bytes read; a touched guard byte makes GUARD
pending (R206). -/
def scalarAccess (s : State) (x : Acc) (m : AccMode) (k : State → List Byte → State) : State :=
  let r := makeAccesses s (s.w.agent (s.w.sys.fpmode.getLsbD 1)) m s.w.epoch [x]
  match r.trap with
  | some (c, f, g) => scalarTrap s c f g x.op.kind
  | none =>
    if !r.page.isEmpty then pageAt s x.op.kind x.va
    else
      match r.ap with
      | (_, off, v) :: _ =>
        if apRoom s s.w.part off then
          k (apStore r.st (apWave s false 0 s.w.sys.tmplbase (s.w.sys.fpmode.getLsbD 1)) off v) []
        else waitHere s
      | [] =>
        k (accGuard s r false 0 x.op.kind) (SMap.getD r.vals x.lane [])

/-! ### Spill and refill -/

/-- Several accesses of a spill or refill, in address order: all or none of them (R157). -/
def spillAccess (s : State) (xs : List Acc) (k : State → SMap (List Byte) → State) : State :=
  let r := makeAccesses s (s.w.agent false) { AccMode.plain with quiet := true } s.w.epoch xs
  let access := match xs with | x :: _ => x.op.kind | [] => 0
  match r.trap with
  | some (c, f, g) => scalarTrap (accGuard s r false 0 access) c f g access
  | none =>
    match xs.find? (fun x => r.page.contains x.lane) with
    | some x => pageAt s x.op.kind x.va
    | none =>
      k (accGuard s r false 0 access) r.vals

/-- The address of mask record k (R156). -/
def maskRec (w : Wave) (k : Nat) : DWord := w.sys.spillbase + dw (32 * k)
/-- The address of return record k. -/
def returnRec (w : Wave) (k : Nat) : DWord := w.sys.spilllim - dw (64 * (k + 1))

/-- Whether the area holds `m` mask records and `r` return records (R156). -/
def spillFits (w : Wave) (m r : Nat) : Bool :=
  w.sys.spillbase.toNat < w.sys.spilllim.toNat &&
  decide (w.sys.spillbase.toNat + 32 * m + 64 * r ≤ w.sys.spilllim.toNat)

/-- The state with room for a push on the mask stack (newest first): the eight oldest entries of a full stack
are spilled, oldest at the lowest address (R155). -/
def maskRoom (s : State) (k : State → State) : State :=
  let w := s.w
  if w.regs.mstack.length < Config.stackDepth then k s
  else if !spillFits w (w.regs.msc + 1) w.regs.rsc then scalarTrap s 0x13 0 0
  else
    let old := (w.regs.mstack.drop Config.spillEntries).reverse
    let xs := ((List.range 8).zip old).map (fun ix =>
      { lane := ix.1, va := maskRec w w.regs.msc + dw (4 * ix.1), size := 4, op := .store (bytesOf 4 ix.2.toNat) : Acc })
    spillAccess s xs (fun s _ =>
      k (modRegs s (fun r => { r with mstack := r.mstack.take 8, msc := r.msc + 1 })))

/-- The state with an entry on the mask stack: an empty one is refilled, or raises STACK (R155). -/
def maskTop (s : State) (k : State → State) : State :=
  let w := s.w
  if !w.regs.mstack.isEmpty then k s
  else if w.regs.msc = 0 then scalarTrap s 0x13 0 0
  else
    let xs := (List.range 8).map (fun i =>
      { lane := i, va := maskRec w (w.regs.msc - 1) + dw (4 * i), size := 4, op := .load : Acc })
    spillAccess s xs (fun s vals =>
      let es := (List.range 8).map (fun i => BitVec.ofNat 32 (natOfBytes (SMap.getD vals i [])))
      k (modRegs s (fun r => { r with mstack := es.reverse, msc := r.msc - 1 })))

/-- The state with room for a push on the return stack. -/
def returnRoom (s : State) (k : State → State) : State :=
  let w := s.w
  if w.regs.rstack.length < Config.stackDepth then k s
  else if !spillFits w w.regs.msc (w.regs.rsc + 1) then scalarTrap s 0x13 0 0
  else
    let old := (w.regs.rstack.drop Config.spillEntries).reverse
    let xs := ((List.range 8).zip old).map (fun ix =>
      { lane := ix.1, va := returnRec w w.regs.rsc + dw (8 * ix.1), size := 8, op := .store (bytesOf 8 ix.2.toNat) : Acc })
    spillAccess s xs (fun s _ =>
      k (modRegs s (fun r => { r with rstack := r.rstack.take 8, rsc := r.rsc + 1 })))

/-- The state with an entry on the return stack. -/
def returnTop (s : State) (k : State → State) : State :=
  let w := s.w
  if !w.regs.rstack.isEmpty then k s
  else if w.regs.rsc = 0 then scalarTrap s 0x13 0 0
  else
    let xs := (List.range 8).map (fun i =>
      { lane := i, va := returnRec w (w.regs.rsc - 1) + dw (8 * i), size := 8, op := .load : Acc })
    spillAccess s xs (fun s vals =>
      let es := (List.range 8).map (fun i => dw (natOfBytes (SMap.getD vals i [])))
      k (modRegs s (fun r => { r with rstack := es.reverse, rsc := r.rsc - 1 })))

end Sys2Proof.Machine
end

