-- ==== Sys2Proof/Machine/Control.lean ====
section
/-! DEFINITION. Masks, stacks and control flow (09, R154 to R172): branches, calls, enqueue and waits,
mask and predicate instructions, loops, lane reads, barriers, EXIT and kill points. -/

namespace Sys2Proof.Machine

/-! ### Fetch -/

/-- The number of `n` instruction bytes at an address, 4 bytes at a time, or the cause and address
of the first that cannot be fetched. Fetch reads memory at its home (log 18). -/
def fetchAt (s : State) (va : DWord) (n : Nat) : Except (Nat × DWord) Nat :=
  (List.range (n / 4)).foldlM (fun acc i =>
    match engRead s s.w.ctx s.w.part false (va + dw (4 * i)) 4 with
    | .ok bs => .ok (acc + natOfBytes bs * 2 ^ (32 * i))
    | .error c => .error (c, va + dw (4 * i))) 0

/-! ### Enqueue (R163, R74) -/

/-- Whether a decoded lane instruction may be enqueued by a wave (R69, R178, R189, R331): registers
below V, accumulators bound, formats of the binding, episode instructions in an episode. -/
def laneLegal (w : Wave) (i : Instr) : Bool :=
  (readsV w.accF64 i).all (fun r => decide (r < w.rows)) && (writesV w.accF64 i).all (fun r => decide (r < w.rows)) &&
  (match i with
   | .mma x | .mmas x _ => decide (x.m.toNat < w.accs) && ((x.fmtA == .f64) == w.accF64)
   | .mrd x | .mwr x =>
     decide (x.m.toNat < w.accs) && (!w.accF64 || (decide (x.cnt.toNat ≤ 3) && x.v.getLsbD 0 == false))
   | .mzero _ m => decide (m.toNat < w.accs)
   | .mepi x => decide (x.m.toNat < w.accs) && (if w.accF64 then x.ofmt == .f32 || x.ofmt == .f64 else x.ofmt != .f64)
   | .rcont _ | .racc _ => w.kind == .episode
   | _ => true)

/-- The lane index of an address from the lane section base, in ELPC's 20 bits (R98). -/
def laneIndex (w : Wave) (va : DWord) : DWord := dw ((va - w.regs.lbase).toNat / 12 % 2 ^ 20)

/-- An instruction as it enters the queue: what it captures (R22, R73, R96). -/
def captured (w : Wave) (i : Instr) (va : DWord) (num : Nat) : LEntry :=
  { i := i, num := num, em := w.regs.em, stallchk := w.sys.stallchk.getLsbD 0, fpmode := w.sys.fpmode, tmplbase := w.sys.tmplbase,
    epc := w.regs.spc, elpc := laneIndex w va, mask := none, act := none, regs := none }

/-- What stops a batch. -/
inductive BatchEnd where
  | whole
  | illegal (va : DWord)
  | trap (c : Nat) (va : DWord)
  | page (va : DWord)
  deriving DecidableEq, Repr

/-- The words of a batch from number `j` on, `n` of them: entries, and what stops them. -/
def scanBatch (s : State) (start : DWord) : Nat → Nat → List LEntry × BatchEnd
  | _, 0 => ([], .whole)
  | j, n + 1 =>
    let va := start + dw (12 * j)
    match fetchAt s va 12 with
    | .error (c, x) => ([], if c = 0x06 then .page x else .trap c x)
    | .ok w =>
      match decodeLane (BitVec.ofNat 96 w) with
      | .error _ => ([], .illegal va)
      | .ok i =>
        if laneLegal s.w i then
          let (l, e) := scanBatch s start (j + 1) n
          (captured s.w i va (s.w.lane.seq + s.w.lane.q.length + j - s.w.lane.batch) :: l, e)
        else ([], .illegal va)

/-- FAGENT of a fetch's cause: the failing agent of an ECC is the wave (Table 20-1). -/
def fetchAgent (w : Wave) (code : Nat) : DWord := if code = 0x14 then w.word else 0

/-- The trap that ends a batch, when the instructions before it have completed (R74, R108); an illegal word leaves LPC at
the batch's start. -/
def batchTrap (s : State) (start : DWord) (code : Nat) (lane : Bool) (elpc faddr : DWord) : State :=
  if !laneComplete s then waitHere s
  else takeTrap (if lane then modRegs s (fun r => { r with lpc := start }) else s)
    { code := code, imp := false, lane := lane, timm := 0, epc := s.w.regs.spc, elpc := elpc, faddr := faddr,
      fagent := fetchAgent s.w code, resume := s.w.regs.spc, access := if code = 0x01 then 0 else 3 }

/-- LRUN and LNEXT: a batch of `n` from `start` (R163). Nothing is enqueued while a word cannot be
fetched; a full queue makes the instruction wait with what it has enqueued. LPC is
written as it ends. -/
def runBatch (s : State) (start : DWord) (n : Nat) : State :=
  let k := s.w.lane.batch
  let (es, e) := scanBatch s start k (n - k)
  match e with
  | .page va => pageAt s 3 va
  | _ =>
    let room := Config.laneQueueDepth - s.w.lane.q.length
    let now := es.take room
    let s := modLane s (fun l => { l with q := l.q ++ now, batch := k + now.length })
    if room < es.length then waitHere s
    else
      match e with
      | .illegal va => batchTrap s start 0x01 true (laneIndex s.w va) 0
      | .trap c va => batchTrap s start c false 0 va
      | _ =>
        let s := modLane s (fun l => { l with batch := 0 })
        advance (modRegs s (fun r => { r with lpc := start + dw (12 * n) }))

/-- The count of an enqueue field: 0 means 64 (R45). -/
def batchCount (n : BitVec 6) : Nat := if n = 0 then 64 else n.toNat

/-- LRUN (R163). -/
def execLrun (n : BitVec 6) (i : BitVec 20) (s : State) : Result :=
  .next (runBatch s (s.w.regs.lbase + dw (12 * i.toNat)) (batchCount n))

/-- LNEXT (R163). -/
def execLnext (n : BitVec 6) (s : State) : Result := .next (runBatch s s.w.regs.lpc (batchCount n))

/-! ### Kill points (R161, R346) -/

/-- A taken BRC or TLOOP: a kill point, whatever its direction, when the record asks for it (R161, R346;
log 83). -/
def jumpTo (s : State) (target : DWord) : State :=
  if killsBack s && killNow s then killWave s else goto s target

/-- KPOINT: a kill point of a bound task (R166). -/
def execKpoint (s : State) : Result := .next (if killNow s then killWave s else advance s)

/-! ### Branches and calls (R159, R160) -/

/-- BRC (R159). -/
def execBrc (n : BitVec 1) (c : BitVec 3) (o : BitVec 22) (s : State) : Result :=
  .next (if c = 7 ∧ n = 1 then illegal s
    else if getC s.w c.toNat != (n == 1) then jumpTo s (branchTo s o) else advance s)

/-- A return address pushed and a jump made. -/
def callTo (s : State) (target : DWord) : State :=
  returnRoom s (fun s => goto (modRegs s (fun r => { r with rstack := (r.spc + 4) :: r.rstack })) target)

/-- CALL (R160). -/
def execCall (o : BitVec 22) (s : State) : Result := .next (callTo s (branchTo s o))

/-- JMPR (R160): a kill point first, when its target is at or below itself and the record asks for it (R161,
R346); a target that is no word address raises ALIGN (R62). -/
def execJmpr (a : BitVec 8) (s : State) : Result :=
  .next (scalarRead s [a.toNat] (fun s =>
    let t := getS s.w a.toNat
    if killsBack s && decide (t.toNat ≤ s.w.regs.spc.toNat) && killNow s then killWave s
    else if zeroBits t 1 0 then goto s t else scalarTrap s 0x05 t 0))

/-- CALLR (R160). -/
def execCallr (a : BitVec 8) (s : State) : Result :=
  .next (scalarRead s [a.toNat] (fun s =>
    let t := getS s.w a.toNat
    if zeroBits t 1 0 then callTo s t else scalarTrap s 0x05 t 0))

/-- RET: a trap return at the frame's depth in a handler (R354), else a return (R160). -/
def execRet (s : State) : Result :=
  .next (match s.w.frame with
    | some f =>
      if s.w.sys.handler && returnDepth s.w == f.depth then trapReturn s f else ordinary s
    | none => ordinary s)
where
  /-- The pop of an ordinary return. -/
  ordinary (s : State) : State :=
    returnTop s (fun s =>
      match s.w.regs.rstack with
      | t :: l => goto (modRegs s (fun r => { r with rstack := l })) t
      | [] => s)

/-- EXIT (R162, R36). -/
def execExit (s : State) : Result := .next (leaveWave s .exit)

/-! ### Waits (R164, R165) -/

/-- LWAIT: every lane instruction enqueued before it has completed, its pushes served (R164). -/
def execLwait (s : State) : Result :=
  .next (if laneComplete s then advance s else waitHere s)

/-- YIELD: no architected state but the window of the 64 cycles that follow its own (R165). -/
def execYield (s : State) : Result := .next (advance (modW s (fun w => { w with yieldEnd := s.clock + 65 })))

/-! ### Masks and predicates (R167, R168) -/

/-- MPUSH: em pushed, and narrowed by vp[n]. -/
def execMpush (p : BitVec 8) (s : State) : Result :=
  .next (if 15 < p.toNat then illegal s
    else if writerVp s.w p.toNat then waitHere s
    else maskRoom s (fun s =>
      let m := s.w.regs.em
      let s := modRegs s (fun r => { r with mstack := m :: r.mstack })
      advance (setEm s (m &&& getVp s.w p.toNat))))

/-- MELSE: em := top & ~em. -/
def execMelse (s : State) : Result :=
  .next (maskTop s (fun s => advance (setEm s (s.w.regs.mstack.headD 0 &&& ~~~ s.w.regs.em))))

/-- MPOP: em := pop. -/
def execMpop (s : State) : Result :=
  .next (maskTop s (fun s =>
    let m := s.w.regs.mstack.headD 0
    advance (setEm (modRegs s (fun r => { r with mstack := r.mstack.tail })) m)))

/-- MREST: em := top. -/
def execMrest (s : State) : Result := .next (maskTop s (fun s => advance (setEm s (s.w.regs.mstack.headD 0))))

/-- MSETS: em := sa[31:0]. -/
def execMsets (a : BitVec 8) (s : State) : Result :=
  .next (scalarRead s [a.toNat] (fun s => advance (setEm s ((getS s.w a.toNat).setWidth 32))))

/-- MGET: sd := em. -/
def execMget (d : BitVec 8) (s : State) : Result :=
  .next (scalarOp s [] d.toNat (fun s => advance (setS s d.toNat (s.w.regs.em.setWidth 64))))

/-- BALLOT: sd := vp[n] & em. -/
def execBallot (d p : BitVec 8) (s : State) : Result :=
  .next (if 15 < p.toNat then illegal s
    else if writerVp s.w p.toNat then waitHere s
    else scalarOp s [] d.toNat (fun s => advance (setS s d.toNat ((getVp s.w p.toNat &&& s.w.regs.em).setWidth 64))))

/-- VPSET: vp[n] := sa[31:0] within the populated lanes (R168). -/
def execVpset (a p : BitVec 8) (s : State) : Result :=
  .next (if 15 < p.toNat then illegal s
    else if busyVp s.w p.toNat then waitHere s
    else scalarRead s [a.toNat] (fun s =>
      advance (setVp s p.toNat ((getS s.w a.toNat).setWidth 32 &&& s.w.populated))))

/-! ### Loops and lane reads (R169, R170) -/

/-- A scalar instruction that reads a row of the register file: data ECC cannot correct raise ECC (R15). -/
def rowRead (s : State) (r : Nat) (k : State → State) : State :=
  if s.w.regs.bad.contains r then scalarTrap s 0x14 0 s.w.word else k s

/-- TLOOP: the count decremented in each lane of em; lanes that reach 0 leave em (R169). -/
def execTloop (v : BitVec 10) (o : BitVec 16) (s : State) : Result :=
  .next (if s.w.rows ≤ v.toNat then illegal s
    else if busyV s.w v.toNat then waitHere s
    else rowRead s v.toNat (fun s =>
      let em := s.w.regs.em
      let em' := maskWhere (fun i => em.getLsbD i && getV s.w v.toNat i - 1 != 0)
      let taken := em' != 0
      let target := branchTo s o
      if taken && killsBack s && killNow s then killWave s
      else
        let s := (lanesOf em).foldl (fun s i => setV s v.toNat i (getV s.w v.toNat i - 1)) s
        let s := setEm s em'
        if taken then goto s target else advance s))

/-- SRFL: the lowest active lane of v[n], 0 with em = 0 (R170). -/
def execSrfl (d : BitVec 8) (v : BitVec 10) (s : State) : Result :=
  .next (if s.w.rows ≤ v.toNat then illegal s
    else if writerV s.w v.toNat then waitHere s
    else rowRead s v.toNat (fun s => scalarOp s [] d.toNat (fun s =>
      let x := match lanesOf s.w.regs.em with | i :: _ => getV s.w v.toNat i | [] => 0
      advance (setS s d.toNat (x.setWidth 64)))))

/-- SLANE: lane sa[4:0] of v[n], active or not; an unpopulated lane gives 0 (R170). -/
def execSlane (d : BitVec 8) (v : BitVec 10) (a : BitVec 8) (s : State) : Result :=
  .next (if s.w.rows ≤ v.toNat then illegal s
    else if writerV s.w v.toNat then waitHere s
    else rowRead s v.toNat (fun s => scalarOp s [a.toNat] d.toNat (fun s =>
      let i := bits (getS s.w a.toNat) 4 0
      let x := if s.w.populated.getLsbD i then getV s.w v.toNat i else 0
      advance (setS s d.toNat (x.setWidth 64)))))

/-! ### Barriers (R171, R172) -/

/-- Workgroup scope: cluster, or partition for a co-operative block (R32). -/
def wgScope (w : Wave) : Nat := if w.coop then 3 else 2

/-- What a barrier instruction does before anything else: it reports the lowest pending cause, and
raises GROUPMEM on a group that is not the wave's (R172). -/
def barrierStart (s : State) (g : Nat) (k : State → State) : State :=
  match pendingCause s.w with
  | some (c, p) => if laneComplete s then reportPending s c p else waitHere s
  | none => if isMember s s.w g then k s else scalarTrap s 0x0F 0 0

/-- The instance of a wave's open BARA on a group, and whether it has completed. -/
def openBara (s : State) (g : Nat) : Option Bool :=
  match SMap.get? s.w.bara g with
  | some b => if b.open_ then some (decide (b.inst < (barOf s s.w g).inst)) else none
  | none => none

/-- An arriving barrier instruction: its accesses are performed, an earlier BARA on the group has
completed, and that one's MASKDIS is delivered first (R171, R172); in a handler it stays pending (R355). -/
def arriveReady (s : State) (g : Nat) (k : State → State) : State :=
  if !laneIdle s.w || pushesOut s s.w.id then waitHere s
  else barrierStart s g (fun s =>
    match openBara s g with
    | some false => waitHere s
    | some true =>
      if (maskdisGroups s s.w).contains g then
        if s.w.sys.handler then k (keepMaskdis s g) else maskdisTrap (clearMaskdis s g) s.w.regs.spc
      else k (clearMaskdis s g)
    | none => k s)

/-- The focus wave arrives: a release at workgroup scope (R32). -/
def arrive (s : State) (g : Nat) (m : Word) : State :=
  let (s, n) := releaseW s (wgScope s.w)
  arriveAt s g m n

/-- A BAR waiter at its instance: it completes as an acquire, and takes MASKDIS when the masks
disagreed (R32, R172). -/
def barWait (s : State) (g inst : Nat) : State :=
  let b := barOf s s.w g
  if b.inst ≤ inst then waitHere s
  else
    let s := acquireW (modW s (fun w => { w with inBar := none })) (wgScope s.w) b.donePub
    if b.doneMismatch then maskdisTrap s (s.w.regs.spc + 4) else advance s

/-- BAR: arrive and wait for the instance (R171). -/
def execBar (g a : BitVec 8) (s : State) : Result :=
  let fresh (s : State) : State :=
    arriveReady s g.toNat (fun s => scalarRead s [a.toNat] (fun s =>
      let inst := (barOf s s.w g.toNat).inst
      let s := arrive s g.toNat ((getS s.w a.toNat).setWidth 32)
      barWait (modW s (fun w => { w with inBar := some (g, inst) })) g.toNat inst))
  .next (match s.w.inBar with
    | some (h, inst) => if h = g then barWait s g.toNat inst else fresh s
    | none => fresh s)

/-- BARA: arrive and go on (R171). -/
def execBara (g a : BitVec 8) (s : State) : Result :=
  .next (arriveReady s g.toNat (fun s => scalarRead s [a.toNat] (fun s =>
    let inst := (barOf s s.w g.toNat).inst
    let s := arrive s g.toNat ((getS s.w a.toNat).setWidth 32)
    advance (modW s (fun w =>
      let kept := match SMap.get? w.bara g.toNat with | some b => b.maskdis | none => false
      { w with bara := SMap.put w.bara g.toNat { inst := inst, maskdis := kept, open_ := true } })))))

/-- BARW: wait for the instance of the last BARA on the group (R171); in a handler that one's MASKDIS stays pending
(R355). -/
def execBarw (g : BitVec 8) (s : State) : Result :=
  .next (barrierStart s g.toNat (fun s =>
    match openBara s g.toNat with
    | none => advance s
    | some false => waitHere s
    | some true =>
      let bad := (maskdisGroups s s.w).contains g.toNat
      let b := barOf s s.w g.toNat
      let held := bad && s.w.sys.handler
      if bad && !held && !laneComplete s then waitHere s
      else
        let s := acquireW (if held then keepMaskdis s g.toNat else clearMaskdis s g.toNat) (wgScope s.w) b.donePub
        if bad && !held then maskdisTrap s (s.w.regs.spc + 4) else advance s))

end Sys2Proof.Machine
end

