-- ==== Sys2Proof/Machine/Ring.lean ====
section
/-! DEFINITION. The front end's rings (22, R372 to R377): the packet at HEAD, the checks of R376, and
the start and end of a command. -/

namespace Sys2Proof.Machine

/-- The fabric manager's context number (R374). -/
def fmCtx : Nat := 0xFFFF

/-- Where a command is permitted (Table 22-3): any endpoint of a context, the management endpoint,
the fabric manager's. -/
inductive Where where
  | any | management | fabric
  deriving DecidableEq, Repr

/-- The column Where of Table 22-3. -/
def whereOf (i : Instr) : Where :=
  match i with
  | .blink .. | .snapread .. | .switch .. | .restore .. | .ringrst .. | .attest .. => .management
  | .power .. | .partcfg .. | .image .. => .fabric
  | _ => .any

/-- The management endpoint of a partition: its lowest-numbered one (R372). -/
def managementOf (p : Part) : Option Nat := p.eps.foldl (fun m e => some (match m with | none => e | some x => Nat.min x e)) none

/-- Whether a command is permitted at an endpoint (log 19). -/
def permitted (s : State) (ctx : Nat) (i : Instr) : Bool :=
  match whereOf i with
  | .fabric => ctx = fmCtx
  | .any => ctx ≠ fmCtx
  | .management => ctx ≠ fmCtx && managementOf (partOf s (ctxOf s ctx).part) = some ctx

/-- What the front end finds at HEAD. -/
inductive RingOut where
  /-- nothing to parse now -/
  | idle
  /-- a check of R376 fails, with its status -/
  | bad (status : Nat)
  | run (i : Instr)
  deriving DecidableEq, Repr

/-- Quadword k of the packet at HEAD. -/
def packetQ (s : State) (ctx k : Nat) : DWord :=
  dw (memNat s.mem (rbase s ctx + headOf s ctx % 2 ^ lrsize s ctx + 8 * k) 8)

/-- LEN of the packet at HEAD. -/
def packetLen (s : State) (ctx : Nat) : Nat := bits (packetQ s ctx 0) 23 16

/-- Whether an endpoint may parse its next packet: not halted, its context's earlier blocking command
complete, room in the completion ring, and a header below TAIL (R376, R377, R323); until the firmware
verifies, the die answers on the fabric manager's alone (R382). -/
def mayParse (s : State) (ctx : Nat) : Bool :=
  let c := ctxOf s ctx
  (SMap.get? s.contexts ctx).isSome && (s.fw.booted || ctx == fmCtx) && !c.halted && c.doneQ.isEmpty && completionRoom s ctx &&
  !((SMap.vals c.cmds).any (fun x => x.fence && !x.done)) &&
  decide (16 ≤ diff32 c.tail.toNat (headOf s ctx))

/-- The packet at HEAD against the checks of R376, in their order. -/
def ringNext (s : State) (ctx : Nat) : RingOut :=
  if !mayParse s ctx then .idle
  else
    let size := 2 ^ lrsize s ctx
    let head := headOf s ctx
    let n := packetLen s ctx
    if size < head % size + 16 * n then .bad 3
    else if diff32 (ctxOf s ctx).tail.toNat head < 16 * n then .idle
    else
      match decodePacket ((List.range (Nat.max 2 (2 * n))).map (packetQ s ctx)) with
      | .error .unknownOpcode => .bad 1
      | .error .invalidLength => .bad 2
      | .ok i =>
        if packetQ s ctx 1 ≠ (ctxOf s ctx).nextSeq || bits (packetQ s ctx 0) 47 32 ≠ ctx then .bad 4
        else if !permitted s ctx i then .bad 5
        else if whereOf i = .any && !(ctxOf s ctx).resident then .idle
        else .run i

/-- A command starts: HEAD passes its packet, and its completion is owed (R376, R377). It gives the
state, the command's context and its number there. -/
def startCmd (s : State) (h : Hdr) (opc : Nat) (block : Bool) : State × Nat × Nat :=
  let ctx := h.ctx.toNat
  let off := headOf s ctx
  let n := (ctxOf s ctx).nextCmd
  let c : Cmd :=
    { seq := h.seq, opc := BitVec.ofNat 16 opc, off := BitVec.ofNat 32 off, fence := block, done := false, status := 0, value := 0 }
  let s := descWrite s ctx 20 4 ((off + 16 * h.len.toNat) % 2 ^ 32)
  (modCtx s ctx (fun x => { x with nextSeq := h.seq + 1, nextCmd := n + 1, cmds := SMap.put x.cmds n c }), ctx, n)

/-- A command: it starts, and is rejected with status 6 where a reserved header bit is set, the die
has not booted (R382), or a field is outside its limits; otherwise it goes on. -/
def command (s : State) (h : Hdr) (opc : Nat) (block ok : Bool) (k : State → Nat → Nat → State) : State :=
  let (s, ctx, n) := startCmd s h opc block
  if h.r1 ≠ 0 || h.r0 ≠ 0 || !s.fw.booted || !ok then completeCmd s ctx n 6 0 else k s ctx n

/-- A command that completes as it is applied, with status 0. -/
def applied (s : State) (h : Hdr) (opc : Nat) (ok : Bool) (k : State → Nat → State) : State :=
  command s h opc false ok (fun s ctx n => completeCmd (k s ctx) ctx n 0 0)

/-- ECC that a write of a context's own unit meets is told to the context (R15, R256); the unit has no kind in Table 06-6
(log 95). -/
def tellEcc (s : State) (ctx : Nat) (va : DWord) (n : Nat) : State :=
  let part := (ctxOf s ctx).part
  if engCheck s ctx part false va n = some 0x14 then
    let g := agentWord 0 s.dieid.toNat 0 0
    postCause s ctx part
      { code := 0x14, imp := true, await := false, task := none, faddr := va, fagent := g, access := 1, agent := g }
  else s

/-- A command's status given by its effect; one that could not write its buffer, an address and its bytes, for an ECC says
so besides. -/
def statused (s : State) (h : Hdr) (opc : Nat) (ok : Bool) (k : State → Nat → Option State)
    (buf : Option (DWord × Nat) := none) : State :=
  command s h opc false ok (fun s ctx n =>
    match k s ctx with
    | some s => completeCmd s ctx n 0 0
    | none => completeCmd (match buf with | some (va, b) => tellEcc s ctx va b | none => s) ctx n 6 0)

/-- A context's publication counter advanced by a release of the front end, outside every wave. -/
def publishCo (s : State) (part : Nat) : State × Nat := publish s 0 part

end Sys2Proof.Machine
end

