-- ==== Sys2Proof/Machine/ScalarMem.lean ====
section
/-! DEFINITION. Scalar loads, stores and atomics, and FENCE (12, R218 to R224; 13, R241). -/

namespace Sys2Proof.Machine

/-- The address of the SM format, in units of the access size (R218). -/
def smAddress (w : Wave) (a : BitVec 8) (o : BitVec 10) (size : Nat) : DWord :=
  getS w a.toNat + o.signExtend 64 * dw size

/-- A scalar load of `n` bytes into s[d]. -/
def scalarLoad (s : State) (d a : BitVec 8) (o : BitVec 10) (n : Nat) : State :=
  scalarOp s [a.toNat] d.toNat (fun s =>
    scalarAccess s { lane := 0, va := smAddress s.w a o n, size := n, op := .load } AccMode.plain
      (fun s bs => advance (setS s d.toNat (dw (natOfBytes bs)))))

/-- A scalar store of the low `n` bytes of s[v]. -/
def scalarStore (s : State) (v a : BitVec 8) (o : BitVec 10) (n : Nat) : State :=
  scalarRead s [v.toNat, a.toNat] (fun s =>
    scalarAccess s
      { lane := 0, va := smAddress s.w a o n, size := n, op := .store (bytesOf n (getS s.w v.toNat).toNat) }
      { AccMode.plain with kick := true }
      (fun s _ => advance s))

/-- SLD (R223). -/
def execSld (d a : BitVec 8) (o : BitVec 10) (s : State) : Result := .next (scalarLoad s d a o 8)
/-- SLDW (R223). -/
def execSldw (d a : BitVec 8) (o : BitVec 10) (s : State) : Result := .next (scalarLoad s d a o 4)
/-- SST (R223). -/
def execSst (sr a : BitVec 8) (o : BitVec 10) (s : State) : Result := .next (scalarStore s sr a o 8)
/-- SSTW (R223). -/
def execSstw (sr a : BitVec 8) (o : BitVec 10) (s : State) : Result := .next (scalarStore s sr a o 4)

/-- The order of a two-bit field (R224). -/
def orderOf (o : BitVec 2) : Order := match o.toNat with | 0 => .rlx | 1 => .acq | 2 => .rel | _ => .sc

/-- An SC atomic of the scalar stream, aligned, has its turn before its access (R240). One whose access would trap while
lane instructions before it are outstanding (R108) has its turn once, and waits for them with it; one that has parked takes
another ticket when it replays (log 107). -/
def scalarTurn (s : State) (x : Acc) (m : AccMode) (k : State → State) : State :=
  let traps := (makeAccesses s (s.w.agent (s.w.sys.fpmode.getLsbD 1)) m s.w.epoch [x]).trap.isSome
  if traps && s.w.pod = some true then k s
  else
    let (s, turn) := scAsk s false m.scope
    if !turn then waitHere s
    else if traps && !laneComplete s then waitHere (setSc s false none (some true))
    else k s

/-- A scalar atomic at partition scope: operation `aop` of Table 12-5 or 13, its operand, and its
comparand (R224). An SC one that is aligned first has its turn (R219, R240). -/
def scalarAtomic (s : State) (d a b : BitVec 8) (o : BitVec 2) (aop : Nat) : State :=
  scalarOp s [a.toNat, b.toNat, d.toNat] d.toNat (fun s =>
    let x : Acc := { lane := 0, va := getS s.w a.toNat, size := 8,
                     op := .atom aop (getS s.w b.toNat).toNat (getS s.w d.toNat).toNat }
    let m : AccMode := { order := orderOf o, scope := 3, ro := false, quiet := false }
    let go (s : State) : State := scalarAccess s x m (fun s bs => advance (setS s d.toNat (dw (natOfBytes bs))))
    if o = 3 && zeroBits x.va 2 0 then scalarTurn s x m go else go s)

/-- SAADD (R224). -/
def execSaadd (d a b : BitVec 8) (o : BitVec 2) (s : State) : Result := .next (scalarAtomic s d a b o 0)
/-- SASWP (R224). -/
def execSaswp (d a b : BitVec 8) (o : BitVec 2) (s : State) : Result := .next (scalarAtomic s d a b o 10)
/-- SACAS (R224). -/
def execSacas (d a b : BitVec 8) (o : BitVec 2) (s : State) : Result := .next (scalarAtomic s d a b o 13)
/-- SAMAXU (R224). -/
def execSamaxu (d a b : BitVec 8) (o : BitVec 2) (s : State) : Result := .next (scalarAtomic s d a b o 6)

/-! ### FENCE (R241) -/

/-- Whether a lane instruction is a matrix instruction, whose operation begins at its acceptance. -/
def isMatrix : Instr → Bool
  | .mma _ | .mmas _ _ | .mrd _ | .mwr _ | .mzero _ _ | .mwait _ | .osto _ | .olod _ | .mepi _ => true
  | _ => false

/-- Whether a lane instruction may store to an aperture. -/
def mayKick : Instr → Bool
  | .vst x | .vstc x => x.size == .b64
  | _ => false

/-- Whether a copy job of a wave is queued or running. -/
def copiesOut (s : State) (id : Nat) : Bool := (SMap.vals s.channels).any (fun l => l.any (fun j => j.wave = some id))

/-- Whether a transform job that a wave kicked has not completed. -/
def cardsOut (s : State) (id : Nat) : Bool :=
  (SMap.vals s.cards).any (fun c => c.kick.wave = id) ||
  s.contexts.any (fun kc => kc.2.kicks.any (fun rk =>
    (kicksAhead s kc.1 rk.1 rk.2).any (fun k => k.wave = id)))

/-- Whether every access of a class in A that precedes a releasing FENCE is performed. -/
def fenceDone (s : State) (a : BitVec 6) : Bool :=
  let w := s.w
  let queued (f : Instr → Bool) : Bool := w.lane.q.any (fun e => f e.i)
  (!a.getLsbD 0 || laneIdle w) &&
  (!a.getLsbD 4 || (laneIdle w && !pushesOut s w.id)) &&
  (!a.getLsbD 1 || !(queued mayKick || copiesOut s w.id)) &&
  (!a.getLsbD 2 || !(queued isMatrix || !(matrixOps s w.id).isEmpty)) &&
  (!a.getLsbD 5 || !(queued mayKick || cardsOut s w.id))

/-- Whether the wave's reads of classes in A that precede an acquiring FENCE, LS and CO, are performed, so that it takes up
what they met, and no line that it keeps was filled after them (log 49). -/
def fenceReads (w : Wave) (a : BitVec 6) : Bool :=
  !(a.getLsbD 0 || a.getLsbD 4) || (!(w.lane.q.any (fun e => (memForm e.i).isSome)) && !(w.lane.inflight.any (fun p => p.load)))

/-- What an acquiring FENCE takes up: the releases that reads of classes in A have met, its wave's with LS, and those of the
agents it started with CP, MX, GS and TX (those of another die are numbered there), and the numbers published by the agents
it started that lie within its scope (R241, R242). -/
def fenceSeen (w : Wave) (scope : Nat) (a : BitVec 6) : Nat :=
  let met (n : Nat) (c k : Nat) : Nat := if a.getLsbD c then Nat.max n (SMap.getD w.seen k 0) else n
  let n := [1, 2, 3, 5].foldl (fun n c => met n c (8 + 5 * c + scope)) (met 0 0 scope)
  [(0, 5), (1, 6), (2, 7)].foldl (fun n sk => if sk.1 < scope then Nat.max n (SMap.getD w.seen sk.2 0) else n) n

/-- FENCE (R241). -/
def execFence (sr : BitVec 3) (o : BitVec 2) (a b : BitVec 6) (s : State) : Result :=
  .next (if 4 < sr.toNat || o = 0 || a = 0 || b = 0 then illegal s
    else
      let rel := o != 1
      let acq := o != 2
      if (rel && !fenceDone s a) || (acq && !fenceReads s.w a) then waitHere s
      else
        -- an SC FENCE that waits with its ticket has taken its publication number
        let s := if rel && s.w.ticket.isNone && s.w.pod.isNone then (releaseW s sr.toNat (a.getLsbD 3)).1 else s
        let (s, turn) := if o = 3 then scAsk s false sr.toNat else (s, true)
        if !turn then waitHere s
        else
          let s := if acq then acquireW s sr.toNat (fenceSeen s.w sr.toNat a) else s
          advance s)

end Sys2Proof.Machine
end

