-- ==== Sys2Proof/Machine/Records.lean ====
section
/-! DEFINITION. Operand records as scalar instructions reserve and release them (10, R181 to R183). -/

namespace Sys2Proof.Machine

/-- The engine of the focus wave's cluster. -/
def Wave.engine (w : Wave) : Nat := w.sys.core.toNat / 4

/-- Record n as it stands for the focus wave, releases that may take effect made. -/
def recordOf (s : State) (n : Nat) : Option Rec := SMap.get? (engineOf s s.w.engine).recs n

/-- ORESA and ORESB: a reservation of s[a] bytes in a role (R181). -/
def reserveRecord (s : State) (d a : BitVec 8) (n : BitVec 4) (roleB : Bool) : State :=
  scalarOp s [a.toNat] d.toNat (fun s =>
    let s := settleRecords s s.w.engine
    let size := (getS s.w a.toNat).toNat
    let gran := (size + 4095) / 4096
    let mine := match recordOf s n.toNat with
      | some r => r.heldBy s s.w && r.relp.isNone
      | none => false
    if mine || decide (size = 0) || decide (0x100000 < size) then scalarTrap s 0x10 0 0
    else if (recordOf s n.toNat).isNone && decide (gran ≤ (engineOf s s.w.engine).freeGran) then
      let r : Rec :=
        { holder := some s.w.id, task := none, roleB := roleB, gran := gran, bytes := [], relp := none }
      let s := modEngine s s.w.engine (fun e => { e with recs := SMap.put e.recs n.toNat r })
      advance (setS s d.toNat 1)
    else advance (setS s d.toNat 0))

/-- ORESA (R181). -/
def execOresa (d a : BitVec 8) (n : BitVec 4) (s : State) : Result := .next (reserveRecord s d a n false)
/-- ORESB (R181). -/
def execOresb (d a : BitVec 8) (n : BitVec 4) (s : State) : Result := .next (reserveRecord s d a n true)

/-- OREL: the release waits for the matrix instructions enqueued before it that name the record (R182); a record that
tasks share is released for all of them. -/
def execOrel (n : BitVec 4) (s : State) : Result :=
  let s := settleRecords s s.w.engine
  .next (match recordOf s n.toNat with
    | some r =>
      if r.heldBy s s.w && r.relp.isNone then
        let mark := s.w.lane.seq + s.w.lane.q.length
        let s := modEngine s s.w.engine (fun e =>
          { e with recs := SMap.adjust e.recs n.toNat (fun r => { r with relp := some mark, holder := some s.w.id, task := none }) })
        advance (settleRecords s s.w.engine)
      else scalarTrap s 0x10 0 0
    | none => scalarTrap s 0x10 0 0)

/-- The status of record n as OREC reads it (Table 10-3). -/
def recordStatus (s : State) (n : Nat) : DWord :=
  let cpy := if copyInto s s.w.engine n then 8 else 0
  match recordOf s n with
  | none => dw cpy
  | some r =>
    let ops := ((engineOf s s.w.engine).ops.filter (fun o => o.wave = s.w.id && o.records.contains n)).length
    dw (Nat.min ops 255 * 2 ^ 24 + r.gran * 2 ^ 8 + (if r.relp.isSome then 16 else 0) + cpy +
      (if r.roleB then 4 else 0) + (if r.holder.isSome && !r.heldBy s s.w then 2 else 0) +
      (if r.heldBy s s.w then 1 else 0))

/-- OREC (R183). -/
def execOrec (d : BitVec 8) (n : BitVec 4) (s : State) : Result :=
  .next (scalarOp s [] d.toNat (fun s =>
    let s := settleRecords s s.w.engine
    advance (setS s d.toNat (recordStatus s n.toNat))))

end Sys2Proof.Machine
end

