-- ==== Sys2Proof/Machine/Tasks.lean ====
section
/-! DEFINITION. Task and incumbent instructions (17, R305 to R309; 19, R348). -/

namespace Sys2Proof.Machine

/-- The release of TSUBMIT and TSIGNAL, as `FENCE.part.rel #0x3F, #0x3F` (R306): the continuation gets
the publication number. -/
def dependenceRelease (s : State) (k : State → Nat → State) : State :=
  if !fenceDone s 0x3F then waitHere s else let (s, n) := releaseW s 3 true; k s n

/-- The record of eight quadwords at an address put into the lowest Free entry (R306). -/
def submitAt (s : State) (d : BitVec 8) (va : DWord) (n : Nat) : State :=
  let xs := (List.range 8).map (fun i => { lane := i, va := va + dw (8 * i), size := 8, op := .load : Acc })
  spillAccess s xs (fun s vals =>
    let r := (List.range 8).map (fun i => dw (natOfBytes (SMap.getD vals i [])))
    if TaskRec.invalid r then scalarTrap s 0x07 va 0
    else
      match freeEntry (partOf s s.w.part) with
      | none => advance (setS s d.toNat (BitVec.allOnes 64))
      | some e => advance (setS (submitTask s s.w.part s.w.ctx (Nat.max s.w.acq s.w.rel) n (s.w.sys.fpmode.getLsbD 1) s.w.sys.tmplbase r e) d.toNat (dw e)))

/-- TSUBMIT (R306); a kill point of a bound task (R346). -/
def execTsubmit (d a : BitVec 8) (s : State) : Result :=
  .next (if killNow s then killWave s
    else scalarOp s [a.toNat] d.toNat (fun s =>
      let va := getS s.w a.toNat
      if !zeroBits va 5 0 then scalarTrap s 0x05 va 0
      else dependenceRelease s (fun s n => submitAt s d va n)))

/-- TSIGNAL (R307). -/
def execTsignal (a : BitVec 8) (s : State) : Result :=
  .next (scalarRead s [a.toNat] (fun s =>
    dependenceRelease s (fun s n => advance (signalTask s s.w.part (bits (getS s.w a.toNat) 15 0) n))))

/-- The focus wave's task entry, when it runs a range task. -/
def rangeTask (s : State) : Option (Nat × Task) :=
  match s.w.task with
  | some e =>
    match SMap.get? (partOf s s.w.part).tasks e with
    | some t => if TaskRec.kind t.r = 1 then some (e, t) else none
    | none => none
  | none => none

/-- RTAKE (R308). -/
def execRtake (d a : BitVec 8) (s : State) : Result :=
  .next (match rangeTask s with
    | none => illegal s
    | some (e, t) =>
      scalarOp s [a.toNat] d.toNat (fun s =>
        let n := Nat.min (bits (getS s.w a.toNat) 31 0) (t.hi - t.cur)
        let s := modTask s s.w.part e (fun t => { t with cur := t.cur + n })
        advance (setS s d.toNat (dw (t.cur + n * 2 ^ 32)))))

/-- TCANCEL (R309). -/
def execTcancel (a : BitVec 8) (s : State) : Result :=
  .next (scalarRead s [a.toNat] (fun s => advance (cancelEntry s s.w.part (bits (getS s.w a.toNat) 15 0))))

end Sys2Proof.Machine
end

