-- ==== Sys2Proof/Machine/Incumbent.lean ====
section
/-! DEFINITION. The incumbent instructions (19, R348). -/

namespace Sys2Proof.Machine

/-- The key of a core's copy among the copies that are behind (R343). -/
def staleKey (core i : Nat) : Nat := 8 + core * 8 + i

/-- A core's copy of an incumbent takes its value. -/
def setCoreCopy (s : State) (part core i : Nat) (x : Inc) : State :=
  modPart s part (fun p =>
    { p with incCore := SMap.put p.incCore (core * 8 + i) x, incSince := SMap.del p.incSince (staleKey core i) })

/-- The Orrery's copy takes a value; a Better one begins a sweep, or keeps it going (R345). -/
def setOrreryCopy (s : State) (part i : Nat) (x : Inc) : State :=
  modPart s part (fun p =>
    let old := incOrreryOf p i
    let better := old.ty == x.ty && incBetter x.ty x.value old.value
    { p with
      incOrrery := SMap.put p.incOrrery i x, incSince := SMap.del p.incSince i
      sweepLeft := if better then Config.taskEntries else p.sweepLeft })

/-- Every copy of an incumbent that was not behind is behind from a cycle on (R343). -/
def markStale (p : Part) (i clock : Nat) : Part :=
  let keys := i :: (coresOf p).map (fun c => staleKey c i)
  { p with incSince := keys.foldl (fun m k => if (SMap.get? m k).isSome then m else SMap.put m k clock) p.incSince }

/-- The Meridian's update of an incumbent by an INCUP: the state and whether it improved. -/
def improve (s : State) (part i : Nat) (value tag : Word) : State × Bool :=
  let x := incOf (partOf s part) i
  if incBetter x.ty value x.value then
    (modPart s part (fun p =>
      { markStale p i s.clock with inc := SMap.put p.inc i { x with value := value, tag := tag }, incups := p.incups + 1 }),
     true)
  else (s, false)

/-- INCUP (R348). -/
def execIncup (d a b : BitVec 8) (s : State) : Result :=
  .next (scalarOp s [d.toNat, a.toNat, b.toNat] d.toNat (fun s =>
    if !fenceDone s 0x11 then waitHere s
    else
      let (s, turn) := scAsk s false 3
      if !turn then waitHere s
      else
        let w := s.w
        let i := bits (getS w d.toNat) 2 0
        let (s, up) := improve s w.part i ((getS w a.toNat).setWidth 32) ((getS w b.toNat).setWidth 32)
        let (s, n) := releaseW s 3
        let s := if up then
            modPart (setCoreCopy s w.part w.sys.core.toNat i (incOf (partOf s w.part) i)) w.part
              (fun p => { p with incPub := SMap.put p.incPub i n })
          else s
        advance (setS s d.toNat (if up then 1 else 0))))

/-- INCRD (R348): it acquires the release of the INCUP whose value it returns. -/
def execIncrd (d a : BitVec 8) (s : State) : Result :=
  .next (scalarOp s [a.toNat] d.toNat (fun s =>
    let (s, turn) := scAsk s false 3
    if !turn then waitHere s
    else
      let p := partOf s s.w.part
      let i := bits (getS s.w a.toNat) 2 0
      let x := incOf p i
      advance (setS (acquireW s 3 (SMap.getD p.incPub i 0)) d.toNat (x.tag ++ x.value))))

/-- BNDCHK (R348). -/
def execBndchk (d a b : BitVec 8) (s : State) : Result :=
  .next (scalarOp s [a.toNat, b.toNat] d.toNat (fun s =>
    let v := getS s.w b.toNat
    let x := incCoreOf (partOf s s.w.part) s.w.sys.core.toNat (bits v 2 0)
    let r := prunable ((getS s.w a.toNat).setWidth 32) x.ty (v.getLsbD 3) x
    advance (setS s d.toNat (if r then 1 else 0))))

/-- An incumbent and every copy of it reset to a type. -/
def resetInc (s : State) (part i : Nat) (ty : Bool) : State :=
  let x := Inc.reset ty
  let s := modPart s part (fun p =>
    { p with inc := SMap.put p.inc i x, incOrrery := SMap.put p.incOrrery i x, incPub := SMap.del p.incPub i
             incSince := SMap.del p.incSince i })
  (coresOf (partOf s part)).foldl (fun s c => setCoreCopy s part c i x) s

/-- INCRST (R348). -/
def execIncrst (a : BitVec 8) (s : State) : Result :=
  .next (scalarRead s [a.toNat] (fun s =>
    let (s, turn) := scAsk s false 3
    if !turn then waitHere s
    else
      let v := getS s.w a.toNat
      advance (resetInc s s.w.part (bits v 2 0) (v.getLsbD 3))))

end Sys2Proof.Machine
end

