-- ==== Sys2Proof/Machine/Queue.lean ====
section
/-! DEFINITION. The queue unit (15, R266 to R273): queue control words, push, pop, refill and overflow,
and the remote-push buffer. -/

namespace Sys2Proof.Machine

/-! ### Queue control words (Table 15-2) -/

/-- A queue control word. -/
structure Qcw where
  base : DWord
  head : Nat
  tail : Nat
  ldepth : Nat
  esize : Nat
  home : Nat
  gen : BitVec 16
  ovdepth : Nat
  out : Bool
  resv : Nat
  ovbase : DWord
  deriving DecidableEq, Repr

/-- A control word from its four quadwords. -/
def Qcw.ofQuads (q : List DWord) : Qcw :=
  let q2 := q.getD 2 0
  let q3 := q.getD 3 0
  { base := q.getD 0 0, head := bits (q.getD 1 0) 31 0, tail := bits (q.getD 1 0) 63 32,
    ldepth := bits q2 4 0, esize := bits q2 7 5, home := bits q2 15 8, gen := q2.extractLsb' 16 16,
    ovdepth := bits q2 63 32, out := q3.getLsbD 0, resv := bits q3 7 1, ovbase := dw (bits q3 63 8 * 256) }

/-- Element bytes of an ESIZE code. -/
def elemBytes (c : Nat) : Nat := 4 * 2 ^ c

/-- Whether an allocation holds a byte of a vault. -/
def Alloc.holds (a : Alloc) (j off : Nat) : Bool := a.vault = j && decide (a.start ≤ off) && decide (off < a.start + a.size)

/-- The place in an image of a byte of an allocation, `n` bytes into the image's allocations. -/
def allocPlace (j off n : Nat) : List Alloc → Nat
  | [] => n
  | a :: l => if a.holds j off then n + (off - a.start) else allocPlace j off (n + a.size) l

/-- The place in an image of a byte of a vault, by index and offset: the B-slices by vault, then the allocations by number
(log 8). -/
def Image.place (i : Image) (j off : Nat) : Nat :=
  if off < Config.vaultShared then j * Config.vaultShared + off
  else allocPlace j off (i.clusters * Config.vaultShared) (SMap.vals i.allocs)

/-- The memory key of a byte of an area, by its 64 KiB pages. -/
def areaKey (pages : List Nat) (area k : Nat) : Nat := pages.getD ((area % 2 ^ 16 + k) / 2 ^ 16) 0 + (area + k) % 2 ^ 16

/-- The memory key of the byte of an image that stands for one of a vault. -/
def imageKey (area : Nat) (i : Image) (j off : Nat) : Nat := areaKey i.pages area (i.place j off)

/-- The image of a context that is switched out, with its area (R360). -/
def ownerImage (s : State) (own : Nat) : Option (Nat × Image) :=
  match SMap.get? s.contexts own with
  | some c => if c.resident then none else c.image.bind (fun area => (SMap.get? s.images area).map (fun i => (area, i)))
  | none => none

/-- The key of a byte of a partition's vault window as a queue unit reaches it for a queue of a context: in this die's
vault of the index, or, while the context is switched out, in its image (R271). -/
def vaultRaw (s : State) (own part : Nat) (va : DWord) : Nat :=
  let j := vaOff va / 2 ^ 25 % 64
  let off := vaOff va % 2 ^ 25
  match ownerImage s own with
  | some (area, i) => imageKey area i j off
  | none => vaultKey s.dieid.toNat ((partOf s part).clusters.getD j 0) off

/-- The control word at an address. -/
def qcwOf (s : State) (own part : Nat) (q : DWord) : Qcw :=
  Qcw.ofQuads (quadsOfBytes 4 (memBytes s.mem (vaultRaw s own part q) 32))

/-- HEAD and TAIL written. -/
def qcwSet (s : State) (own part : Nat) (q : DWord) (head tail : Nat) : State :=
  let k := vaultRaw s own part q
  { s with mem := memPutNat (memPutNat s.mem (k + 8) 4 (head % 2 ^ 32)) (k + 12) 4 (tail % 2 ^ 32) }

namespace Qcw
/-- Elements in the ring (R268). -/
def count (c : Qcw) : Nat := diff32 c.tail c.head
/-- Entries of the ring. -/
def depth (c : Qcw) : Nat := 2 ^ c.ldepth
/-- The address of ring element n. -/
def slot (c : Qcw) (n : Nat) : DWord := c.base + dw (elemBytes c.esize * (n % c.depth))
/-- The address of overflow entry n. -/
def ovSlot (c : Qcw) (n : Nat) : DWord := c.ovbase + dw (64 + elemBytes c.esize * (n % c.ovdepth))
end Qcw

/-- What a queue unit finds where it reaches `n` bytes of scratchpad (R206, R207, R271, R15). -/
inductive Slot where
  | ok
  | guard
  | prot
  | ecc
  deriving DecidableEq, Repr

/-- What stands at a byte of the vault window: only allocations hold queues (R267), of the partition, or of the image
of a switched-out context. -/
def slotByte (s : State) (own part : Nat) (va : DWord) : Slot :=
  let j := vaOff va / 2 ^ 25
  let o := vaOff va % 2 ^ 25
  if vaSpace va ≠ 0xE || !(vaDie va = 0xFFF || vaDie va = s.dieid.toNat) then .prot
  else
    match ownerImage s own with
    | some (_, i) =>
      if (SMap.vals i.allocs).any (fun a => a.holds j o) then .ok
      else if (SMap.vals i.allocs).any (fun a => a.vault = j && decide (a.start ≤ o + 256) && decide (o < a.start + a.size + 256)) then
        .guard
      else .prot
    | none =>
      match locateVault s part (vaOff va) with
      | .ok (.vault _) => if Config.vaultShared ≤ o then .ok else .prot
      | .ok _ => .guard
      | _ => .prot

/-- What stands at `n` bytes that start at an aligned address; a `read` of them meets data that ECC cannot
correct. -/
def slotAt (s : State) (own part : Nat) (read : Bool) (va : DWord) (n : Nat) : Slot :=
  let ends := [slotByte s own part va, slotByte s own part (va + dw (n - 1))]
  let k := vaultRaw s own part va
  if ends.contains .prot then .prot
  else if ends.contains .guard then .guard
  else if read && s.bad.any (fun b => decide (k ≤ b) && decide (b < k + n)) then .ecc
  else .ok

/-- Whether a slot may be accessed. -/
def Slot.isOk : Slot → Bool
  | .ok => true
  | _ => false

/-- The cause of a precise fault at a slot, if any: a guard byte is none. -/
def Slot.cause : Slot → Option Nat
  | .prot => some 0x07
  | .ecc => some 0x14
  | _ => none

/-! ### The overflow area (R268) -/

/-- Whether an overflow address names this die's memory (R271). -/
def ovHome (s : State) (va : DWord) : Bool :=
  (vaSpace va = 1 || vaSpace va = 0) && (vaDie va = s.dieid.toNat || (vaSpace va = 0 && vaDie va = 0xFFF))

/-- Bytes of the overflow area as the unit reads them, or the cause it meets. -/
def ovRead (s : State) (ctx part : Nat) (va : DWord) (n : Nat) : Except Nat (List Byte) :=
  if ovHome s va then engRead s ctx part false va n else .error 0x07

/-- Bytes of the overflow area written by the unit, or the cause it meets. -/
def ovWrite (s : State) (ctx part : Nat) (va : DWord) (bs : List Byte) : Except Nat State :=
  if ovHome s va then engPut s ctx part false va bs else .error 0x07

/-- OVHEAD and OVTAIL, or the cause that keeps the unit from the header; none for a queue without an overflow area. -/
def ovHeader (s : State) (ctx part : Nat) (c : Qcw) : Option (Except Nat (Nat × Nat)) :=
  if c.ovdepth = 0 then none
  else match ovRead s ctx part c.ovbase 16, engCheck s ctx part false c.ovbase 16 with
    | .ok bs, none => some (.ok (natOfBytes (bs.take 4), natOfBytes ((bs.drop 4).take 4)))
    | .error e, _ => some (.error e)
    | _, some e => some (.error e)

/-- OVHEAD and OVTAIL: none for a queue without an overflow area, and `some none` where the header cannot be
accessed. -/
def ovHead (s : State) (ctx part : Nat) (c : Qcw) : Option (Option (Nat × Nat)) :=
  (ovHeader s ctx part c).map (fun r => match r with | .ok x => some x | .error _ => none)

/-- ECC that the unit meets in the overflow area is told to the context; the access is a drop besides (R15, R256, R271). -/
def ovEcc (s : State) (ctx part : Nat) (home : Nat) (va : DWord) (access code : Nat) : State :=
  if code = 0x14 then
    let g := agentWord 0 s.dieid.toNat 0 0
    postCause s ctx part
      { code := 0x14, imp := true, await := false, task := none, faddr := va, fagent := g, access := access, agent := g,
        core := some home }
  else s

/-- Elements in the overflow area; one whose header cannot be accessed gives none. -/
def ovCount (s : State) (ctx part : Nat) (c : Qcw) : Nat :=
  match ovHead s ctx part c with | some (some (h, t)) => diff32 t h | _ => 0

/-- A 32-bit field of the header written. -/
def ovSet (s : State) (ctx part : Nat) (c : Qcw) (off x : Nat) : State :=
  engWrite s ctx part false (c.ovbase + dw off) (bytesOf 4 (x % 2 ^ 32))

/-- DROP grows by 1. -/
def ovDrop (s : State) (ctx part : Nat) (c : Qcw) : State :=
  match engRead s ctx part false (c.ovbase + 8) 8 with
  | .ok bs => if c.ovdepth = 0 then s else engWrite s ctx part false (c.ovbase + 8) (bytesOf 8 ((natOfBytes bs + 1) % 2 ^ 64))
  | .error _ => s

/-- The location of an address of the overflow area. -/
def ovLoc (s : State) (ctx part : Nat) (va : DWord) : Loc :=
  match locate s ctx part false false va with | .ok l => l | _ => .guard

/-- The releases recorded at a location passed to another (R273: an element keeps its push). -/
def passSync (s : State) (a b : Loc) : State :=
  match granKey a with
  | none => s
  | some k => (granOf s k).sync.foldl (fun s r => syncAt s b r) s

/-! ### Refill, push and pop (R271) -/

/-- The possible refills of a queue, up to the fuel. An element that cannot be read, or whose slot is no allocation's,
is lost (R271; log 42). -/
def refill (s : State) (ctx own part : Nat) (q : DWord) : Nat → State
  | 0 => s
  | fuel + 1 =>
    let c := qcwOf s own part q
    match ovHead s ctx part c with
    | some (some (h, t)) =>
      if diff32 t h = 0 || c.depth ≤ c.count then s
      else
        let n := elemBytes c.esize
        let src := c.ovSlot h
        let dst := c.slot c.tail
        let s' := ovSet s ctx part c 0 (h + 1)
        match (slotAt s own part false dst n).isOk, ovRead s ctx part src n with
        | true, .ok bs =>
          let s' := passSync s' (ovLoc s ctx part src) (.vault (vaultRaw s own part dst))
          let s' := { s' with mem := memPut s'.mem (vaultRaw s own part dst) bs }
          refill (qcwSet s' own part q c.head (c.tail + 1)) ctx own part q fuel
        | _, .error e => refill (ovDrop (ovEcc s' ctx part c.home src 0 e) ctx part c) ctx own part q fuel
        | _, _ => refill (ovDrop s' ctx part c) ctx own part q fuel
    | _ => s

/-- Every refill that is possible. -/
def refillAll (s : State) (ctx own part : Nat) (q : DWord) : State :=
  refill s ctx own part q (ovCount s ctx part (qcwOf s own part q))

/-- What became of a push; `fault` is a cause with its address. -/
inductive PushOut where
  | placed
  | nack
  | dropped
  | guard (va : DWord)
  | fault (code : Nat) (va : DWord)
  | wait
  deriving DecidableEq, Repr

/-- An element padded or cut. -/
def padTo (n : Nat) (bs : List Byte) : List Byte := (List.range n).map (fun i => bs.getD i 0)

/-- An element entering the ring; `rel` makes the push's release (R273). -/
def ringPut (s : State) (own part : Nat) (q : DWord) (c : Qcw) (bs : List Byte) (rel : State → State × Rel) : State × PushOut :=
  let n := elemBytes c.esize
  let va := c.slot c.tail
  match slotAt s own part false va n with
  | .guard => (s, .guard va)
  | .ok =>
    let (s, r) := rel s
    let s := { s with mem := memPut s.mem (vaultRaw s own part va) (padTo n bs) }
    let s := syncAt s (.vault (vaultRaw s own part va)) r
    (qcwSet s own part q c.head (c.tail + 1), .placed)
  | x => (s, .fault (x.cause.getD 0x07) va)

/-- A push served by the home queue unit (R271). -/
def pushAt (s : State) (ctx own part : Nat) (q : DWord) (gen : BitVec 16) (bs : List Byte) (near : Bool)
    (rel : State → State × Rel) : State × PushOut :=
  match slotAt s own part true q 32 with
  | .prot => (s, .fault 0x07 q)
  | .ecc => (s, .fault 0x14 q)
  | .guard => (s, .guard q)
  | .ok =>
    let s := refillAll s ctx own part q
    let c := qcwOf s own part q
    let room := decide (c.count < c.depth)
    if gen ≠ c.gen then (s, .nack)
    else if near then
      if room then ringPut s own part q c bs rel else (s, .wait)
    else
      match ovHeader s ctx part c with
      | none => if room then ringPut s own part q c bs rel else (ovDrop s ctx part c, .dropped)
      | some (.error e) => (ovDrop (ovEcc s ctx part c.home c.ovbase 0 e) ctx part c, .dropped)
      | some (.ok (h, t)) =>
        let va := c.ovSlot t
        let n := elemBytes c.esize
        if diff32 t h = 0 && room then ringPut s own part q c bs rel
        else if c.ovdepth ≤ diff32 t h then (ovDrop s ctx part c, .dropped)
        else
          match ovWrite s ctx part va (padTo n bs) with
          | .error e => (ovDrop (ovEcc s ctx part c.home va 1 e) ctx part c, .dropped)
          | .ok _ =>
            let (s, r) := rel s
            let s := engWrite s ctx part false va (padTo n bs)
            let s := syncAt s (ovLoc s ctx part va) r
            (ovSet s ctx part c 4 (t + 1), .placed)

/-- What became of a pop: its element and the release it takes up, or a cause with its address. -/
inductive PopOut where
  | got (bs : List Byte) (n : Nat)
  | nack
  | guard (va : DWord)
  | fault (code : Nat) (va : DWord)
  | wait
  deriving DecidableEq, Repr

/-- A pop served by the home queue unit (R271), for an agent of a core, partition and context. -/
def popAt (s : State) (ctx own part core : Nat) (q : DWord) (gen : BitVec 16) : State × PopOut :=
  match slotAt s own part true q 32 with
  | .prot => (s, .fault 0x07 q)
  | .ecc => (s, .fault 0x14 q)
  | .guard => (s, .guard q)
  | .ok =>
    let s := refillAll s ctx own part q
    let c := qcwOf s own part q
    if gen ≠ c.gen then (s, .nack)
    else if c.count = 0 then (s, .wait)
    else
      let n := elemBytes c.esize
      let va := c.slot c.head
      let s' := qcwSet s own part q (c.head + 1) c.tail
      match slotAt s own part true va n with
      | .guard => (s', .guard va)
      | .ok =>
        (s', .got (memBytes s.mem (vaultRaw s own part va) n) (acquired s (.vault (vaultRaw s own part va)) 3 core part ctx))
      | x => (s, .fault (x.cause.getD 0x07) va)

/-- Elements a queue holds, ring and overflow. -/
def queueCount (s : State) (ctx own part : Nat) (q : DWord) : Nat :=
  let c := qcwOf s own part q
  c.count + ovCount s ctx part c

/-- Room in the ring once refills are made. -/
def ringRoom (s : State) (ctx own part : Nat) (q : DWord) : Nat :=
  let c := qcwOf (refillAll s ctx own part q) own part q
  c.depth - c.count

/-- The causes that a push (`access` 1) or pop (0) by an agent makes pending at a wave (R206, R272); the failing agent of
an ECC is that agent (R99). -/
def pendQueue (s : State) (wave : Nat) (ag : DWord) (access : Nat) (q : DWord) (lane : Bool) (elpc : DWord) (code : Nat)
    (va : DWord) : State :=
  makePending s wave code
    { faddr := if code = 0x0C || code = 0x0D then q else va, fagent := if code = 0x14 then ag else 0, lane := lane,
      elpc := elpc, access := access }

/-- The cause of a push that was not placed, made pending; PROT too where the sender has gone on (log 42). -/
def pushPend (s : State) (wave : Nat) (ag : DWord) (q : DWord) (lane : Bool) (elpc : DWord) : PushOut → State
  | .nack => pendQueue s wave ag 1 q lane elpc 0x0C 0
  | .dropped => pendQueue s wave ag 1 q lane elpc 0x0D 0
  | .guard va => pendQueue s wave ag 1 q lane elpc 0x08 va
  | .fault code va => pendQueue s wave ag 1 q lane elpc code va
  | _ => s

/-! ### Handles (R269, R270) -/

/-- A handle of the focus wave. -/
def handleOf (w : Wave) (n : Nat) : Option Handle := SMap.get? w.handles n

/-- Whether an operation by a core's agent is local. -/
def Handle.near (h : Handle) (s : State) (core : Nat) : Bool :=
  h.home = core && (vaDie h.qcw = 0xFFF || vaDie h.qcw = s.dieid.toNat)

/-- A remote push takes an entry of its core's buffer. -/
def takeEntry (s : State) (core : Nat) (p : RPush) : State :=
  modCore s core (fun c => { c with pushes := c.pushes ++ [p] })

/-- Free entries of a core's buffer. -/
def entriesFree (s : State) (core : Nat) : Nat := Config.pushBuffer - (coreOf s core).pushes.length

/-- What several pops gave: none when the agent must wait, or a cause with its address, and then nothing is popped. -/
abbrev PopResult (α : Type) : Type := Option (Except (Nat × DWord) α)

/-- The elements of several pops from one queue by the focus wave; nacks and guards give 0 and a pending
cause. -/
def popMany (s : State) (h : Handle) (lane : Bool) (elpc : DWord) : List Nat → PopResult (State × SMap (List Byte) × Nat)
  | [] => some (.ok (s, [], 0))
  | i :: l =>
    let zero := List.replicate (elemBytes h.esize) 0
    let rest (s : State) (bs : List Byte) (n : Nat) : PopResult (State × SMap (List Byte) × Nat) :=
      (popMany s h lane elpc l).map (fun r => r.map (fun r => (r.1, (i, bs) :: r.2.1, Nat.max n r.2.2)))
    match popAt s s.w.ctx h.owner s.w.part s.w.sys.core.toNat h.qcw h.gen with
    | (_, .wait) => none
    | (_, .fault code va) => some (.error (code, va))
    | (s, .got bs n) => rest s bs n
    | (s, .nack) => rest (pendQueue s s.w.id s.w.word 0 h.qcw lane elpc 0x0C 0) zero 0
    | (s, .guard va) => rest (pendQueue s s.w.id s.w.word 0 h.qcw lane elpc 0x08 va) zero 0

/-- FAGENT of a precise fault that a queue operation raises. -/
def unitAgent (w : Wave) (code : Nat) : DWord := if code = 0x14 then w.word else 0

/-- The release of a push of the focus wave, made as it is placed (R273). -/
def pushRelease (s : State) : State × Rel :=
  let (t, n) := releaseW s 3
  (t, { n := n, scope := 3, core := s.w.sys.core.toNat, part := s.w.part, ctx := s.w.ctx })

/-- Elements pushed in order through a local handle of the focus wave, or a cause with its address, and then nothing is
pushed. -/
def pushNear (s : State) (h : Handle) (lane : Bool) (elpc : DWord) : List (List Byte) → Except (Nat × DWord) State
  | [] => .ok s
  | bs :: l =>
    match pushAt s s.w.ctx h.owner s.w.part h.qcw h.gen bs true pushRelease with
    | (_, .fault code va) => .error (code, va)
    | (s, o) => pushNear (pushPend s s.w.id s.w.word h.qcw lane elpc o) h lane elpc l

/-- Elements pushed in order through a remote handle of the focus wave: each takes an entry. Its L1 is written through
now, and the release follows when the push is placed (R273). -/
def pushFar (s : State) (h : Handle) (lane : Bool) (elpc : DWord) (els : List (List Byte)) : State :=
  let core := s.w.sys.core.toNat
  let s := writeThrough s core
  els.foldl (fun s bs =>
    takeEntry s core
      { qcw := h.qcw, owner := h.owner, ctx := s.w.ctx, part := s.w.part, gen := h.gen, data := bs, wave := s.w.id,
        lane := lane, elpc := elpc, covers := openGrans s s.w.id, home := h.home }) s

/-- Whether local pushes of `n` elements through a handle may go on now (R275). -/
def pushReady (s : State) (h : Handle) (n : Nat) : Bool :=
  !(slotAt s h.owner s.w.part true h.qcw 32).isOk ||
  decide (h.gen ≠ (qcwOf s h.owner s.w.part h.qcw).gen) || decide (n ≤ ringRoom s s.w.ctx h.owner s.w.part h.qcw)

/-- The release of a remote push, made as it is placed (R273). -/
def RPush.release (p : RPush) (core : Nat) (s : State) : State × Rel :=
  let (s, n) := publishIn s p.covers [p.wave] p.part
  (s, { n := n, scope := 3, core := core, part := p.part, ctx := p.ctx })

/-- What another die's queue unit answers to a push (R271): drawn anew for each. -/
def remotePushOut (s : State) (q : DWord) : PushOut :=
  match Config.remoteAnswer s.clock s.free q with
  | 1 => .nack
  | 2 => .dropped
  | 3 => .guard (Config.freeWord s.free)
  | _ => .placed

/-- A push taken from a core's buffer and served at its home (R270, R271), on this die or on another. -/
def servePush (s : State) (core k : Nat) : State :=
  match (coreOf s core).pushes[k]? with
  | none => s
  | some p =>
    if ((coreOf s core).pushes.take k).any (fun o => o.home = p.home) then s
    else
      let s := modCore s core (fun c => { c with pushes := c.pushes.eraseIdx k })
      let (s, o) :=
        if vaDie p.qcw = 0xFFF || vaDie p.qcw = s.dieid.toNat then
          pushAt s p.ctx p.owner p.part p.qcw p.gen p.data false (p.release core)
        else
          let o := remotePushOut s p.qcw
          let s := { s with free := s.free + 1 }
          (if o = .placed then (p.release core s).1 else s, o)
      pushPend s p.wave (((waveOf s p.wave).map Wave.word).getD 0) p.qcw p.lane p.elpc o

/-- The context whose allocation, live or in an image, holds a vault-window address of a partition. -/
def ownerOf (s : State) (part : Nat) (va : DWord) (else_ : Nat) : Nat :=
  let j := vaOff va / 2 ^ 25
  let o := vaOff va % 2 ^ 25
  match (SMap.vals (partOf s part).allocs).find? (fun a => a.holds j o) with
  | some a => a.ctx
  | none =>
    ((SMap.keys s.contexts).find? (fun c => decide ((ctxOf s c).part = part) &&
      (match ownerImage s c with | some (_, i) => (SMap.vals i.allocs).any (fun a => a.holds j o) | none => false))).getD else_

/-- A push that arrives from another die, served at this one (R271); what became of it is answered there. -/
def arrivingPush (s : State) (ctx part : Nat) (q : DWord) (gen : BitVec 16) (bs : List Byte) : State :=
  (pushAt s ctx (ownerOf s part q ctx) part q gen bs false
    (fun s => (s, { n := 0, scope := 4, core := Config.cores + Config.clusters, part := part, ctx := ctx }))).1

/-- A control word named by a handle or a node: its allocation keeps where it is (R267). -/
def nameQcw (s : State) (part : Nat) (va : DWord) : State :=
  let j := vaOff va / 2 ^ 25
  let o := vaOff va % 2 ^ 25
  modPart s part (fun p =>
    { p with allocs := p.allocs.map (fun ka =>
        if ka.2.holds j o && !ka.2.qcws.contains o then (ka.1, { ka.2 with qcws := o :: ka.2.qcws }) else ka) })

end Sys2Proof.Machine
end

