-- ==== Sys2Proof/Machine/Handles.lean ====
section
/-! DEFINITION. Scalar queue instructions (15, R274) and the remote-push service (R271). -/

namespace Sys2Proof.Machine

/-- `n` quadwords at an address, read as plain loads of the scalar stream. -/
def wideLoad (s : State) (va : DWord) (n : Nat) (k : State → List DWord → State) : State :=
  let xs := (List.range n).map (fun i => { lane := i, va := va + dw (8 * i), size := 8, op := .load : Acc })
  let r := makeAccesses s (s.w.agent (s.w.sys.fpmode.getLsbD 1)) AccMode.plain s.w.epoch xs
  match r.trap with
  | some (c, f, g) => scalarTrap (accGuard s r false 0 0) c f g
  | none =>
    match xs.find? (fun x => r.page.contains x.lane) with
    | some x => pageAt s 0 x.va
    | none =>
      k (accGuard s r false 0 0) ((List.range n).map (fun i => dw (natOfBytes (SMap.getD r.vals i []))))

/-- Whether `n` bytes at a vault-window address of this die lie in one allocation of the partition
(allocations never touch, R205). -/
def inAlloc (s : State) (part : Nat) (va : DWord) (n : Nat) : Bool :=
  vaSpace va = 0xE && (vaDie va = 0xFFF || vaDie va = s.dieid.toNat) && decide (vaOff va / 2 ^ 31 = 0) &&
  (SMap.vals (partOf s part).allocs).any (fun a =>
    decide (a.vault = vaOff va / 2 ^ 25 % 64) && decide (a.start ≤ vaOff va % 2 ^ 25) &&
    decide (vaOff va % 2 ^ 25 + n ≤ a.start + a.size))

/-- The die an address names. -/
def dieOf (s : State) (va : DWord) : Nat := if vaDie va = 0xFFF then s.dieid.toNat else vaDie va

/-- Whether a control word read at an address passes QBIND's checks (R274). In the OVBASE of a control word of another die,
DIE 0xFFF names the die that binds, as in any address its wave uses (log 108). -/
def qcwOk (s : State) (part : Nat) (va : DWord) (q : List DWord) : Bool :=
  let c := Qcw.ofQuads q
  let home := dieOf s va = s.dieid.toNat
  decide (c.ldepth ≤ 20) && decide (c.esize ≤ 5) && decide (c.base.toNat % elemBytes c.esize = 0) &&
  (!home || inAlloc s part c.base (elemBytes c.esize * c.depth)) &&
  (coresOf (partOf s part)).contains c.home && c.resv == 0 &&
  (c.ovdepth == 0 || ((vaSpace c.ovbase = 0 || vaSpace c.ovbase = 1) &&
    decide ((if vaSpace c.ovbase = 0 && vaDie c.ovbase = 0xFFF then s.dieid.toNat else vaDie c.ovbase) = dieOf s va)))

/-- The handle of a control word at an address (R269). -/
def handleFor (s : State) (va : DWord) (q : List DWord) : Handle :=
  let c := Qcw.ofQuads q
  { qcw := va, owner := ownerOf s s.w.part va s.w.ctx, gen := c.gen, esize := c.esize, ldepth := c.ldepth, home := c.home,
    pushOnly := decide (dieOf s va ≠ s.dieid.toNat) }

/-- A handle bound, checked against the control word read. -/
def bindHandle (s : State) (n : Nat) (va : DWord) (q : List DWord) : State :=
  if qcwOk s s.w.part va q then
    let s' := if dieOf s va = s.dieid.toNat then nameQcw s s.w.part va else s
    advance (modW s' (fun w => { w with handles := SMap.put w.handles n (handleFor s va q) }))
  else scalarTrap s 0x07 va 0

/-- QBIND (R274). -/
def execQbind (sr : BitVec 8) (q : BitVec 5) (s : State) : Result :=
  .next (scalarRead s [sr.toNat] (fun s =>
    let va := getS s.w sr.toNat
    if va = 0 then advance (modW s (fun w => { w with handles := SMap.del w.handles q.toNat }))
    else if !zeroBits va 4 0 then scalarTrap s 0x05 va 0
    else if vaSpace va ≠ 0xE then scalarTrap s 0x07 va 0
    else if dieOf s va ≠ s.dieid.toNat then
      -- the control word of another die, read over the fabric: that die answers (R202, R203, R214)
      if (SMap.get? s.routes (vaDie va)).isNone || vaOff va / 2 ^ 31 ≠ 0 || Config.vaultBytes ≤ vaOff va % 2 ^ 25 ||
          Config.remoteAnswer s.clock s.free va = 2 then
        scalarTrap s 0x07 va 0
      else if Config.remoteAnswer s.clock s.free va = 6 then scalarTrap s 0x14 va s.w.word
      else bindHandle { s with free := s.free + 1 } q.toNat va (quadsOfBytes 4 (homeRead s (.remote va) 32))
    else if !inAlloc s s.w.part va 32 then scalarTrap s 0x07 va 0
    else wideLoad s va 4 (fun s l => bindHandle s q.toNat va l)))

/-- What another die's queue unit counts in ring and overflow: free values, the first within the ring's depth (R214, R274). -/
def remoteCount (s : State) (h : Handle) : Nat :=
  (Config.freeWord s.free).toNat % (2 ^ h.ldepth + 1) + (Config.freeWord (s.free + 1)).toNat % 2 ^ 32 * 2 ^ 32

/-- QCNT (R274): served at the home, this die's or another's; a control word in a guard granule reads 0 (R206). -/
def execQcnt (sr : BitVec 8) (q : BitVec 5) (s : State) : Result :=
  .next (scalarOp s [] sr.toNat (fun s =>
    match handleOf s.w q.toNat with
    | none => scalarTrap s 0x07 0 0
    | some h =>
      if dieOf s h.qcw ≠ s.dieid.toNat then
        match Config.remoteAnswer s.clock s.free h.qcw with
        | 2 => scalarTrap s 0x07 h.qcw 0
        | 6 => scalarTrap s 0x14 h.qcw s.w.word
        | _ => advance (setS { s with free := s.free + 2 } sr.toNat (dw (remoteCount s h)))
      else
      match slotAt s h.owner s.w.part true h.qcw 32 with
      | .prot => scalarTrap s 0x07 h.qcw 0
      | .ecc => scalarTrap s 0x14 h.qcw s.w.word
      | .guard => advance (setS (pendQueue s s.w.id s.w.word 0 h.qcw false 0 0x08 h.qcw) sr.toNat 0)
      | .ok =>
        let s := refillAll s s.w.ctx h.owner s.w.part h.qcw
        let c := qcwOf s h.owner s.w.part h.qcw
        advance (setS s sr.toNat (dw (c.count + ovCount s s.w.ctx s.w.part c * 2 ^ 32)))))

/-- QPUSHS (R274). -/
def execQpushs (sr : BitVec 8) (q : BitVec 5) (s : State) : Result :=
  .next (scalarRead s [sr.toNat] (fun s =>
    match handleOf s.w q.toNat with
    | none => scalarTrap s 0x07 0 0
    | some h =>
      let els := [padTo (elemBytes h.esize) (bytesOf 8 (getS s.w sr.toNat).toNat)]
      if h.near s s.w.sys.core.toNat then
        if pushReady s h 1 then
          match pushNear s h false 0 els with
          | .ok t => advance t
          | .error (code, va) => scalarTrap s code va (unitAgent s.w code) 1
        else waitHere s
      else if entriesFree s s.w.sys.core.toNat = 0 then waitHere s
      else advance (pushFar s h false 0 els)))

/-- QPOPS (R274). -/
def execQpops (sr : BitVec 8) (q : BitVec 5) (s : State) : Result :=
  .next (scalarOp s [] sr.toNat (fun s =>
    match handleOf s.w q.toNat with
    | none => scalarTrap s 0x07 0 0
    | some h =>
      if h.pushOnly then scalarTrap s 0x07 0 0
      else
        match popMany s h false 0 [0] with
        | none => waitHere s
        | some (.error (code, va)) => scalarTrap s code va (unitAgent s.w code)
        | some (.ok (s, els, n)) =>
          let e := natOfBytes ((SMap.getD els 0 []).take 8)
          advance (setS (acquireW s 3 n) sr.toNat (dw e))))

/-- REMOTE_PUSH_SERVE: entry k of core n's buffer reaches its home (R271). -/
def execRemotePushServe (s : State) : Result := .next (servePush s s.target.n s.target.k)

end Sys2Proof.Machine
end

