-- ==== Sys2Proof/Machine/Streams.lean ====
section
/-! DEFINITION. Stream registers and the stream unit (15, R276 to R278). -/

namespace Sys2Proof.Machine

/-! ### The descriptor (Table 15-5) -/

namespace Stream
/-- BATCH. -/
def batch (d : DWord) : Nat := bits d 19 17
/-- IQ. -/
def iqOf (d : DWord) : Nat := bits d 16 12
/-- DQ. -/
def dqOf (d : DWord) : Nat := bits d 11 7
/-- ISRC. -/
def isrc (d : DWord) : Bool := d.getLsbD 6
/-- ISIZE. -/
def isize (d : DWord) : Nat := bits d 5 4
/-- DIR. -/
def scatter (d : DWord) : Bool := d.getLsbD 3
/-- ESIZE. -/
def esize (d : DWord) : Nat := bits d 2 0
/-- Bytes of an index. -/
def indexBytes (d : DWord) : Nat := if isize d = 2 then 8 else 4

/-- An index extended by ISIZE, from its bytes. -/
def index (d : DWord) (bs : List Byte) : Int :=
  let n := natOfBytes (bs.take (indexBytes d))
  if isize d = 1 && decide (2 ^ 31 ≤ n) then (n : Int) - 2 ^ 32 else n

/-- The address of an element. -/
def address (st : Stream) (i : Int) : DWord := dwI ((st.d0.toNat : Int) + (st.d2.extractLsb' 32 32).toInt * i)

/-- COUNT. -/
def count (st : Stream) : Nat := bits st.d2 31 0

/-- Elements of the next firing. -/
def declared (st : Stream) : Nat := Nat.min (2 ^ batch st.d3) st.remaining
end Stream

/-- Whether a handle serves a stream of the focus wave with elements of a size. -/
def streamHandle (w : Wave) (n : Nat) (ok : Handle → Bool) : Option Handle :=
  match handleOf w n with
  | some h => if !h.pushOnly && decide (h.home = w.sys.core.toNat) && ok h then some h else none
  | none => none

/-- The stream of a descriptor, or none where GCFG raises PROT (R277). -/
def streamOf (w : Wave) (uid : Nat) (d : List DWord) : Option Stream :=
  let d3 := d.getD 3 0
  if !zeroBits d3 63 20 || 5 < Stream.batch d3 || Stream.isize d3 = 3 || 5 < Stream.esize d3 then none
  else
    match streamHandle w (Stream.dqOf d3) (fun h => h.esize = Stream.esize d3) with
    | none => none
    | some dq =>
      let iq := streamHandle w (Stream.iqOf d3) (fun h => decide (Stream.indexBytes d3 ≤ elemBytes h.esize))
      if Stream.isrc d3 && iq.isNone then none
      else
        some { uid := uid, d0 := d.getD 0 0, d1 := d.getD 1 0, d2 := d.getD 2 0, d3 := d3, dq := dq,
               iq := if Stream.isrc d3 then iq else none, remaining := bits (d.getD 2 0) 31 0, run := false,
               done := false, flt := false, parked := none, failed := [], acq := 0, race := false, midway := none }

/-- A wave's stream register written. -/
def setStream (s : State) (wave n : Nat) (st : Stream) : State :=
  modWave s wave (fun w => { w with streams := SMap.put w.streams n st })

/-- GSTOP's effect on a register of the focus wave: no further firing, and the writes published. -/
def stopStream (s : State) (n : Nat) : State :=
  match SMap.get? s.w.streams n with
  | none => s
  | some st =>
    let (s, _) := publishFor s st.uid s.w.part s.w.sys.core.toNat (some s.w.id)
    setStream s s.w.id n { st with run := false }

/-- No further firing of a register of the focus wave begins; one under way goes on (R277). -/
def haltStream (s : State) (n : Nat) : State :=
  match SMap.get? s.w.streams n with
  | some st => setStream s s.w.id n { st with run := false }
  | none => s

/-- Whether a stream's firing is under way: it waits for service, or has elements left (R278). -/
def streamBusy (w : Wave) (n : Nat) : Bool :=
  match SMap.get? w.streams n with | some st => st.midway.isSome | none => false

/-- GCFG (R277): one that traps has not begun (R108), and so stops nothing. -/
def execGcfg (sr : BitVec 8) (g : BitVec 3) (s : State) : Result :=
  .next (scalarRead s [sr.toNat] (fun s =>
    let va := getS s.w sr.toNat
    if !zeroBits va 2 0 then scalarTrap s 0x05 va 0
    else wideLoad s va 4 (fun s d =>
      let (s', uid) := freshId (stopStream s g.toNat)
      match streamOf s.w uid d with
      | none => scalarTrap s 0x07 va 0
      | some st =>
        if streamBusy s.w g.toNat then waitHere (haltStream s g.toNat)
        else advance (setStream s' s.w.id g.toNat st))))

/-- GSTART (R277). -/
def execGstart (g : BitVec 3) (s : State) : Result :=
  .next (match SMap.get? s.w.streams g.toNat with
    | none => scalarTrap s 0x07 0 0
    | some st =>
      if st.run || st.done then advance s
      else advance (setStream s s.w.id g.toNat
        { st with run := true, acq := s.w.startAcq, race := s.w.sys.fpmode.getLsbD 1 }))

/-- GSTOP (R277). -/
def execGstop (g : BitVec 3) (s : State) : Result :=
  .next (if (SMap.get? s.w.streams g.toNat).isNone then scalarTrap s 0x07 0 0
    else if streamBusy s.w g.toNat then waitHere (haltStream s g.toNat)
    else advance (stopStream s g.toNat))

/-- GSTAT (R277). -/
def execGstat (sr : BitVec 8) (g : BitVec 3) (s : State) : Result :=
  .next (scalarOp s [] sr.toNat (fun s =>
    match SMap.get? s.w.streams g.toNat with
    | none => scalarTrap s 0x07 0 0
    | some st =>
      advance (setS s sr.toNat (dw (st.remaining + (if st.run then 2 ^ 32 else 0) + (if st.done then 2 ^ 33 else 0) +
        (if st.flt then 2 ^ 34 else 0))))))

/-! ### Firing (R278) -/

/-- A stream as an agent. -/
def streamAgent (w : Wave) (n : Nat) (st : Stream) : Agent :=
  { uid := st.uid, word := agentWord 4 w.sys.dieid.toNat w.sys.core.toNat n, ctx := w.ctx, part := w.part,
    core := w.sys.core.toNat, slot := w.sys.slot, race := st.race, acq := st.acq,
    starter := some w.id }

/-- Whether pops through these handles, in order, would wait nowhere: each gives an element or its cause. Elements that a
refill would lose (R271) are none. -/
def popsReady (w : Wave) : State → List Handle → Bool
  | _, [] => true
  | s, h :: l =>
    match popAt s w.ctx h.owner w.part w.sys.core.toNat h.qcw h.gen with
    | (_, .wait) => false
    | (s, _) => popsReady w s l

/-- Whether a queue takes `n` pushes at once, or its generation has changed. -/
def pushesReady (s : State) (w : Wave) (h : Handle) (n : Nat) : Bool :=
  !(slotAt s h.owner w.part true h.qcw 32).isOk ||
  decide ((qcwOf s h.owner w.part h.qcw).gen ≠ h.gen) || decide (n ≤ ringRoom s w.ctx h.owner w.part h.qcw)

/-- The queues that one element is popped from, in order. -/
def Stream.inputs (st : Stream) : List Handle := st.iq.toList ++ (if Stream.scatter st.d3 then [st.dq] else [])

/-- Whether a stream may fire, or go on with a firing: one under way does so where the stream has been stopped too. -/
def mayFire (s : State) (w : Wave) (st : Stream) : Bool :=
  let m := st.midway.getD st.declared
  (st.run || st.midway.isSome) && st.parked.isNone &&
  popsReady w s ((List.replicate m st.inputs).flatten) && (Stream.scatter st.d3 || pushesReady s w st.dq m)

/-- What an element came to; it waits where the firing's own stores emptied its queue. -/
inductive Fired where
  | ok (s : State) (st : Stream)
  | fault (code : Nat) (va fagent : DWord) (kind : Nat)
  | page (kind : Nat) (va : DWord)
  | wait
  deriving DecidableEq, Repr

/-- A pop of a stream, with its raised Acq; the fire rule says that it does not wait. -/
def streamPop (s : State) (w : Wave) (ag : DWord) (st : Stream) (h : Handle) (k : State → List Byte → Stream → Fired) : Fired :=
  let zero := List.replicate (elemBytes h.esize) 0
  match popAt s w.ctx h.owner w.part w.sys.core.toNat h.qcw h.gen with
  | (s, .got bs n) => k s bs { st with acq := Nat.max st.acq n }
  | (s, .nack) => k (pendQueue s w.id ag 0 h.qcw false 0 0x0C 0) zero st
  | (s, .guard va) => k (pendQueue s w.id ag 0 h.qcw false 0 0x08 va) zero st
  | (_, .fault code va) => .fault code va (if code = 0x14 then ag else 0) 0
  | (_, .wait) => .wait

/-- A result of an access, with the bytes a guard gives. -/
def firedOr (s : State) (w : Wave) (kind n : Nat) (r : State × EngOut) (k : State → List Byte → Fired) : Fired :=
  match r with
  | (s', .ok bs) => k s' bs
  | (_, .fault c va fg) => .fault c va fg kind
  | (_, .page va) => .page kind va
  | (_, .guard va) =>
    k (makePending s w.id 0x08 { faddr := va, fagent := 0, lane := false, elpc := 0, access := kind }) (List.replicate n 0)

/-- The release of a stream's push, made as it is placed (R273). -/
def streamRelease (w : Wave) (st : Stream) (s : State) : State × Rel :=
  let (s, n) := publishFor s st.uid w.part w.sys.core.toNat (some w.id)
  (s, { n := n, scope := 3, core := w.sys.core.toNat, part := w.part, ctx := w.ctx })

/-- One element of a firing; where its access meets a fault or a page, nothing of it is performed. R219 gives no alignment
of an element above 16 bytes: it is that of the whole element (log 110). -/
def fireElem (s : State) (w : Wave) (n : Nat) (st : Stream) : Fired :=
  let a := streamAgent w n st
  let i := st.count - st.remaining
  let ib := Stream.indexBytes st.d3
  let eb := elemBytes (Stream.esize st.d3)
  let go (s : State) (ix : List Byte) (st : Stream) : Fired :=
    let va := st.address (Stream.index st.d3 ix)
    if va.toNat % eb ≠ 0 then .fault 0x05 va 0 (if Stream.scatter st.d3 then 1 else 0)
    else if Stream.scatter st.d3 then
      streamPop s w a.word st st.dq (fun s e st =>
        firedOr s w 1 eb (engStore s { a with acq := st.acq } false false st.failed [] va e) (fun s _ => .ok s st))
    else
      firedOr s w 0 eb (engLoad s { a with acq := st.acq } false st.failed va eb) (fun s bs =>
        match pushAt s w.ctx st.dq.owner w.part st.dq.qcw st.dq.gen bs true (streamRelease w st) with
        | (_, .fault code va) => .fault code va (if code = 0x14 then a.word else 0) 1
        | (_, .wait) => .wait
        | (s, o) => .ok (pushPend s w.id a.word st.dq.qcw false 0 o) st)
  match st.iq with
  | some h => streamPop s w a.word st h go
  | none =>
    let va := st.d1 + dw (ib * i)
    if va.toNat % ib ≠ 0 then .fault 0x05 va 0 0
    else firedOr s w 0 ib (engLoad s a false st.failed va ib) (fun s ix => go s ix st)

/-- The elements of a firing, `m` still to do. -/
def fireFrom (s : State) (w : Wave) (n : Nat) (st : Stream) : Nat → State
  | 0 =>
    setStream s w.id n
      (if st.remaining = 0 then { st with run := false, done := true, midway := none } else { st with midway := none })
  | m + 1 =>
    match fireElem s w n st with
    | .ok s st => fireFrom s w n { st with remaining := st.remaining - 1 } m
    | .fault c va fg kind =>
      setStream (makePending s w.id c { faddr := va, fagent := fg, lane := false, elpc := 0, access := kind }) w.id n
        { st with run := false, flt := true, midway := none }
    | .page kind va =>
      let (s, id) := parkAgent s (streamAgent w n st) w.task kind va
      setStream s w.id n { st with parked := some id, midway := some (m + 1) }
    | .wait => setStream s w.id n { st with midway := some (m + 1) }

/-- A stream's place in its core's round robin, from 1. -/
def firePlace (w : Wave) (k : Nat) : Nat := 8 * w.slotNo + k + 1

/-- Whether it is the turn of stream k of a wave: its core has not fired in this cycle, and no stream that may fire comes
between the one that fired last and it (R278). -/
def fireTurn (s : State) (w : Wave) (k : Nat) : Bool :=
  let c := coreOf s w.sys.core.toNat
  let after (n : Nat) : Nat := (n + 512 - c.fired.1 - 1) % 512
  decide (c.fired.2 ≠ s.clock + 1) &&
  !((allWaves s).any (fun x => x.placed && decide (x.sys.core = w.sys.core) &&
      x.streams.any (fun kst => decide (after (firePlace x kst.1) < after (firePlace w k)) && mayFire s x kst.2)))

/-- STREAM_FIRING: stream register k of wave n (R278). -/
def execStreamFiring (s : State) : Result :=
  .next (match waveOf s s.target.n with
    | none => s
    | some w =>
      match SMap.get? w.streams s.target.k with
      | none => s
      | some st =>
        if w.placed && mayFire s w st && fireTurn s w s.target.k then
          let s := modCore s w.sys.core.toNat (fun c => { c with fired := (firePlace w s.target.k, s.clock + 1) })
          fireFrom s w s.target.k st (st.midway.getD st.declared)
        else s)

end Sys2Proof.Machine
end

