-- ==== Sys2Proof/Machine/Lane.lean ====
section
/-! DEFINITION. The frame every arithmetic-form lane instruction shares: issue, queue operands (R126),
and results by lane (R123, R124). -/

namespace Sys2Proof.Machine

/-- A handle a pop may use: bound, and not push-only (R275). -/
def popHandle (w : Wave) (q : Nat) : Option Handle :=
  match handleOf w q with
  | some h => if h.pushOnly then none else some h
  | none => none

/-- Pops in a given order, each from a handle for a lane and an operand (b true). Nacks and guards give 0 and a pending
cause. -/
def popSeq (s : State) (elpc : DWord) : List (Nat × Bool × Handle) → PopResult (State × Pops × Nat)
  | [] => some (.ok (s, Pops.none, 0))
  | (i, b, h) :: l =>
    match popMany s h true elpc [i] with
    | none => none
    | some (.error e) => some (.error e)
    | some (.ok (s, e, n)) =>
      (popSeq s elpc l).map (fun r => r.map (fun r =>
        let v := natOfBytes ((SMap.getD e i []).take 8)
        let p := r.2.1
        (r.1, if b then { p with b := (i, v) :: p.b } else { p with c := (i, v) :: p.c }, Nat.max n r.2.2)))

/-- The queue operands of an instruction popped for its active lanes, lane by lane, b before c
(R126); an unbound or push-only handle raises PROT. -/
def popOperands (s : State) (x : LArith) (act : Word) (k : State → Pops → State) : State :=
  let qb := match x.b with | .queue q => some q.toNat | _ => none
  let qc := match x.c with | .queue q => some q.toNat | _ => none
  if act = 0 || (qb.isNone && qc.isNone) then k s Pops.none
  else if (qb.toList ++ qc.toList).any (fun q => (popHandle s.w q).isNone) then laneTrap s 0x07 0 0
  else
    let hb := qb.bind (popHandle s.w)
    let hc := qc.bind (popHandle s.w)
    let order := (lanesOf act).flatMap (fun i => (hb.map (fun h => (i, true, h))).toList ++ (hc.map (fun h => (i, false, h))).toList)
    match popSeq s s.w.lane.issue.elpc order with
    | none => unissue s
    | some (.error (code, va)) => laneTrap s code va (unitAgent s.w code)
    | some (.ok (s, p, n)) => k (acquireW s 3 n) p

/-- An arithmetic-form instruction issues: the continuation gets its active lanes and its pops. -/
def laneArith (s : State) (i : Instr) (x : LArith) (k : State → Word → Pops → State) : State :=
  laneStart s i (fun s =>
    let act := active s.w i
    popOperands s x act (fun s p => k s act p))

/-- A value for each active lane. -/
def perLane {α : Type} (act : Word) (f : Nat → α) : SMap α := (lanesOf act).map (fun i => (i, f i))

/-- The end of an instruction that writes a value of its type to vd. -/
def laneResult (s : State) (i : Instr) (x : LArith) (act : Word) (f : Nat → Nat) : State :=
  laneDone s i false (laneWrites x.ty.wide x.vd.toNat (perLane act f))

/-- The end of one that writes a predicate. -/
def lanePred (s : State) (i : Instr) (x : LArith) (act : Word) (f : Nat → Bool) : State :=
  laneDone s i false (predWrites (x.vd.toNat % 16) (perLane act f))

end Sys2Proof.Machine
end

