-- ==== Sys2Proof/Machine/LaneInt.lean ====
section
/-! DEFINITION. Integer lane instructions (07, R130 to R137). -/

namespace Sys2Proof.Machine

/-- An element read as its type says (R130). -/
def elemVal (x : LArith) (v : Nat) : Int :=
  if x.ty.isSigned && decide (2 ^ (x.ty.width - 1) ≤ v) then (v : Int) - 2 ^ x.ty.width else v

/-- An exact result as an element: clamped to the element range, or wrapped (R130). -/
def elemResult (x : LArith) (r : Int) : Nat :=
  let w := x.ty.width
  let r' :=
    if !x.m.sat then r
    else if x.ty.isSigned then clampI r (-(2 ^ (w - 1))) (2 ^ (w - 1) - 1)
    else clampI r 0 (2 ^ w - 1)
  (r' % 2 ^ w).toNat

/-- The result of a lane: an operation on each element; `word` reads b as one 32-bit word. -/
def intLane (w : Wave) (x : LArith) (word : Bool) (p : Pops) (f : Int → Int → Int → Int) (i : Nat) : Nat :=
  let as := elemsA w x i
  let bs := if word then [wordB w x p i] else elemsB w x p i
  let cs := elemsC w x p i
  joinElems x.ty.width ((List.range x.ty.elems).map (fun k =>
    let b := bs.getD k 0
    elemResult x (f (elemVal x (as.getD k 0)) (if word then b else elemVal x b) (elemVal x (cs.getD k 0)))))

/-- An integer instruction of an element operation (R130). -/
def laneInt (s : State) (i : Instr) (x : LArith) (word : Bool) (f : Int → Int → Int → Int) : State :=
  laneArith s i x (fun s act p => laneResult s i x act (intLane s.w x word p f))

/-- A bitwise operation on values read as unsigned. -/
def bitOp (f : BitVec 64 → BitVec 64 → BitVec 64) (a b _c : Int) : Int := (f (BitVec.ofInt 64 a) (BitVec.ofInt 64 b)).toNat

/-- The 32-bit word of a value. -/
def word32 (a : Int) : Word := BitVec.ofInt 32 a

/-- VBFE's field (R133). -/
def fieldExtract (signed : Bool) (a b : Word) : Int :=
  let off := bits b 4 0
  let w := Nat.min (bits b 13 8) (32 - off)
  let f := a.toNat / 2 ^ off % 2 ^ w
  if signed && decide (0 < w) && decide (2 ^ (w - 1) ≤ f) then (f : Int) - 2 ^ w else f

/-- VBFI's word (R133). -/
def fieldInsert (a b c : Word) : Word :=
  let off := bits b 4 0
  let w := Nat.min (bits b 13 8) (32 - off)
  let mask : Word := BitVec.ofNat 32 ((2 ^ w - 1) * 2 ^ off)
  (c &&& ~~~ mask) ||| ((a <<< off) &&& mask)

/-- VMIX's hash (R137). -/
def mix (a b : Word) : Word :=
  let x := a ^^^ b
  let x := (x ^^^ (x >>> 16)) * 0x2C1B3C6D
  let x := (x ^^^ (x >>> 12)) * 0x297A2D39
  x ^^^ (x >>> 15)

/-- VADD (R131). -/
def execVadd (x : LArith) (s : State) : Result := .next (laneInt s (.vadd x) x false (fun a b _ => a + b))
/-- VSUB (R131). -/
def execVsub (x : LArith) (s : State) : Result := .next (laneInt s (.vsub x) x false (fun a b _ => a - b))
/-- VMUL (R131). -/
def execVmul (x : LArith) (s : State) : Result := .next (laneInt s (.vmul x) x false (fun a b _ => a * b))
/-- VMULH (R131). -/
def execVmulh (x : LArith) (s : State) : Result := .next (laneInt s (.vmulh x) x false (fun a b _ => a * b / 2 ^ 32))
/-- VMULHU (R131). -/
def execVmulhu (x : LArith) (s : State) : Result := .next (laneInt s (.vmulhu x) x false (fun a b _ => a * b / 2 ^ 32))
/-- VMAD (R131). -/
def execVmad (x : LArith) (s : State) : Result := .next (laneInt s (.vmad x) x false (fun a b c => a * b + c))
/-- VAND (R131). -/
def execVand (x : LArith) (s : State) : Result := .next (laneInt s (.vand x) x false (bitOp (fun a b => a &&& b)))
/-- VOR (R131). -/
def execVor (x : LArith) (s : State) : Result := .next (laneInt s (.vor x) x false (bitOp (fun a b => a ||| b)))
/-- VXOR (R131). -/
def execVxor (x : LArith) (s : State) : Result := .next (laneInt s (.vxor x) x false (bitOp (fun a b => a ^^^ b)))
/-- VANDN (R131). -/
def execVandn (x : LArith) (s : State) : Result := .next (laneInt s (.vandn x) x false (bitOp (fun a b => a &&& ~~~ b)))
/-- VSHL (R132). -/
def execVshl (x : LArith) (s : State) : Result :=
  .next (laneInt s (.vshl x) x false (fun a b _ => a * 2 ^ (b % x.ty.width).toNat))
/-- VSHR (R132): zeros in. -/
def execVshr (x : LArith) (s : State) : Result :=
  .next (laneInt s (.vshr x) x false (fun a b _ => a / 2 ^ (b % x.ty.width).toNat))
/-- VSAR (R132): sign in. -/
def execVsar (x : LArith) (s : State) : Result :=
  .next (laneInt s (.vsar x) x false (fun a b _ => a / 2 ^ (b % x.ty.width).toNat))
/-- VMIN (R131). -/
def execVmin (x : LArith) (s : State) : Result := .next (laneInt s (.vmin x) x false (fun a b _ => if a ≤ b then a else b))
/-- VMAX (R131). -/
def execVmax (x : LArith) (s : State) : Result := .next (laneInt s (.vmax x) x false (fun a b _ => if a ≤ b then b else a))
/-- VMINU (R131). -/
def execVminu (x : LArith) (s : State) : Result := .next (laneInt s (.vminu x) x false (fun a b _ => if a ≤ b then a else b))
/-- VMAXU (R131). -/
def execVmaxu (x : LArith) (s : State) : Result := .next (laneInt s (.vmaxu x) x false (fun a b _ => if a ≤ b then b else a))
/-- VPOPC (R131). -/
def execVpopc (x : LArith) (s : State) : Result := .next (laneInt s (.vpopc x) x false (fun a _ _ => popcount (word32 a)))
/-- VCLZ (R131). -/
def execVclz (x : LArith) (s : State) : Result := .next (laneInt s (.vclz x) x false (fun a _ _ => leadingZeros (word32 a)))
/-- VBREV (R131). -/
def execVbrev (x : LArith) (s : State) : Result := .next (laneInt s (.vbrev x) x false (fun a _ _ => (bitReverse (word32 a)).toNat))
/-- VBFE (R133). -/
def execVbfe (x : LArith) (s : State) : Result :=
  .next (laneInt s (.vbfe x) x false (fun a b _ => fieldExtract x.ty.isSigned (word32 a) (word32 b)))
/-- VBFI (R133). -/
def execVbfi (x : LArith) (s : State) : Result :=
  .next (laneInt s (.vbfi x) x false (fun a b c => (fieldInsert (word32 a) (word32 b) (word32 c)).toNat))
/-- VADD64 (R131). -/
def execVadd64 (x : LArith) (s : State) : Result := .next (laneInt s (.vadd64 x) x false (fun a b _ => a + b))
/-- VSUB64 (R131). -/
def execVsub64 (x : LArith) (s : State) : Result := .next (laneInt s (.vsub64 x) x false (fun a b _ => a - b))
/-- VMUL64 (R131). -/
def execVmul64 (x : LArith) (s : State) : Result := .next (laneInt s (.vmul64 x) x false (fun a b _ => a * b))
/-- VSHL64 (R131): the count is the low six bits of a 32-bit b. -/
def execVshl64 (x : LArith) (s : State) : Result :=
  .next (laneInt s (.vshl64 x) x true (fun a b _ => a * 2 ^ (b % 64).toNat))
/-- VSHR64 (R131). -/
def execVshr64 (x : LArith) (s : State) : Result :=
  .next (laneInt s (.vshr64 x) x true (fun a b _ => a / 2 ^ (b % 64).toNat))
/-- VMIX (R137). -/
def execVmix (x : LArith) (s : State) : Result :=
  .next (laneInt s (.vmix x) x false (fun a b _ => (mix (word32 a) (word32 b)).toNat))

/-- VLANEID (R131). -/
def execVlaneid (x : LArith) (s : State) : Result :=
  .next (laneArith s (.vlaneid x) x (fun s act _ => laneResult s (.vlaneid x) x act id))

/-- VCMP (R134). -/
def execVcmp (x : LArith) (s : State) : Result :=
  .next (laneArith s (.vcmp x) x (fun s act p =>
    lanePred s (.vcmp x) x act (fun i =>
      let a := (elemsA s.w x i).headD 0
      let b := (elemsB s.w x p i).headD 0
      if x.ty.wide then compareCode x.m.aux4.toNat (dw a) (dw b)
      else compareCode x.m.aux4.toNat (BitVec.ofNat 32 a) (BitVec.ofNat 32 b))))

/-- VSEL (R135). -/
def execVsel (x : LArith) (s : State) : Result :=
  .next (laneArith s (.vsel x) x (fun s act p =>
    laneResult s (.vsel x) x act (fun i =>
      if selC s.w x i then fetchA s.w x i else fetchB s.w x false p i)))

/-- VMOV (R136). -/
def execVmov (x : LArith) (s : State) : Result :=
  .next (laneArith s (.vmov x) x (fun s act p =>
    laneResult s (.vmov x) x act (fun i =>
      match x.b with
      | .vec _ => fetchA s.w x i
      | _ => fetchB s.w x false p i)))

/-- VNOP: only its stall (R173). -/
def execVnop (stall : BitVec 4) (s : State) : Result :=
  .next (laneStart s (.vnop stall) (fun s => laneDone s (.vnop stall) false []))

/-- VTRAPIF: VTRAP when an active lane has a AND b nonzero (R174). -/
def execVtrapif (x : LArith) (s : State) : Result :=
  .next (laneArith s (.vtrapif x) x (fun s act p =>
    if (lanesOf act).any (fun i => (BitVec.ofNat 32 (fetchA s.w x i) &&& BitVec.ofNat 32 (wordB s.w x p i)) != 0)
    then laneTrap s 0x04 0 0
    else laneDone s (.vtrapif x) false []))

end Sys2Proof.Machine
end

