-- ==== Sys2Proof/Machine/LaneFloat.lean ====
section
/-! DEFINITION. Floating-point lane instructions (08, R139 to R145). -/

namespace Sys2Proof.Machine

/-- The format of a floating-point type's elements. -/
def ltyFmt : LTy → FFmt
  | .f64 => .f64
  | .f16x2 => .f16
  | .bf16x2 => .bf16
  | .e4m3x4 => .e4m3'
  | .e5m2x4 => .e5m2
  | _ => .f32

/-- The flags NV OF UF NX. -/
def arithFlags : BitVec 5 := 0b11101

/-- Events of several elements of one lane. -/
def mergeEvents (l : List FpEv) : FpEv := l.foldl FpEv.merge {}

/-- An operation on rounded elements: A, B, C and the result with its events. -/
abbrev FltOp := FFmt → Rnd → FVal → FVal → FVal → FRes

/-- A lane's result and events: the operation on each element, `.sat` by R85, the listed flags. -/
def fltLane (w : Wave) (x : LArith) (p : Pops) (flags : BitVec 5) (f : FltOp) (i : Nat) : Nat × FpEv :=
  let fmt := ltyFmt x.ty
  let as := elemsA w x i
  let bs := elemsB w x p i
  let cs := elemsC w x p i
  let rs := (List.range x.ty.elems).map (fun k => f fmt x.m.rnd (fmt.dec (as.getD k 0)) (fmt.dec (bs.getD k 0)) (fmt.dec (cs.getD k 0)))
  (joinElems x.ty.width (rs.map (fun r => if x.m.sat then clamp01 fmt r.code else r.code)),
   (mergeEvents (rs.map (·.ev))).flagsOnly.maskFlags flags)

/-- The end of an instruction with values and events by lane. -/
def fltDone (s : State) (i : Instr) (x : LArith) (act : Word) (f : Nat → Nat × FpEv) : State :=
  let rs := perLane act f
  laneDone s i false
    (laneWrites x.ty.wide x.vd.toNat (rs.map (fun r => (r.1, r.2.1))) ++ statWrites (rs.map (fun r => r.2.2)))

/-- A floating-point instruction of an element operation (R139). -/
def laneFlt (s : State) (i : Instr) (x : LArith) (flags : BitVec 5) (f : FltOp) : State :=
  laneArith s i x (fun s act p => fltDone s i x act (fltLane s.w x p flags f))

/-- The value 1. -/
def one : FVal := .fin false 1 0

/-- VFADD (R139). -/
def execVfadd (x : LArith) (s : State) : Result := .next (laneFlt s (.vfadd x) x arithFlags (fun f r a b _ => fpAdd f r a b))
/-- VFSUB (R139). -/
def execVfsub (x : LArith) (s : State) : Result := .next (laneFlt s (.vfsub x) x arithFlags (fun f r a b _ => fpAdd f r a b.neg))
/-- VFMUL (R139). -/
def execVfmul (x : LArith) (s : State) : Result := .next (laneFlt s (.vfmul x) x arithFlags (fun f r a b _ => fpMul f r a b))
/-- VFMA: one rounding (R139). -/
def execVfma (x : LArith) (s : State) : Result := .next (laneFlt s (.vfma x) x arithFlags (fun f r a b c => fpDot f r [(a, b)] c))

/-- MinNum or MaxNum of two lanes' elements, on codes (R141). -/
def minMaxLane (w : Wave) (x : LArith) (p : Pops) (wantMax : Bool) (i : Nat) : Nat :=
  let as := elemsA w x i
  let bs := elemsB w x p i
  joinElems x.ty.width ((List.range x.ty.elems).map (fun k => fpMinMax (ltyFmt x.ty) wantMax (as.getD k 0) (bs.getD k 0)))

/-- VFMIN (R141). -/
def execVfmin (x : LArith) (s : State) : Result :=
  .next (laneArith s (.vfmin x) x (fun s act p => laneResult s (.vfmin x) x act (minMaxLane s.w x p false)))
/-- VFMAX (R141). -/
def execVfmax (x : LArith) (s : State) : Result :=
  .next (laneArith s (.vfmax x) x (fun s act p => laneResult s (.vfmax x) x act (minMaxLane s.w x p true)))

/-- The comparison codes of R142. -/
def fpCompare (cc : Nat) (a b : FVal) : Bool :=
  let un := a.isNan || b.isNan
  let c := a.cmp b
  match cc with
  | 0 => !un && decide (c = 0)
  | 1 => un || decide (c ≠ 0)
  | 2 => !un && decide (c < 0)
  | 3 => !un && decide (c ≤ 0)
  | 4 => !un && decide (0 < c)
  | 5 => !un && decide (0 ≤ c)
  | 6 => un
  | _ => !un

/-- VFCMP (R142). -/
def execVfcmp (x : LArith) (s : State) : Result :=
  .next (laneArith s (.vfcmp x) x (fun s act p =>
    lanePred s (.vfcmp x) x act (fun i =>
      fpCompare x.m.aux4.toNat ((ltyFmt x.ty).dec ((elemsA s.w x i).headD 0)) ((ltyFmt x.ty).dec ((elemsB s.w x p i).headD 0)))))

/-- VFDIV (R145). -/
def execVfdiv (x : LArith) (s : State) : Result := .next (laneFlt s (.vfdiv x) x 0b11111 (fun f r a b _ => fpDiv f r a b))
/-- VFSQRT (R145). -/
def execVfsqrt (x : LArith) (s : State) : Result := .next (laneFlt s (.vfsqrt x) x 0b10001 (fun f r a _ _ => fpSqrt f r a))
/-- VFRCP (R145). -/
def execVfrcp (x : LArith) (s : State) : Result := .next (laneFlt s (.vfrcp x) x 0b11110 (fun f r a _ _ => fpDiv f r one a))
/-- VFRSQ (R145). -/
def execVfrsq (x : LArith) (s : State) : Result := .next (laneFlt s (.vfrsq x) x 0b10011 (fun f r a _ _ => fpRsqrt f r a))
/-- VEXP2 (R145). -/
def execVexp2 (x : LArith) (s : State) : Result := .next (laneFlt s (.vexp2 x) x 0b11100 (fun f r a _ _ => fpExp2 f r a))
/-- VLOG2 (R145). -/
def execVlog2 (x : LArith) (s : State) : Result := .next (laneFlt s (.vlog2 x) x 0b10011 (fun f r a _ _ => fpLog2 f r a))
/-- VSINPI (R145). -/
def execVsinpi (x : LArith) (s : State) : Result := .next (laneFlt s (.vsinpi x) x 0b11001 (fun f r a _ _ => fpSinPi f r a))
/-- VCOSPI (R145). -/
def execVcospi (x : LArith) (s : State) : Result := .next (laneFlt s (.vcospi x) x 0b10001 (fun f r a _ _ => fpCosPi f r a))

/-- VFRND (R144). -/
def execVfrnd (x : LArith) (s : State) : Result :=
  .next (laneArith s (.vfrnd x) x (fun s act _ =>
    laneResult s (.vfrnd x) x act (fun i =>
      joinElems x.ty.width ((elemsA s.w x i).map (fpRound (ltyFmt x.ty) x.m.rnd)))))

/-- VFCLASS: one 32-bit register (R143). -/
def execVfclass (x : LArith) (s : State) : Result :=
  .next (laneArith s (.vfclass x) x (fun s act _ =>
    laneDone s (.vfclass x) false
      (laneWrites false x.vd.toNat (perLane act (fun i => fpClass (ltyFmt x.ty) ((elemsA s.w x i).headD 0))))))

/-- VFLDEXP (R144). -/
def execVfldexp (x : LArith) (s : State) : Result :=
  .next (laneArith s (.vfldexp x) x (fun s act p =>
    fltDone s (.vfldexp x) x act (fun i =>
      let r := fpLdexp (ltyFmt x.ty) x.m.rnd ((ltyFmt x.ty).dec ((elemsA s.w x i).headD 0)) (BitVec.ofNat 32 (wordB s.w x p i)).toInt
      (r.code, r.ev.flagsOnly.maskFlags 0b11100))))

/-- A dot product of the elements into FP32, rounded once (R144). -/
def dotLane (w : Wave) (x : LArith) (p : Pops) (i : Nat) : Nat × FpEv :=
  let f := ltyFmt x.ty
  let ab := (elemsA w x i).zip (elemsB w x p i)
  let c := signElem true 32 false x.m.negc (fetchC w x true p i)
  let r := fpDot .f32 x.m.rnd (ab.map (fun q => (f.dec q.1, f.dec q.2))) (FFmt.f32.dec c)
  (if x.m.sat then clamp01 .f32 r.code else r.code, r.ev.flagsOnly.maskFlags arithFlags)

/-- VFDOT2 (R144). -/
def execVfdot2 (x : LArith) (s : State) : Result :=
  .next (laneArith s (.vfdot2 x) x (fun s act p => fltDone s (.vfdot2 x) x act (dotLane s.w x p)))
/-- VFDOT4 (R144). -/
def execVfdot4 (x : LArith) (s : State) : Result :=
  .next (laneArith s (.vfdot4 x) x (fun s act p => fltDone s (.vfdot4 x) x act (dotLane s.w x p)))

end Sys2Proof.Machine
end

