-- ==== Sys2Proof/Machine/LaneCvt.lean ====
section
/-! DEFINITION. Conversions and FP4 blocks (08, R146 to R150). -/

namespace Sys2Proof.Machine

/-- A source element as a value. -/
def cvtVal (x : LArith) (v : Nat) : FVal :=
  if x.ty.isFloat then (ltyFmt x.ty).dec v
  else
    let n := elemVal x v
    .fin (decide (n < 0)) n.natAbs 0

/-- One element converted to an element of a type: its code and events; `draw` is its random
value when rounding is stochastic (R82 to R85, R147). -/
def cvtElem (x : LArith) (dst : LTy) (draw : Option Nat) (v : Nat) : Nat × FpEv :=
  let narrow := narrowing x.ty dst
  if dst.isFloat then
    let f := ltyFmt dst
    let r := match draw with
      | some c => cvtStoch f x.m.sat narrow c (cvtVal x v)
      | none => cvtFloat f x.m.rnd (x.m.sat && narrow) (narrow && x.ty.isFloat) (cvtVal x v)
    let inf := match cvtVal x v with | .inf _ => true | _ => false
    (if x.m.sat && !narrow then clamp01 f r.code else r.code, { r.ev with sat := r.ev.sat || (x.m.sat && inf) })
  else
    let r := cvtToInt dst.width dst.isSigned x.m.rnd draw (cvtVal x v)
    (r.1.toNat % 2 ^ dst.width, r.2)

/-- The draw of element k of n (R83). -/
def drawOf (c : Word) (n k : Nat) : Nat := (c.rotateLeft (32 * k / n)).toNat

/-- VCVT in a lane: the converted elements and the events. -/
def cvtLane (w : Wave) (x : LArith) (dst : LTy) (p : Pops) (i : Nat) : List Nat × FpEv :=
  let c := BitVec.ofNat 32 (fetchC w x true p i)
  let es := elemsA w x i
  let rs := (List.range es.length).map (fun k =>
    cvtElem x dst (if x.m.aux10 = 0 then none else some (drawOf c x.ty.elems k)) (es.getD k 0))
  (rs.map (·.1), mergeEvents (rs.map (·.2)))

/-- VCVT (R147). -/
def execVcvt (x : LArith) (s : State) : Result :=
  let dst := (LTy.ofCode x.m.aux4.toNat).getD .b32
  .next (laneArith s (.vcvt x) x (fun s act p =>
    let rs := perLane act (cvtLane s.w x dst p)
    let ws :=
      if x.ty.elems ≠ 1 && dst.elems = 1 then
        (List.range x.ty.elems).flatMap (fun k =>
          laneWrites false (x.vd.toNat + k) (rs.map (fun r => (r.1, r.2.1.getD k 0))))
      else laneWrites dst.wide x.vd.toNat (rs.map (fun r => (r.1, joinElems dst.width r.2.1)))
    laneDone s (.vcvt x) false (ws ++ statWrites (rs.map (fun r => r.2.2)))))

/-- VCVTPK in a lane (R148). -/
def cvtpkLane (w : Wave) (x : LArith) (dst : LTy) (p : Pops) (i : Nat) : Nat × FpEv :=
  let a := cvtElem x dst none ((elemsA w x i).headD 0)
  let b := cvtElem x dst none ((elemsB w x p i).headD 0)
  let upper := if dst.elems = 4 then splitElems 2 8 (fetchC w x true p i) else []
  (joinElems dst.width ([a.1, b.1] ++ upper), FpEv.merge a.2 b.2)

/-- VCVTPK (R148). -/
def execVcvtpk (x : LArith) (s : State) : Result :=
  let dst := (LTy.ofCode x.m.aux4.toNat).getD .f16x2
  .next (laneArith s (.vcvtpk x) x (fun s act p => fltDone s (.vcvtpk x) x act (cvtpkLane s.w x dst p)))

/-- The groups of eight lanes whose lowest lane is active. -/
def activeGroups (act : Word) : List Nat := (List.range 4).filter (fun j => act.getLsbD (8 * j))

/-- The eight values of group j (R149). -/
def groupVals (w : Wave) (x : LArith) (act : Word) (j : Nat) : List FVal :=
  (List.range 8).map (fun k =>
    if act.getLsbD (8 * j + k) then FFmt.f32.dec (regVal w x.ty x.va.toNat (8 * j + k)) else .fin false 0 0)

/-- The block of group j (R149). -/
def groupBlock (w : Wave) (x : LArith) (act : Word) (j : Nat) : List Nat × Nat × Nat × Nat × Nat :=
  quantBlock (groupVals w x act j)

/-- Twice the value of an E2M1 magnitude code (R80). -/
def e2m1Halves (c : Nat) : Nat := [0, 1, 2, 3, 4, 6, 8, 12].getD c 0

/-- The flags of a finite value rounded to E2M1 under a scale byte, by R82, R84 and Table 05-6: its quotient differs from
the element, is below 1 and so tiny, or would round above 6. -/
def quantFlags (sc : Nat) : FVal → FpEv
  | .fin _ m e =>
    let low := if e < -7 then e else -7
    let n := m * 2 ^ (e - low).toNat
    let d := scaleUnits sc * 2 ^ (-7 - low).toNat
    let nx := decide (2 * n ≠ e2m1Halves (e2m1Round n d) * d)
    if m = 0 then {} else { nx := nx, unf := nx && decide (n < d), ovf := decide (7 * d ≤ n) }
  | _ => {}

/-- The flags of a group: one with a NaN rounds nothing (R89; log 85). -/
def groupFlags (w : Wave) (x : LArith) (act : Word) (j : Nat) : BitVec 5 :=
  let vs := groupVals w x act j
  if vs.any (·.isNan) then 0 else (mergeEvents (vs.map (quantFlags (quantBlock vs).2.1))).flagBits

/-- VQBLK (R149). -/
def execVqblk (x : LArith) (s : State) : Result :=
  .next (laneArith s (.vqblk x) x (fun s act _ =>
    let rs := (activeGroups act).map (fun j => (j, groupBlock s.w x act j))
    let word (r : Nat × List Nat × Nat × Nat × Nat × Nat) : Nat := natOfBytes ((packBlock r.2.1 r.2.2.1).take 4)
    let sum (f : Nat × List Nat × Nat × Nat × Nat × Nat → Nat) : Nat := rs.foldl (fun n r => n + f r) 0
    let delta := fpstatWord (sum (fun r => r.2.2.2.1)) (sum (fun r => r.2.2.2.2.1)) (sum (fun r => r.2.2.2.2.2))
      (rs.foldl (fun b r => b ||| groupFlags s.w x act r.1) 0)
    laneDone s (.vqblk x) false
      ([(.v x.vd.toNat, rs.map (fun r => (8 * r.1, dw (word r)))),
        (.v (x.vd.toNat + 1), rs.map (fun r => (8 * r.1, dw r.2.2.1)))] ++
       (if delta = 0 then [] else [(.fpstat, [(0, delta)])]))))

/-- VDQBLK (R150). -/
def execVdqblk (x : LArith) (s : State) : Result :=
  .next (laneArith s (.vdqblk x) x (fun s act p =>
    laneResult s (.vdqblk x) x act (fun i =>
      let g := i / 8 * 8
      let bytes := bytesOf 4 (getV s.w x.va.toNat g).toNat
      let sc := match x.b with
        | .vec r => (getV s.w r.toNat g).toNat
        | _ => wordB s.w x p i
      (roundVal .f32 .rne (blockElem (bytes ++ [BitVec.ofNat 8 sc]) (i - g))).code)))

end Sys2Proof.Machine
end

