-- ==== Sys2Proof/Machine/LaneCross.lean ====
section
/-! DEFINITION. Cross-lane instructions (08, R151, R152). -/

namespace Sys2Proof.Machine

/-- VSHFL (Table 08-3). -/
def execVshfl (x : LArith) (s : State) : Result :=
  .next (laneArith s (.vshfl x) x (fun s act p =>
    laneResult s (.vshfl x) x act (fun i =>
      let j := wordB s.w x p i % 32
      if s.w.populated.getLsbD j then regVal s.w x.ty x.va.toNat j else 0)))

/-- The sum of two lanes' values: rounded in the mode, or wrapped (R152). -/
def crossAdd (x : LArith) (a b : Nat) : Nat × FpEv :=
  if x.ty.isFloat then
    let r := fpAdd (ltyFmt x.ty) x.m.rnd ((ltyFmt x.ty).dec a) ((ltyFmt x.ty).dec b)
    (r.code, r.ev.flagsOnly.maskFlags arithFlags)
  else ((a + b) % 2 ^ x.ty.width, FpEv.zero)

/-- Lane i's value with its sign modifiers. -/
def crossVal (w : Wave) (x : LArith) (i : Nat) : Nat := (elemsA w x i).headD 0

/-- The prefixes of a list of lane values from a running sum. -/
def scanFrom (x : LArith) : Nat → List (Nat × Nat) → List (Nat × Nat × FpEv)
  | _, [] => []
  | acc, (i, v) :: l =>
    let r := crossAdd x acc v
    (i, r.1, r.2) :: scanFrom x r.1 l

/-- VSCAN: the inclusive prefixes over the active lanes, ascending (R152). -/
def execVscan (x : LArith) (s : State) : Result :=
  .next (laneArith s (.vscan x) x (fun s act _ =>
    let vs := (lanesOf act).map (fun i => (i, crossVal s.w x i))
    let rs := match vs with
      | [] => []
      | (i, v) :: l => (i, v, FpEv.zero) :: scanFrom x v l
    laneDone s (.vscan x) false
      (laneWrites x.ty.wide x.vd.toNat (rs.map (fun r => (r.1, r.2.1))) ++ statWrites (rs.map (fun r => r.2.2)))))

/-- One level of the tree: neighbours added where both are present. -/
def treeLevel (x : LArith) : List (Option (Nat × FpEv)) → List (Option (Nat × FpEv))
  | a :: b :: l =>
    (match a, b with
     | some p, some q =>
       let r := crossAdd x p.1 q.1
       some (r.1, FpEv.merge r.2 (FpEv.merge p.2 q.2))
     | some p, none => some p
     | none, q => q) :: treeLevel x l
  | l => l

/-- VRADD: the fixed tree over lanes 0 to 31 (R152). -/
def execVradd (x : LArith) (s : State) : Result :=
  .next (laneArith s (.vradd x) x (fun s act _ =>
    let leaves := allLanes.map (fun i => if act.getLsbD i then some (crossVal s.w x i, ({} : FpEv)) else none)
    let root := (treeLevel x (treeLevel x (treeLevel x (treeLevel x (treeLevel x leaves))))).headD none
    match root with
    | none => laneDone s (.vradd x) false []
    | some (v, ev) =>
      laneDone s (.vradd x) false (laneWrites x.ty.wide x.vd.toNat (perLane act (fun _ => v)) ++ statWrites [ev])))

/-- The lesser or greater of two lane values by the type. -/
def crossPick (x : LArith) (wantMax : Bool) (a b : Nat) : Nat :=
  if x.ty.isFloat then fpMinMax (ltyFmt x.ty) wantMax a b
  else if decide (elemVal x a ≤ elemVal x b) then (if wantMax then b else a) else (if wantMax then a else b)

/-- The least or greatest active value; a lone NaN is canonical (Table 08-3). -/
def crossBest (w : Wave) (x : LArith) (act : Word) (wantMax : Bool) : Nat :=
  match (lanesOf act).map (crossVal w x) with
  | [] => 0
  | v :: l => l.foldl (crossPick x wantMax) (if x.ty.isFloat && ((ltyFmt x.ty).dec v).isNan then (ltyFmt x.ty).qnan else v)

/-- VRMIN (Table 08-3). -/
def execVrmin (x : LArith) (s : State) : Result :=
  .next (laneArith s (.vrmin x) x (fun s act _ =>
    laneResult s (.vrmin x) x act (fun _ => crossBest s.w x act false)))
/-- VRMAX (Table 08-3). -/
def execVrmax (x : LArith) (s : State) : Result :=
  .next (laneArith s (.vrmax x) x (fun s act _ =>
    laneResult s (.vrmax x) x act (fun _ => crossBest s.w x act true)))

/-- VCOMPACT (Table 08-3): the j-th active lane receives a of the j-th selected active lane. -/
def execVcompact (x : LArith) (s : State) : Result :=
  .next (laneArith s (.vcompact x) x (fun s act _ =>
    let from_ := (lanesOf act).filter (selC s.w x)
    laneResult s (.vcompact x) x act (fun i =>
      match from_[((lanesOf act).filter (fun j => decide (j < i))).length]? with
      | some j => regVal s.w x.ty x.va.toNat j
      | none => 0)))

/-- VMATCH (Table 08-3): one 32-bit register. -/
def execVmatch (x : LArith) (s : State) : Result :=
  .next (laneArith s (.vmatch x) x (fun s act _ =>
    laneDone s (.vmatch x) false
      (laneWrites false x.vd.toNat (perLane act (fun i =>
        (maskWhere (fun j => act.getLsbD j && regVal s.w x.ty x.va.toNat j == regVal s.w x.ty x.va.toNat i)).toNat)))))

/-- VPRANK (Table 08-3). -/
def execVprank (x : LArith) (s : State) : Result :=
  .next (laneArith s (.vprank x) x (fun s act _ =>
    laneResult s (.vprank x) x act (fun i => ((lanesOf act).filter (fun j => decide (j < i) && selC s.w x j)).length)))

end Sys2Proof.Machine
end

