-- ==== Sys2Proof/Machine/LaneMem.lean ====
section
/-! DEFINITION. Lane memory instructions (12, R218 to R232). -/

namespace Sys2Proof.Machine

/-- The number of a lane's element among the lanes active at first issue (R227). -/
def laneNumber (act : Word) (i : Nat) : Nat := ((lanesOf act).filter (fun j => decide (j < i))).length

/-- The address of lane i's access (R218, R227): consecutive elements when `packed`. -/
def laneAddress (w : Wave) (x : LMem) (packed : Bool) (act : Word) (i : Nat) : DWord :=
  let base := match x.base with
    | .vec r => dw ((getV w r.toNat i).toNat + 2 ^ 32 * (getV w (r.toNat + 1) i).toNat)
    | .scal r => getS w r.toNat
  base + x.off.signExtend 64 + (if packed then dw (laneNumber act i * x.size.bytes) else 0)

/-- The datum that lane i holds in the registers from r on. -/
def laneDatum (w : Wave) (size : MSize) (r i : Nat) : Nat :=
  (List.range size.regs).foldl (fun n k => n + 2 ^ (32 * k) * (getV w (r + k) i).toNat) 0

/-- A datum read, extended to whole registers (R225). -/
def extendDatum (size : MSize) (n : Nat) : Nat :=
  match size with
  | .i8 => ((BitVec.ofNat 8 n).signExtend 32).toNat
  | .i16 => ((BitVec.ofNat 16 n).signExtend 32).toNat
  | _ => n

/-- Data read, by lane, as writes of the registers from r on. -/
def datumWrites (size : MSize) (r : Nat) (vals : SMap (List Byte)) : List (Dest × SMap DWord) :=
  (List.range size.regs).map (fun k =>
    (.v (r + k), vals.map (fun iv => (iv.1, dw (extendDatum size (natOfBytes iv.2) / 2 ^ (32 * k) % 2 ^ 32)))))

/-- The results of the performed lanes of an instruction that goes on with others: in flight, while
the instruction stays the one in issue. -/
def lanePart (s : State) (load : Bool) (ws : List (Dest × SMap DWord)) : State :=
  let ws := ws.filter (fun d => !d.2.isEmpty)
  modLane s (fun l =>
    { l with inflight := l.inflight ++ ws.map (fun d =>
        { dest := d.1, data := d.2, fixed := false, load := load, due := 0, seq := l.seq }) })

/-- Aperture stores of a lane instruction in lane order: the lanes that no channel takes yet. -/
def storeApertures (s : State) : List (Nat × Nat × DWord) → State × List Nat
  | [] => (s, [])
  | (i, off, v) :: l =>
    if apRoom s s.w.part off then
      let e := s.w.lane.issue
      storeApertures (apStore s (apWave s true e.elpc e.tmplbase (e.fpmode.getLsbD 1)) off v) l
    else
      let (s, rest) := storeApertures s l
      (s, i :: rest)

/-- The accesses of a lane memory instruction checked and performed (R215, R222): a trap, a park, a
wait for channel entries, or completion with what its lanes read. What lanes read before an ECC of the same instruction is
not written (log 106). -/
def laneAccess (s : State) (i : Instr) (act : Word) (m : AccMode) (xs : List Acc)
    (ws : SMap (List Byte) → List (Dest × SMap DWord)) : State :=
  let e := s.w.lane.issue
  let r := makeAccesses s (s.w.agent (e.fpmode.getLsbD 1)) m s.w.epoch xs
  let access := match xs with | x :: _ => x.op.kind | [] => 0
  match r.trap with
  | some (c, f, g) => laneTrap (accGuard s r true e.elpc access) c f g access
  | none =>
    let s := accGuard s r true e.elpc access
    let (s, full) := storeApertures s r.ap
    let left := maskOf (r.page ++ r.ecc ++ full)
    if left = 0 then laneDone s i true (ws r.vals)
    else
      let e' : LEntry := { issuedPart s.w e (some left) with act := some (e.act.getD act) }
      let s := lanePart s true (ws r.vals)
      match xs.find? (fun x => r.page.contains x.lane) with
      | some x => parkWave s access x.va (some e')
      | none => unissue (modLane s (fun l => { l with issue := e' }))

/-- A lane memory instruction: it issues, has its turn when it is an SC operation whose lanes are aligned (R219, R240), and
makes one access per active lane; with no active lane it does nothing (R158). One that waits or replays reads its base and
data registers as they stood when it issued (R71); an SC one that has parked takes another ticket when it replays (log 107). -/
def laneMem (s : State) (i : Instr) (x : LMem) (packed ro kick : Bool) (op : Wave → Nat → AccOp)
    (ws : SMap (List Byte) → List (Dest × SMap DWord)) : State :=
  laneStart s i (fun s =>
    let act := active s.w i
    if act = 0 then laneDone s i true []
    else
      let scope := x.scope.code.toNat
      let first := s.w.lane.issue.act.getD act
      let w := s.w.reading
      let xs := (lanesOf act).map (fun k =>
        { lane := k, va := laneAddress w x packed first k, size := x.size.bytes, op := op w k : Acc })
      let aligned := xs.all (fun a => a.va.toNat % a.size == 0)
      let (s, turn) := if x.order = .sc && aligned then scAsk s true scope else (s, true)
      if !turn then stayIssued s none
      else laneAccess s i act { order := x.order, scope := scope, ro := ro, quiet := false, kick := kick } xs ws)

/-- A lane load into vd. -/
def laneLoad (s : State) (i : Instr) (x : LMem) (packed ro : Bool) : State :=
  laneMem s i x packed ro false (fun _ _ => .load) (datumWrites x.size x.vd.toNat)

/-- A lane store of va. -/
def laneStore (s : State) (i : Instr) (x : LMem) (packed : Bool) : State :=
  laneMem s i x packed false (!packed)
    (fun w k => .store (bytesOf x.size.bytes (laneDatum w x.size x.va.toNat k))) (fun _ => [])

/-- VLD (R226). -/
def execVld (x : LMem) (s : State) : Result := .next (laneLoad s (.vld x) x false false)
/-- VST (R226). -/
def execVst (x : LMem) (s : State) : Result := .next (laneStore s (.vst x) x false)
/-- VLDC (R227). -/
def execVldc (x : LMem) (s : State) : Result := .next (laneLoad s (.vldc x) x true false)
/-- VSTC (R227). -/
def execVstc (x : LMem) (s : State) : Result := .next (laneStore s (.vstc x) x true)
/-- VLDRO (R228). -/
def execVldro (x : LMem) (s : State) : Result := .next (laneLoad s (.vldro x) x false true)

/-- VATOM (R229). -/
def execVatom (x : LMem) (s : State) : Result :=
  .next (laneMem s (.vatom x) x false false false
    (fun w k => .atom x.aop.toNat (laneDatum w x.size x.va.toNat k) 0) (datumWrites x.size x.vd.toNat))

/-- VCAS (R230). -/
def execVcas (x : LMem) (s : State) : Result :=
  .next (laneMem s (.vcas x) x false false false
    (fun w k => .atom 13 (laneDatum w x.size x.va.toNat k) (laneDatum w x.size x.vc.toNat k))
    (datumWrites x.size x.vd.toNat))

/-- The line of an address brought into the focus wave's core, where nothing would fault (R231); another die's are held
there too (R208). -/
def prefetchLine (s : State) (va : DWord) : State :=
  match locate s s.w.ctx s.w.part false false va with
  | .ok (.mem k) =>
    if homeEcc s (.mem (k / 64 * 64)) 64 then s else (l1Load s (s.w.agent false) va (.mem k) 1).1
  | .ok (.codec leaf base budget off) =>
    if homeEcc s (.codec leaf base budget off) 1 then s
    else (l1Load s (s.w.agent false) va (.codec leaf base budget off) 1).1
  | .ok (.remote ua) =>
    if homeEcc s (.remote ua) 1 then s
    else
      let s := (l1Load s (s.w.agent false) va (.remote ua) 1).1
      { s with free := s.free + 1 }
  | _ => s

/-- VPREF (R231). -/
def execVpref (x : LMem) (s : State) : Result :=
  .next (laneStart s (.vpref x) (fun s =>
    let act := active s.w (.vpref x)
    let s := (lanesOf act).foldl (fun s k => prefetchLine s (laneAddress s.w x false act k)) s
    laneDone s (.vpref x) false []))

end Sys2Proof.Machine
end

