-- ==== Sys2Proof/Machine/LaneQueue.lean ====
section
/-! DEFINITION. Lane queue instructions and WEMIT (15, R275, R280). -/

namespace Sys2Proof.Machine

/-- The bytes of `n` registers of a lane from r on. -/
def laneWordBytes (w : Wave) (r n i : Nat) : List Byte :=
  (List.range n).flatMap (fun k => bytesOf 4 (getV w (r + k) i).toNat)

/-- The lanes of an instruction that takes remote-push entries: those that get one now, and the rest (R270). -/
def entryLanes (s : State) (act : Word) : List Nat × List Nat :=
  let n := entriesFree s s.w.sys.core.toNat
  ((lanesOf act).take n, (lanesOf act).drop n)

/-- The end of a lane instruction some of whose lanes have taken entries: it issues again for the rest, or is
done. -/
def entriesTaken (s : State) (i : Instr) (rest : List Nat) : State :=
  if rest.isEmpty then laneDone s i false []
  else stayIssued s (some (maskOf rest))

/-- VQPUSH (R275). -/
def execVqpush (x : LArith) (s : State) : Result :=
  .next (laneStart s (.vqpush x) (fun s =>
    let i : Instr := .vqpush x
    let act := active s.w i
    if act = 0 then laneDone s i false []
    else
      match handleOf s.w (x.vd.toNat % 32) with
      | none => laneTrap s 0x07 0 0
      | some h =>
        let el (k : Nat) : List Byte := padTo (elemBytes h.esize) (laneWordBytes s.w.reading x.va.toNat (countOf i) k)
        let elpc := s.w.lane.issue.elpc
        if h.near s s.w.sys.core.toNat then
          if pushReady s h (popcount act) then
            match pushNear s h true elpc ((lanesOf act).map el) with
            | .ok t => laneDone t i false []
            | .error (code, va) => laneTrap s code va (unitAgent s.w code) 1
          else unissue s
        else
          let (now, rest) := entryLanes s act
          if now.isEmpty then unissue s
          else entriesTaken (pushFar s h true elpc (now.map el)) i rest))

/-- VQPOP (R275). -/
def execVqpop (x : LArith) (s : State) : Result :=
  .next (laneStart s (.vqpop x) (fun s =>
    let i : Instr := .vqpop x
    let act := active s.w i
    let q := match x.b with | .queue q => q.toNat | _ => 0
    if act = 0 then laneDone s i false []
    else
      match popHandle s.w q with
      | none => laneTrap s 0x07 0 0
      | some h =>
        match popMany s h true s.w.lane.issue.elpc (lanesOf act) with
        | none => unissue s
        | some (.error (code, va)) => laneTrap s code va (unitAgent s.w code)
        | some (.ok (s, els, n)) =>
          laneDone (acquireW s 3 n) i false ((List.range (countOf i)).map (fun j =>
            (.v (x.vd.toNat + j),
             els.map (fun ie => (ie.1, dw (natOfBytes ((ie.2.drop (4 * j)).take 4))))))))) 

/-- The work-graph nodes of the focus wave's launch. -/
def waveNodes (s : State) : List Node :=
  match SMap.get? s.launches s.w.launch with | some l => l.nodes | none => []

/-- The record of a lane as a remote push to its node's queue (R280). -/
def emitPush (s : State) (nd : Node) (bs : List Byte) : RPush :=
  let c := qcwOf s s.w.ctx s.w.part nd.qcw
  { qcw := nd.qcw, owner := s.w.ctx, ctx := s.w.ctx, part := s.w.part, gen := c.gen, data := padTo nd.rsize bs,
    wave := s.w.id, lane := true, elpc := s.w.lane.issue.elpc, covers := openGrans s s.w.id, home := c.home }

/-- WEMIT (R280): one entry of the core's buffer per active lane (R270), each a release when it is placed (R273). -/
def execWemit (x : LArith) (s : State) : Result :=
  .next (laneStart s (.wemit x) (fun s =>
    let i : Instr := .wemit x
    let act := active s.w i
    let nodes := waveNodes s
    let w := s.w.reading
    let node (k : Nat) : Option Node := nodes[wordB w x Pops.none k]?
    if act = 0 then laneDone s i false []
    else if (lanesOf act).any (fun k => (node k).isNone) then laneTrap s 0x07 0 0
    else
      let (now, rest) := entryLanes s act
      if now.isEmpty then unissue s
      else
        let ps := now.filterMap (fun k =>
          (node k).map (fun nd => (nd, laneWordBytes w x.va.toNat (countOf i) k)))
        let core := s.w.sys.core.toNat
        entriesTaken (ps.foldl (fun s p => takeEntry s core (emitPush s p.1 p.2)) (writeThrough s core)) i rest))

end Sys2Proof.Machine
end

