-- ==== Sys2Proof/Machine/Rays.lean ====
section
/-! DEFINITION. The ray instructions (18, R331 to R335). -/

namespace Sys2Proof.Machine

/-- The record in a lane's registers from r on (R322). -/
def rayOf (w : Wave) (r i pub : Nat) : Ray :=
  { words := (List.range 32).foldl (fun m k => SMap.write 0 m k (getV w (r + k) i)) [],
    loc := .held, since := 0, seq := 0, pub := pub, ctx := w.ctx }

/-- A new ray put into a slot: its frame's RAYS grows, and it enters traversal (R332). -/
def spawnRay (s : State) (slot fr : Nat) (r : Ray) : State :=
  enterTraversal (modFrame s s.w.part fr (fun f => { f with rays := f.rays + 1 })) s.w.part slot r

/-- A frame's DROP grows by 1 (R333). -/
def dropRay (s : State) (part fr : Nat) : State :=
  modFrame s part fr (fun f => { f with drop := satAdd f.drop 1 0xFFFFFFFF })

/-- A waiting lane's place given up. -/
def endWait (s : State) (i : Nat) : State :=
  modPart s s.w.part (fun p => { p with spawns := p.spawns.filter (fun x => !(x.wave = s.w.id && x.lane = i)) })

/-- One lane of RSPAWN (R332, R333): the state and the lane's status, or none while it waits. -/
def spawnLane (s : State) (x : LArith) (pub i : Nat) : State × Option Nat :=
  let w := s.w
  let p := partOf s w.part
  let e := SMap.get? w.ep i
  let wait := p.spawns.find? (fun y => y.wave = w.id && y.lane = i)
  let n := match wait with | some y => y.pub | none => pub
  let r := rayOf w.reading x.va.toNat i n
  let fr := match e with | some e => e.frame.toNat | none => r.frame
  let dp := match e with | some e => e.depth + 1 | none => r.depth
  let r := r.fresh fr dp
  if e.any (fun e => e.depth = 255) then
    (modFrame s w.part fr (fun f => { f with dcap := satAdd f.dcap 1 0xFFFFFFFF }), some 0)
  else if p.p = 0 then (dropRay s w.part fr, some 0)
  else
    match e.bind (·.reserved) with
    | some slot =>
      (spawnRay (modW s (fun w => { w with ep := SMap.adjust w.ep i (fun e => { e with reserved := none }) })) slot fr r,
       some 1)
    | none =>
      match wait with
      | some y =>
        if y.discarded then (endWait s i, some 0)
        else
          match y.granted with
          | some slot => (spawnRay (endWait s i) slot fr r, some 1)
          | none => (s, none)
      | none =>
        match takeSlot p w.engine with
        | some slot => (spawnRay s slot fr r, some 1)
        | none =>
          let y : SpawnWait :=
            { wave := w.id, lane := i, frame := fr, ext := e.isNone, pub := pub, since := s.clock, granted := none,
              discarded := false }
          (modPart s w.part (fun p => { p with spawns := p.spawns ++ [y] }), none)

/-- The lanes of RSPAWN in ascending order: each one's status, and the lanes that wait. -/
def spawnLanes (s : State) (x : LArith) (pub : Nat) : List Nat → State × SMap Nat × List Nat
  | [] => (s, [], [])
  | i :: l =>
    let (s, st) := spawnLane s x pub i
    let (s, done, wait) := spawnLanes s x pub l
    match st with
    | some v => (s, (i, v) :: done, wait)
    | none => (s, done, i :: wait)

/-- Whether the accesses that a ray instruction's release covers are performed (R332). -/
def rayFence (s : State) : Bool := !pushesOut s s.w.id

/-- RSPAWN (R332). Its release and its checks are made when it first issues; a lane that must wait
keeps the instruction waiting. -/
def execRspawn (x : LArith) (s : State) : Result :=
  .next (laneStart s (.rspawn x) (fun s =>
    let i : Instr := .rspawn x
    let act := active s.w i
    let e := s.w.lane.issue
    let closed (k : Nat) : Bool := frameCount s s.w.part (rayOf s.w x.va.toNat k 0).frame == 0
    if act = 0 then laneDone s i false []
    else if e.act.isNone && !rayFence s then unissue s
    else if e.act.isNone && s.w.kind != .episode && (lanesOf act).any closed then laneTrap s 0x07 0 0
    else
      let (s, n) := if e.act.isNone then releaseW s 3 else (s, 0)
      let (s, done, wait) := spawnLanes s x n (lanesOf act)
      let ws := laneWrites false x.vd.toNat done
      if wait.isEmpty then laneDone s i false ws
      else
        let e' : LEntry := { issuedPart s.w e (some (maskOf wait)) with act := some (e.act.getD act) }
        unissue (modLane (lanePart s false ws) (fun l => { l with issue := e' }))))

/-- A record written over a ray's slot by RCONT: all but FRAME, DEPTH and the RO fields (R334). -/
def Ray.cont (old new : Ray) : Ray :=
  let keep : List Nat := [9, 11, 12, 13, 14, 15]
  let r := (List.range 32).foldl (fun r k => if keep.contains k then r else r.put k (new.word k)) old
  let w9 : Word := (new.word 9).extractLsb' 25 7 ++ (old.word 9).extractLsb' 16 9 ++ (new.word 9).extractLsb' 0 16
  { r.put 9 w9 with pub := new.pub }

/-- One lane of RCONT. -/
def contLane (s : State) (x : LArith) (pub i : Nat) : State :=
  match SMap.get? s.w.ep i with
  | none => s
  | some e =>
    let new := rayOf s.w x.va.toNat i pub
    let s := modPart s s.w.part (fun p => { p with rays := SMap.adjust p.rays e.slot (fun old => old.cont new) })
    modW s (fun w => { w with ep := SMap.adjust w.ep i (fun e => { e with cont := true }) })

/-- RCONT (R334). -/
def execRcont (x : LArith) (s : State) : Result :=
  .next (laneStart s (.rcont x) (fun s =>
    let i : Instr := .rcont x
    let act := active s.w i
    if act = 0 then laneDone s i false []
    else if !rayFence s then unissue s
    else
      let (s, n) := releaseW s 3
      laneDone ((lanesOf act).foldl (fun s k => contLane s x n k) s) i false []))

/-- The frame of an episode's lane, if it is open. -/
def laneFrame (s : State) (i : Nat) : Option FrameEnt :=
  (SMap.get? s.w.ep i).bind (fun e => SMap.get? (partOf s s.w.part).frames e.frame.toNat)

/-- The entry of the accumulation buffer that a lane names (R335). -/
def accEntry (s : State) (x : LArith) (i : Nat) : DWord :=
  let p := wordVal x.c
  ((laneFrame s i).map (·.accBase)).getD 0 + dw (16 * p)
where
  /-- The pixel index. -/
  wordVal (c : CSrc) : Nat := match c with | .vec r => (getV s.w.reading r.toNat i).toNat | _ => 0

/-- Whether a lane's pixel lies in its frame. -/
def pixelOk (s : State) (x : LArith) (i : Nat) : Bool :=
  match laneFrame s i, x.c with
  | some f, .vec r => decide ((getV s.w.reading r.toNat i).toNat < f.pixels)
  | _, _ => false

/-- The four adds of a lane (R335). -/
def accAdds (s : State) (x : LArith) (i : Nat) : List Acc :=
  let a := accEntry s x i
  (List.range 4).map (fun k =>
    { lane := 4 * i + k, va := a + dw (4 * k), size := 4,
      op := if k < 3 then .atom 1 (getV s.w.reading (x.va.toNat + k) i).toNat 0 else .atom 0 (wordB s.w.reading x Pops.none i) 0 })

/-- RACC (R335). -/
def execRacc (x : LArith) (s : State) : Result :=
  .next (laneStart s (.racc x) (fun s =>
    let i : Instr := .racc x
    let act := active s.w i
    let e := s.w.lane.issue
    if act = 0 then laneDone s i false []
    else
      match (lanesOf act).find? (fun k => !pixelOk s x k) with
      | some k => laneTrap s 0x07 (accEntry s x k) 0 2
      | none =>
        let xs := (lanesOf act).flatMap (accAdds s x)
        let r := makeAccesses s (s.w.agent (e.fpmode.getLsbD 1)) { AccMode.plain with scope := 3 } s.w.epoch xs
        match r.trap with
        | some (c, f, g) => laneTrap (accGuard s r true e.elpc 2) c f g 2
        | none =>
          let s := accGuard s r true e.elpc 2
          match xs.find? (fun a => r.page.contains a.lane) with
          | some a =>
            parkWave s 2 a.va (some { issuedPart s.w e (some (maskOf ((r.page ++ r.ecc).map (· / 4)))) with act := some (e.act.getD act) })
          | none => laneDone s i false []))

end Sys2Proof.Machine
end

