-- ==== Sys2Proof/Machine/Matrix.lean ====
section
/-! DEFINITION. Matrix instructions as they issue (10, R185 to R198): checks, acceptance, MRD and MWAIT. -/

namespace Sys2Proof.Machine

/-! ### Formats and elements (R78 to R81, R87, R180) -/

/-- K-elements of a step (R87). -/
def mfStep : MFmt → Nat
  | .fp4 => 8 | .e4m3 => 4 | .e5m2 => 4 | .f16 => 2 | .bf16 => 2 | .f64 => 1

/-- Bytes(F, K) (R180). -/
def mfBytes (f : MFmt) (k : Nat) : Nat :=
  match f with
  | .fp4 => 5 * k / 8 | .e4m3 => k | .e5m2 => k | .f16 => 2 * k | .bf16 => 2 * k | .f64 => 8 * k

/-- The number format of an element that is no FP4 block. -/
def mfFmt : MFmt → FFmt
  | .fp4 => .f32 | .e4m3 => .e4m3' | .e5m2 => .e5m2 | .f16 => .f16 | .bf16 => .bf16 | .f64 => .f64

/-- M of a shape word (Table 10-8). -/
def shapeM (x : DWord) : Nat := bits x 7 0
/-- N of a shape word. -/
def shapeN (x : DWord) : Nat := bits x 15 8
/-- K of a shape word. -/
def shapeK (x : DWord) : Nat := bits x 39 16

/-- The physical tiles of a wave's accumulator m (R178). -/
def accTiles (w : Wave) (m : Nat) : List Nat :=
  if w.accF64 then [w.tiles.getD (2 * m) 0, w.tiles.getD (2 * m + 1) 0] else [w.tiles.getD m 0]

/-- The key of an element in a tile. -/
def accKey (tile i j : Nat) : Nat := tile * 16384 + i * 128 + j

/-- An accumulator element: a word of a tile, or a word of each of a pair, the low one first. -/
def accGet (e : Engine) (tiles : List Nat) (i j : Nat) : Nat :=
  tiles.foldr (fun t n => (SMap.getD e.acc (accKey t i j) 0).toNat + 2 ^ 32 * n) 0

/-- The tile words with an element written. -/
def accPut (tiles : List Nat) (acc : SMap Word) (i j x : Nat) : SMap Word :=
  ((List.range tiles.length).zip tiles).foldl (fun a kt =>
    SMap.write 0 a (accKey kt.2 i j) (BitVec.ofNat 32 (x / 2 ^ (32 * kt.1)))) acc

/-- Bytes of a record; one not written since its reservation reads 0 (Table 10-1). -/
def recBytes (r : Rec) (off n : Nat) : List Byte := (List.range n).map (fun i => SMap.getD r.bytes (off + i) 0)

/-- A record's size (R180). -/
def Rec.size (r : Rec) : Nat := 4096 * r.gran

/-! ### Checks at issue (R185, R192, R193) -/

/-- Whether the focus wave holds record n, in a role when one is asked for. -/
def heldIn (s : State) (n : Nat) (role : Option Bool) : Option Rec :=
  match recordOf s n with
  | some r => if r.heldBy s s.w && (match role with | some b => r.roleB == b | none => true) then some r else none
  | none => none

/-- Whether the band scales that M rows and N columns use are finite (R81). -/
def bandsOk (bands : DWord) (m n : Nat) : Bool :=
  let fin (k : Nat) : Bool := bits bands (16 * k + 14) (16 * k + 7) != 255
  (m = 0 || fin 0) && (m ≤ 64 || fin 1) && (n = 0 || fin 2) && (n ≤ 64 || fin 3)

/-- An operation accepted into the engine's queue, or a wait while the queue is full (R185). -/
def acceptOp (s : State) (i : Instr) (m : Nat) (tiles : List Nat) (k : MKind) : State :=
  let w := s.w
  if Config.acceptDepth ≤ (engineOf s w.engine).queue.length then unissue s
  else
    let (s, uid) := freshId s
    let o : MOp :=
      { uid := uid, num := w.lane.issue.num, wave := w.id, ctx := w.ctx, part := w.part, m := m, tiles := tiles, f64 := w.accF64,
        elpc := w.lane.issue.elpc, acq := w.startAcq, race := w.lane.issue.fpmode.getLsbD 1, kind := k }
    laneDone (modEngine s w.engine (fun e => { e with queue := e.queue ++ [o] })) i false []

/-- The record operand B names, if any. -/
def srcRecord : MSrc → Option Nat
  | .record o => some o.toNat
  | .slice _ => none

/-- The B-slice base an instruction reads at issue. -/
def sliceBase (w : Wave) : MSrc → Nat
  | .record _ => 0
  | .slice r => (getS w r.toNat).toNat

/-- MMA and MMAS at issue (R192, R193): the checks in their order, then acceptance. -/
def issueMul (s : State) (i : Instr) (x : LMma) (bm : Option Nat) : State :=
  let s := settleRecords s s.w.engine
  let w := s.w
  let shape := getS w x.shape.toNat
  let m := shapeM shape
  let n := shapeN shape
  let k := shapeK shape
  let a := heldIn s x.ra.toNat (some false)
  let b := (srcRecord x.b).map (fun o => heldIn s o (some true))
  let base := sliceBase w x.b
  let bands := if x.fmtA = .fp4 then getS w x.sbs.toNat else 0
  let mftz := w.lane.issue.fpmode.getLsbD 0
  let kind : MKind := match bm with
    | none => .mma x.ra.toNat (srcRecord x.b) base shape bands x.fmtA x.fmtB mftz
    | some o => .mmas x.ra.toNat (srcRecord x.b) base shape bands x.fmtA x.fmtB mftz o
  if 128 < m || 128 < n || k % mfStep x.fmtA ≠ 0 then laneTrap s 0x11 0 0
  else if a.isNone || b = some none || (bm.any (fun o => (heldIn s o none).isNone)) then laneTrap s 0x10 0 0
  else if m = 0 || n = 0 || k = 0 then acceptOp s i x.m.toNat (accTiles w x.m.toNat) kind
  else if (bm.isNone && decide ((a.map Rec.size).getD 0 < m * mfBytes x.fmtA k)) ||
      (match b with
       | some r => decide ((r.map Rec.size).getD 0 < n * mfBytes x.fmtB k)
       | none => decide (0x10000 < base + mfBytes x.fmtB k)) then laneTrap s 0x10 0 0
  else if x.fmtA = .fp4 && !bandsOk bands m n then laneTrap s 0x11 0 0
  else acceptOp s i x.m.toNat (accTiles w x.m.toNat) kind

/-- MMA (R192). -/
def execMma (x : LMma) (s : State) : Result :=
  .next (laneStart s (.mma x) (fun s => issueMul s (.mma x) x none))

/-- MMAS (R193). -/
def execMmas (x : LMma) (orm : BitVec 4) (s : State) : Result :=
  .next (laneStart s (.mmas x orm) (fun s => issueMul s (.mmas x orm) x (some orm.toNat)))

/-! ### MRD, MWR, MZERO, MWAIT (R194 to R196) -/

/-- Steps and Pend as MRD reads them for accumulator m (R194). -/
def mrdStatus (s : State) (m : Nat) : DWord :=
  let e := engineOf s s.w.engine
  let mine (o : MOp) : Bool := o.wave = s.w.id && o.m = m
  let isMul (o : MOp) : Bool := match o.kind with | .mma .. => true | .mmas .. => true | _ => false
  let steps := match (e.run.toList ++ e.susp).find? (fun r => mine r.op && isMul r.op) with
    | some r => r.done
    | none => last e
  dw (steps % 2 ^ 32 + Nat.min (e.ops.filter mine).length 255 * 2 ^ 32)
where
  /-- The S of the newest finished operation. -/
  last (e : Engine) : Nat :=
    match e.last.find? (fun l => l.wave = s.w.id && l.m = m) with | some l => l.steps | none => 0

/-- MRD: a snapshot at a step boundary, never inside an assist (R194). -/
def execMrd (x : LMrw) (s : State) : Result :=
  .next (laneStart s (.mrd x) (fun s =>
    let i : Instr := .mrd x
    let act := active s.w i
    let e := engineOf s s.w.engine
    if act = 0 then laneDone s i false []
    else if (match e.run with | some r => !r.assist.isEmpty | none => false) then unissue s
    else
      let tiles := accTiles s.w x.m.toNat
      let n := x.cnt.toNat + 1
      let regs := if s.w.accF64 then 2 else 1
      let col (t k : Nat) : SMap DWord :=
        perLane act (fun l => dw (accGet e tiles (32 * x.rblk.toNat + l) (x.col.toNat + t) / 2 ^ (32 * k) % 2 ^ 32))
      laneDone s i false
        ((List.range n).flatMap (fun t => (List.range regs).map (fun k => (.v (x.v.toNat + regs * t + k), col t k))) ++
         [(.s x.sd.toNat, [(0, mrdStatus s x.m.toNat)])])))

/-- MWR (R195). -/
def execMwr (x : LMrw) (s : State) : Result :=
  .next (laneStart s (.mwr x) (fun s =>
    let i : Instr := .mwr x
    let act := active s.w i
    if act = 0 then laneDone s i false []
    else
      let n := x.cnt.toNat + 1
      let val (l t : Nat) : DWord :=
        if s.w.accF64 then
          dw ((getV s.w (x.v.toNat + 2 * t) l).toNat + 2 ^ 32 * (getV s.w (x.v.toNat + 2 * t + 1) l).toNat)
        else (getV s.w (x.v.toNat + t) l).setWidth 64
      let vals := (lanesOf act).flatMap (fun l => (List.range n).map (fun t => (8 * l + t, val l t)))
      acceptOp s i x.m.toNat (accTiles s.w x.m.toNat) (.mwr x.rblk.toNat x.col.toNat vals)))

/-- MZERO (R196). -/
def execMzero (stall : BitVec 4) (m : BitVec 2) (s : State) : Result :=
  .next (laneStart s (.mzero stall m) (fun s =>
    acceptOp s (.mzero stall m) m.toNat (accTiles s.w m.toNat) .mzero))

/-- The lowest pending cause of the wave's matrix operations that it may report (R196). -/
def matrixPend (w : Wave) : Option (Nat × Pend) := if w.sys.handler then none else w.pend.find? (fun cp => cp.2.mx)

/-- MWAIT: it waits for the wave's operations and then reports one cause of theirs, and executes again on
return (R196, R352; log 86). -/
def execMwait (stall : BitVec 4) (s : State) : Result :=
  .next (laneStart s (.mwait stall) (fun s =>
    if !(matrixOps s s.w.id).isEmpty then unissue s
    else
      match matrixPend s.w with
      | none => laneDone s (.mwait stall) false []
      | some (c, p) =>
        let s := modLane (landAll (modW s (fun w => { w with pend := SMap.del w.pend c }))) (fun l => { l with seq := l.seq + 1 })
        enterLane s
          { code := c, imp := true, lane := p.lane, timm := 0, epc := s.w.lane.issue.epc, elpc := p.elpc,
            faddr := p.faddr, fagent := p.fagent, resume := s.w.regs.spc, again := some s.w.lane.issue }))

/-! ### OSTO, OLOD, MEPI (R197, R198) -/

/-- The accumulator number of an operation that has none. -/
def noAcc : Nat := 4

/-- OSTO and OLOD: the record and bounds checks, then acceptance (R197). -/
def issueRec (s : State) (i : Instr) (x : LRec) (k : Nat → Word → MKind) : State :=
  let s := settleRecords s s.w.engine
  let act := active s.w i
  let base := (getS s.w x.off.toNat).toNat
  if act = 0 then laneDone s i false []
  else
    match heldIn s x.o.toNat none with
    | none => laneTrap s 0x10 0 0
    | some r =>
      if base % 4 ≠ 0 ||
          (lanesOf act).any (fun l => decide (r.size < base + l * x.stride.toNat + 4 * (x.cnt.toNat + 1))) then
        laneTrap s 0x10 0 0
      else acceptOp s i noAcc [] (k base act)

/-- OSTO (R197): the bytes read at issue, later lanes over earlier ones. -/
def execOsto (x : LRec) (s : State) : Result :=
  .next (laneStart s (.osto x) (fun s =>
    issueRec s (.osto x) x (fun base act =>
      let lane (m : SMap Byte) (l : Nat) : SMap Byte :=
        let bs := laneWordBytes s.w x.v.toNat (x.cnt.toNat + 1) l
        ((List.range bs.length).zip bs).foldl (fun m kb => SMap.put m (base + l * x.stride.toNat + kb.1) kb.2) m
      .osto x.o.toNat ((lanesOf act).foldl lane []))))

/-- OLOD (R197). -/
def execOlod (x : LRec) (s : State) : Result :=
  .next (laneStart s (.olod x) (fun s =>
    issueRec s (.olod x) x (fun base act =>
      .olod x.o.toNat (x.cnt.toNat + 1)
        (perLane act (fun l => dw ((getV s.w x.v.toNat l).toNat + 2 ^ 32 * (getV s.w (x.v.toNat + 1) l).toNat)))
        (perLane act (fun l => base + l * x.stride.toNat)))))

/-- MEPI (R198); with no active lane it raises nothing, and its clearing stands (R187). -/
def execMepi (x : LEpi) (s : State) : Result :=
  .next (laneStart s (.mepi x) (fun s =>
    let i : Instr := .mepi x
    let act := active s.w i
    let shape := getS s.w x.shape.toNat
    let bad := decide (128 < shapeM shape) || decide (128 < shapeN shape)
    if act = 0 && (bad || !x.clr) then laneDone s i false []
    else if bad then laneTrap s 0x11 0 0
    else
      acceptOp s i x.m.toNat (accTiles s.w x.m.toNat)
        (.mepi shape ((getS s.w x.scale.toNat).setWidth 32) x.rblk.toNat
          (perLane act (fun l => dw ((getV s.w x.va.toNat l).toNat + 2 ^ 32 * (getV s.w (x.va.toNat + 1) l).toNat)))
          x.ofmt x.sat x.relu x.clr (if x.fold then some (getS s.w x.sfold.toNat) else none))))

end Sys2Proof.Machine
end

