-- ==== Sys2Proof/Machine/Engines.lean ====
section
/-! DEFINITION. The matrix engines' own steps (10, R186 to R198; 05, R87, R88). -/

namespace Sys2Proof.Machine

/-! ### What an operation is -/

/-- The fields of an MMA or MMAS. -/
structure MulOp where
  a : Nat
  b : Option Nat
  base : Nat
  shape : DWord
  bands : DWord
  fA : MFmt
  fB : MFmt
  mftz : Bool
  bitmap : Option Nat
  deriving DecidableEq, Repr

/-- The multiplication an operation is, if it is one. -/
def MKind.mul? : MKind → Option MulOp
  | .mma a b base shape bands fA fB mftz =>
    some { a := a, b := b, base := base, shape := shape, bands := bands, fA := fA, fB := fB, mftz := mftz, bitmap := none }
  | .mmas a b base shape bands fA fB mftz bm =>
    some { a := a, b := b, base := base, shape := shape, bands := bands, fA := fA, fB := fB, mftz := mftz, bitmap := some bm }
  | _ => none

namespace MulOp
/-- Rows. -/
def m (x : MulOp) : Nat := shapeM x.shape
/-- Columns. -/
def n (x : MulOp) : Nat := shapeN x.shape
/-- Steps of the whole K extent. -/
def allSteps (x : MulOp) : Nat := shapeK x.shape / mfStep x.fA
/-- Whether it computes nothing. -/
def trivial (x : MulOp) : Bool := x.m = 0 || x.n = 0 || shapeK x.shape = 0
end MulOp

/-- A record of an engine; a missing one is empty. -/
def recAt (e : Engine) (o : Nat) : Rec :=
  (SMap.get? e.recs o).getD
    { holder := none, task := none, roleB := false, gran := 0, bytes := [], relp := none }

/-- An operation's engine as an agent. -/
def MOp.agent (o : MOp) (die e : Nat) : Agent :=
  { uid := o.uid, word := agentWord 3 die e 0, ctx := o.ctx, part := o.part, core := Config.cores + e, slot := 0, race := o.race,
    acq := o.acq, starter := some o.wave }

/-- A fault of an operation's access of a kind, pending at its wave (R188). -/
def pendMatrix (s : State) (o : MOp) (code : Nat) (va fagent : DWord) (access : Nat := 0) : State :=
  makePending s o.wave code { faddr := va, fagent := fagent, lane := true, elpc := o.elpc, mx := true, access := access }

/-! ### Start (R186, R193) -/

/-- The surviving steps of a bitmap record, or none when the operation is MXFMT (R193). -/
def bitmapSteps (e : Engine) (x : MulOp) (bm : Nat) : Option (List Nat) :=
  let r := recAt e bm
  let word (k : Nat) : Nat := natOfBytes (recBytes r (8 * k) 8)
  let l1 := word 0
  let groups := (List.range 64).filter (fun g => l1 / 2 ^ g % 2 = 1)
  let steps := ((List.range groups.length).zip groups).flatMap (fun pg =>
    let l2 := word (pg.1 + 1)
    ((List.range 64).filter (fun t => l2 / 2 ^ t % 2 = 1)).map (fun t => 64 * pg.2 + t))
  if 4096 < x.allSteps || decide (r.size < 8 * (groups.length + 1)) || steps.any (fun k => decide (x.allSteps ≤ k)) ||
      decide ((recAt e x.a).size < x.m * mfBytes x.fA (steps.length * mfStep x.fA)) then none
  else some steps

/-- The steps an operation performs. -/
def stepsOf (e : Engine) (k : MKind) : Option (List Nat) :=
  match k.mul? with
  | none => some []
  | some x =>
    if x.trivial then some []
    else
      match x.bitmap with
      | none => some (List.range x.allSteps)
      | some bm => bitmapSteps e x bm

/-- Whether an operation is suspended: its wave is saved (R199). -/
def suspended (s : State) (o : MOp) : Bool := match waveOf s o.wave with | some w => w.status == .saved | none => false

/-- MATRIX_OP_START: engine n starts its next accepted operation (R186), after those a restore brought
back at a step, which resume there (R199). -/
def startOp (s : State) (n : Nat) : State :=
  let e := engineOf s n
  match e.run, e.susp, e.queue with
  | none, r :: rest, _ => if suspended s r.op then s else modEngine s n (fun e => { e with run := some r, susp := rest })
  | none, [], o :: rest =>
    let go (s : State) (steps : List Nat) : State :=
      modEngine s n (fun e =>
        { e with queue := rest,
                 run := some { op := o, steps := steps, done := 0, assist := [], parked := none, failed := [] } })
    if suspended s o then s else match stepsOf e o.kind with
    | some steps => go s steps
    | none => go (pendMatrix s o 0x11 0 0) []
  | _, _, _ => s

/-! ### Steps (R87, R88, R192) -/

/-- The element values of one step of a row or column stored from some place on (R180, R81). -/
def stepVals (f : MFmt) (band : FVal) (bytes : Nat → Nat → List Byte) (k : Nat) : List FVal :=
  match f with
  | .fp4 =>
    let bs := bytes (5 * k) 5
    (List.range 8).map (fun i => (mulVal (blockElem bs i) band).1)
  | f =>
    let z := mfBytes f 1
    (List.range (mfStep f)).map (fun i => (mfFmt f).dec (natOfBytes (bytes ((k * mfStep f + i) * z) z)))

/-- A band scale: of A rows (kind 0) or of B columns (kind 1). -/
def bandVal (bands : DWord) (kind i : Nat) : FVal :=
  let k := 2 * kind + i / 64
  FFmt.dec .bf16 (bits bands (16 * k + 15) (16 * k))

/-- The values of row i of A at stored step p of `total`. -/
def rowVals (e : Engine) (x : MulOp) (total p i : Nat) : List FVal :=
  let w := match x.bitmap with | none => mfBytes x.fA (shapeK x.shape) | some _ => mfBytes x.fA (total * mfStep x.fA)
  let r := recAt e x.a
  stepVals x.fA (bandVal x.bands 0 i) (fun off n => recBytes r (i * w + off) n) p

/-- The values of column j of B at K-step q: from its record, or from slice j of the vault above. -/
def colVals (s : State) (n : Nat) (x : MulOp) (q j : Nat) : List FVal :=
  let fetch : Nat → Nat → List Byte := match x.b with
    | some b =>
      let r := recAt (engineOf s n) b
      fun off k => recBytes r (j * mfBytes x.fB (shapeK x.shape) + off) k
    | none => fun off k => memBytes s.mem (vaultKey s.dieid.toNat n (j * 0x10000 + x.base + off)) k
  stepVals x.fB (bandVal x.bands 1 j) fetch q

/-- The first byte, as an offset in its vault, of K-step q of a B-slice that ECC cannot correct (R15). -/
def sliceBad (s : State) (n : Nat) (x : MulOp) (q : Nat) : Option Nat :=
  if s.bad.isEmpty || x.b.isSome then none
  else
    let w := mfBytes x.fB (mfStep x.fB)
    (List.range x.n).findSome? (fun j =>
      let off := j * 0x10000 + x.base + q * w
      ((List.range w).find? (fun k => s.bad.contains (vaultKey s.dieid.toNat n (off + k)))).map (off + ·))

/-- ECC met by a step's B-slice reads, pending at the wave of the operation (R15, Table 20-1). -/
def sliceEcc (s : State) (n : Nat) (o : MOp) (x : MulOp) (q : Nat) : State :=
  match sliceBad s n x q with
  | none => s
  | some off =>
    pendMatrix s o 0x14 (vaultVa ((partOf s o.part).clusters.findIdx (fun c => c = n)) off) (o.agent s.dieid.toNat n).word

/-- The reads of K-step q of a B-slice, checked and recorded (R244, R245): RACE is pending at the wave, and the columns whose
reads are so not performed are named. -/
def sliceReads (s : State) (n : Nat) (o : MOp) (x : MulOp) (q : Nat) : State × List Nat :=
  if x.b.isSome then (s, [])
  else
    let a := o.agent s.dieid.toNat n
    let w := mfBytes x.fB (mfStep x.fB)
    (List.range x.n).foldl (fun (r : State × List Nat) j =>
      let off := j * 0x10000 + x.base + q * w
      let ls := (List.range w).map (fun k => Loc.vault (vaultKey s.dieid.toNat n (off + k)))
      match engRace r.1 a false (vaultVa ((partOf s o.part).clusters.findIdx (fun c => c = n)) off) ls with
      | some (va, who) => (pendMatrix r.1 o 0x09 va who, r.2 ++ [j])
      | none => (noteReads (if a.race then engNote r.1 a false ls else r.1) a ls, r.2)) (s, [])

/-- The values of a column whose reads are not performed: free ones, for R245 names none (log 111). -/
def freeCol (s : State) (x : MulOp) (j : Nat) : List FVal :=
  stepVals x.fB (bandVal x.bands 1 j)
    (fun off k => (List.range k).map (fun i => (Config.freeWord (s.free + 16 * j + off + i)).setWidth 8)) 0

/-- S of R87 for an element: the exact sum of a step's products. -/
def stepSum (a b : List FVal) : FVal :=
  let ps := (a.zip b).map (fun p => mulVal p.1 p.2)
  (addVals .rne (ps.map (·.1))).1

/-- What a step makes of one element. -/
inductive StepOut where
  | keep
  | set (code : Nat)
  | tiny (neg : Bool) (m : Nat) (e : Int)
  deriving DecidableEq, Repr

/-- An accumulator format. -/
def accFmt (f64 : Bool) : FFmt := if f64 then .f64 else .f32

/-- A step of R87 on an element: kept on a zero S, tiny when R88 applies, or rounded. -/
def stepElem (f : FFmt) (acc : Nat) (sum : FVal) : StepOut :=
  match sum with
  | .fin _ 0 _ => .keep
  | _ =>
    match (addVals .rne [f.dec acc, sum]).1 with
    | .fin neg m e =>
      if m ≠ 0 && decide (e + (Nat.log2 m : Int) < f.emin) then .tiny neg m e
      else .set (roundVal f .rne (.fin neg m e)).code
    | v => .set (roundVal f .rne v).code

/-- Every element's outcome of the step under way, the reads of the columns `raced` not performed. -/
def stepOuts (s : State) (n : Nat) (r : MRun) (x : MulOp) (q : Nat) (raced : List Nat) : List (Nat × Nat × StepOut) :=
  let e := engineOf s n
  let total := r.done + r.steps.length
  let p := match x.bitmap with | none => q | some _ => r.done
  let rows := (List.range x.m).map (fun i => (i, rowVals e x total p i))
  let cols := (List.range x.n).map (fun j => (j, if raced.contains j then freeCol s x j else colVals s n x q j))
  rows.flatMap (fun ia => cols.map (fun jb =>
    (ia.1, jb.1, stepElem (accFmt r.op.f64) (accGet e r.op.tiles ia.1 jb.1) (stepSum ia.2 jb.2))))

/-- A step completed. -/
def MRun.next (r : MRun) : MRun := { r with steps := r.steps.drop 1, done := r.done + 1, assist := [] }

/-- MATRIX_STEP: the running operation of engine n does its next step; tiny results are flushed
and counted, or left to the assist (R88). -/
def doStep (s : State) (n : Nat) : State :=
  match (engineOf s n).run with
  | none => s
  | some r =>
    match r.op.kind.mul?, r.steps, r.assist with
    | some x, q :: _, [] =>
      if suspended s r.op then s else
      let s := sliceEcc s n r.op x q
      let (s, raced) := sliceReads s n r.op x q
      let outs := stepOuts s n r x q raced
      let s := if raced.isEmpty then s else { s with free := s.free + 2064 }
      let f := accFmt r.op.f64
      let put (a : SMap Word) (o : Nat × Nat × StepOut) : SMap Word :=
        match o.2.2 with
        | .keep => a
        | .set c => accPut r.op.tiles a o.1 o.2.1 c
        | .tiny neg _ _ => if x.mftz then accPut r.op.tiles a o.1 o.2.1 (f.signed neg 0) else a
      let tiny := outs.filterMap (fun o => match o.2.2 with
        | .tiny neg m e => some (o.1 * 128 + o.2.1, dw (roundVal f .rne (.fin neg m e)).code)
        | _ => none)
      modEngine s n (fun e =>
        { e with
          acc := outs.foldl put e.acc
          flush := if x.mftz then satAdd e.flush tiny.length 0xFFFFFFFF else e.flush
          run := some (if tiny.isEmpty || x.mftz then r.next
                       else { r with assist := tiny }) })
    | _, _, _ => s

/-- SUBNORMAL_ASSIST: the control core writes the pending elements of engine n, each RoundNE of the exact value its step
found, and the step is complete (R88). -/
def doAssist (s : State) (n : Nat) : State :=
  match (engineOf s n).run with
  | none => s
  | some r =>
    match r.assist with
    | [] => s
    | _ :: _ =>
      modEngine s n (fun e =>
        { e with
          acc := r.assist.foldl (fun a kv => accPut r.op.tiles a (kv.1 / 128) (kv.1 % 128) kv.2.toNat) e.acc
          run := some r.next })

/-! ### The end of an operation (R186, R195 to R198) -/

/-- The first of several accesses whose translation has V = 0 and was not answered with fail. -/
def firstPage (s : State) (a : Agent) (failed : List Nat) (write : Bool) (xs : List (DWord × Nat)) : Option DWord :=
  xs.findSome? (fun x =>
    if x.1.toNat % x.2 ≠ 0 then none
    else match engPlaces s a false write failed x.1 x.2 with | .error (.page va) => some va | _ => none)

/-- The accesses of an OLOD: each lane's words, with their places in the record. -/
def olodWords (n : Nat) (addrs : SMap DWord) (offs : SMap Nat) : List (DWord × Nat) :=
  addrs.flatMap (fun la => (List.range n).map (fun t => (la.2 + dw (4 * t), SMap.getD offs la.1 0 + 4 * t)))

/-- One word of an OLOD read and written into the record; a fault leaves it (R188), and one that touches a guard
byte is 0 (log 87). -/
def olodWord (n : Nat) (o : MOp) (rc : Nat) (failed : List Nat) (s : State) (x : DWord × Nat) : State :=
  let a := o.agent s.dieid.toNat n
  if x.1.toNat % 4 ≠ 0 then pendMatrix s o 0x05 x.1 0
  else
    match engLoad s a false failed x.1 4 with
    | (s, .ok bs) => recordPut s n rc x.2 bs
    | (s, .guard va) => recordPut (pendMatrix s o 0x08 va 0) n rc x.2 [0, 0, 0, 0]
    | (s, .fault c va g) => pendMatrix s o c va g
    | (s, .page _) => s

/-- The output format of a MEPI. -/
def ofFmt : OFmt → FFmt
  | .f32 => .f32 | .f16 => .f16 | .bf16 => .bf16 | .e4m3 => .e4m3' | .e5m2 => .e5m2 | .f64 => .f64

/-- A drained element: scaled, clipped below by relu, rounded (R198). -/
def mepiCode (f : FFmt) (sat relu : Bool) (acc scale : FVal) : Nat :=
  let x := (mulVal acc scale).1
  let x := if relu && x.cmp (.fin false 0 0) < 0 && !x.isNan then .fin false 0 0 else x
  (cvtFloat f .rne sat true x).code

/-- The stores of a MEPI: address and code of each element, in order. -/
def mepiStores (e : Engine) (o : MOp) (shape : DWord) (scale : Word) (rblk : Nat) (addrs : SMap DWord) (f : FFmt)
    (sat relu : Bool) : List (DWord × Nat) :=
  addrs.flatMap (fun la =>
    let i := 32 * rblk + la.1
    if shapeM shape ≤ i then []
    else (List.range (shapeN shape)).map (fun j =>
      (la.2 + dw (j * (f.width / 8)),
       mepiCode f sat relu ((accFmt o.f64).dec (accGet e o.tiles i j)) (FFmt.dec .f32 scale.toNat))))

/-- One store of a MEPI: the state and the largest magnitude stored so far. -/
def mepiStore (n : Nat) (o : MOp) (f : FFmt) (failed : List Nat) (x : State × Option Nat) (y : DWord × Nat) :
    State × Option Nat :=
  let (s, mag) := x
  let a := o.agent s.dieid.toNat n
  let z := f.width / 8
  if y.1.toNat % z ≠ 0 then (pendMatrix s o 0x05 y.1 0 1, mag)
  else
    match engStore s a false false failed [] y.1 (bytesOf z y.2) with
    | (s', .ok _) =>
      if (engLines s a y.1 z).any (lineBad s') then (pendMatrix s o 0x0B y.1 0 1, mag)
      else
        let m := magF32 (f.dec y.2)
        (s', some (match mag with | none => m | some k => fpMinMax .f32 true k m))
    | (s, .fault c va g) => (pendMatrix s o c va g 1, mag)
    | (s, .guard va) => (pendMatrix s o 0x08 va 0 1, mag)
    | (s, .page _) => (s, mag)

/-- A MEPI's rows cleared (R198). -/
def mepiClear (o : MOp) (shape : DWord) (rblk : Nat) (acc : SMap Word) : SMap Word :=
  let rows := (List.range 32).filter (fun l => decide (32 * rblk + l < shapeM shape))
  rows.foldl (fun a l => (List.range (shapeN shape)).foldl (fun a j => accPut o.tiles a (32 * rblk + l) j 0) a) acc

/-- The largest magnitude folded into a word after the stores. -/
def mepiFold (s : State) (n : Nat) (o : MOp) (failed : List Nat) (va : DWord) (m : Nat) : State :=
  match engAtomic s (o.agent s.dieid.toNat n) false failed va 4 11 m with
  | (s, .fault c x g) => pendMatrix s o c x g 2
  | (s, .guard x) => pendMatrix s o 0x08 x 0 2
  | (s, _) => s

/-- The V = 0 an operation meets before any of its accesses is made, with its access kind. -/
def opPage (s : State) (n : Nat) (r : MRun) : Option (Nat × DWord) :=
  let o := r.op
  let a := o.agent s.dieid.toNat n
  match o.kind with
  | .olod _ k addrs offs => (firstPage s a r.failed false ((olodWords k addrs offs).map (fun x => (x.1, 4)))).map (fun va => (0, va))
  | .mepi shape scale rblk addrs f sat relu _ fold =>
    let xs := mepiStores (engineOf s n) o shape scale rblk addrs (ofFmt f) sat relu
    match firstPage s a r.failed true (xs.map (fun x => (x.1, (ofFmt f).width / 8))) with
    | some va => some (1, va)
    | none =>
      match fold with
      | some va => if xs.isEmpty then none else (firstPage s a r.failed true [(va, 4)]).map (fun va => (2, va))
      | none => none
  | _ => none

/-- The effect of an operation that is no multiplication. -/
def opEffect (s : State) (n : Nat) (r : MRun) : State :=
  let o := r.op
  match o.kind with
  | .mma .. => s
  | .mmas .. => s
  | .mzero => modEngine s n (fun e => { e with acc := e.acc.filter (fun kv => !(o.tiles.contains (kv.1 / 16384))) })
  | .mwr rblk col vals =>
    modEngine s n (fun e =>
      { e with acc := vals.foldl (fun a kv =>
          accPut o.tiles a (32 * rblk + kv.1 / 8) (col + kv.1 % 8) kv.2.toNat) e.acc })
  | .osto rc vals => vals.foldl (fun s kv => recordPut s n rc kv.1 [kv.2]) s
  | .olod rc k addrs offs => (olodWords k addrs offs).foldl (olodWord n o rc r.failed) s
  | .mepi shape scale rblk addrs f sat relu clr fold =>
    let xs := mepiStores (engineOf s n) o shape scale rblk addrs (ofFmt f) sat relu
    let (s, mag) := xs.foldl (mepiStore n o (ofFmt f) r.failed) (s, none)
    let s := if clr then modEngine s n (fun e => { e with acc := mepiClear o shape rblk e.acc }) else s
    match fold, mag with
    | some va, some m => mepiFold s n o r.failed va m
    | _, _ => s

/-- MATRIX_OP_FINISH: the running operation of engine n, its steps done, has its effect, publishes
(R243) and leaves the engine; one that meets V = 0 parks first (R188). -/
def finishOp (s : State) (n : Nat) : State :=
  match (engineOf s n).run with
  | none => s
  | some r =>
    if !r.steps.isEmpty || r.parked.isSome || suspended s r.op then s
    else
      match opPage s n r with
      | some (k, va) =>
        let (s, id) := parkAgent s (r.op.agent s.dieid.toNat n) none k va
        modEngine s n (fun e => { e with run := some { r with parked := some id } })
      | none =>
        let o := r.op
        let s := opEffect s n r
        let s := (publishFor s o.uid o.part (Config.cores + n) (some o.wave)).1
        let done := match o.kind.mul? with | some _ => r.done | none => 0
        let s := modEngine s n (fun e =>
          { e with
            run := none
            last := if o.m = noAcc then e.last
                    else { wave := o.wave, m := o.m, steps := done } ::
                      e.last.filter (fun l => !(l.wave = o.wave && l.m = o.m)) })
        settleRecords s n

/-- MATRIX_OP_START (R186): engine n. -/
def execMatrixOpStart (s : State) : Result := .next (startOp s s.target.n)
/-- MATRIX_STEP (R87): engine n. -/
def execMatrixStep (s : State) : Result := .next (doStep s s.target.n)
/-- SUBNORMAL_ASSIST (R88): engine n. -/
def execSubnormalAssist (s : State) : Result := .next (doAssist s s.target.n)
/-- MATRIX_OP_FINISH (R186): engine n. -/
def execMatrixOpFinish (s : State) : Result := .next (finishOp s s.target.n)
/-- RECORD_RELEASE (R182): the releases of engine n that may take effect. -/
def execRecordRelease (s : State) : Result := .next (settleRecords s s.target.n)

end Sys2Proof.Machine
end

