-- ==== Sys2Proof/Machine/Landing.lean ====
section
/-! DEFINITION. Landing of lane results, waits that end, and the steps of the group schedulers (04, R71,
R72; 13, R240; 15, R271; 17, R316 to R318). -/

namespace Sys2Proof.Machine

/-- A change made with another wave in focus. -/
def onWave (s : State) (id : Nat) (f : State → State) : State :=
  if (waveOf s id).isSome then focusOn (f (focusOn s id)) s.w.id else s

/-- LANE_RESULT_LAND: the fixed-latency results of wave n whose latency is past (R71). -/
def execLaneResultLand (s : State) : Result := .next (onWave s s.target.n landDue)

/-- A variable-latency result of the focus wave lands, once every earlier write of its register has
(R72); a load's by itself, another instruction's with all that it writes, its FPSTAT update among them (R86). -/
def landVariable (s : State) (load : Bool) (k : Nat) : State :=
  let s := landDue s
  match (s.w.lane.inflight.filter (fun p => !p.fixed && p.load == load))[k]? with
  | none => s
  | some p =>
    let ps := if load then [p] else s.w.lane.inflight.filter (fun q => !q.fixed && q.seq == p.seq)
    if ps.any (fun q => s.w.lane.inflight.any (fun o => o.dest = q.dest && q.dest ≠ .fpstat && decide (o.seq < q.seq))) then s
    else ps.foldl landOne s

/-- VARIABLE_WRITE_LAND: result k of wave n, not a load's (R72). -/
def execVariableWriteLand (s : State) : Result :=
  .next (onWave s s.target.n (fun s => landVariable s false s.target.k))

/-- LOAD_DATA_RETURN: load result m of wave n lands; with k > 0, the line of key k − 1 leaves the wave's
L1, an eviction the spec leaves to the device (R208, R217). -/
def execLoadDataReturn (s : State) : Result :=
  let t := s.target
  .next (onWave s t.n (fun s =>
    let s := landVariable s true t.m
    if t.k = 0 then s else evictLine s s.w.sys.core.toNat (t.k - 1)))

/-- LLS_DECAY: every 256 cycles of CLOCK each placed wave's LLS drops by 1, once (R317). -/
def execLlsDecay (s : State) : Result :=
  let drop (w : Wave) : Wave := if w.placed then { w with sys := { w.sys with lls := w.sys.lls - (if w.sys.lls = 0 then 0 else 1) } } else w
  .next (if s.clock % 256 = 0 && decide (s.decayed < s.clock) then
    { s with decayed := s.clock, w := drop s.w, waves := s.waves.map (fun kw => (kw.1, drop kw.2)) }
    else s)

/-- STARVATION: wave n has not issued for 2,048 cycles (R318). -/
def execStarvation (s : State) : Result :=
  .next (modWave s s.target.n (fun w =>
    if w.placed && decide (w.lastIssue + 2048 ≤ s.clock) then { w with starved := true } else w))

/-- YIELD_WINDOW_END: the window of wave n ends after its 64 cycles (R165). -/
def execYieldWindowEnd (s : State) : Result :=
  .next (modWave s s.target.n (fun w => if w.yieldEnd ≤ s.clock then { w with yieldEnd := 0 } else w))

/-- The state an instruction gives, or the state before where it gives none. -/
def resultState (s : State) : Result → State
  | .next t => t
  | _ => s

/-- The focus wave's oldest lane entry popped into issue. -/
def popLane (s : State) (e : LEntry) (rest : List LEntry) : State :=
  modLane s (fun l => { l with issue := e, q := rest })

/-- A blocked queue instruction of the focus wave executes again: a lane push or pop at the head of its
queue, or the QPUSHS or QPOPS at its SPC (R271). -/
def serveWait (s : State) : State :=
  let fallback :=
    match fetchAt s s.w.regs.spc 4 with
    | .ok x =>
      (match decodeScalar (BitVec.ofNat 32 x) with
       | .qpushs r q => resultState s (execQpushs r q s)
       | .qpops r q => resultState s (execQpops r q s)
       | _ => s)
    | .error _ => s
  if s.w.status ≠ .waiting then s
  else
    match s.w.lane.q with
    | e :: rest =>
      (match e.i with
       | .vqpush x => resultState s (execVqpush x (popLane s e rest))
       | .vqpop x => resultState s (execVqpop x (popLane s e rest))
       | _ => fallback)
    | [] => fallback

/-- QUEUE_WAIT_SERVE: the push or pop that wave n waits at (R271). -/
def execQueueWaitServe (s : State) : Result := .next (onWave s s.target.n serveWait)

end Sys2Proof.Machine
end

