-- ==== Sys2Proof/Machine/Place.lean ====
section
/-! DEFINITION. Placement (02, R26 to R31; 03, R47; 17, R312, R315): kernel descriptors, capacity, the wave
a source places, the distributor's choices, and the offer a core takes. -/

namespace Sys2Proof.Machine

/-! ### Kernel descriptors (Table 03-10) -/

/-- V, the vector registers of a kernel's wave (R27). -/
def KDesc.v (k : KDesc) : Nat := 8 * ((k.vregs + 7) / 8)

/-- The fields of eight quadwords. -/
def KDesc.ofQuads (q : List DWord) : KDesc :=
  let h := q.getD 5 0
  { entry := q.getD 0 0, lbase := q.getD 1 0, sbase := q.getD 2 0, ephBase := q.getD 3 0,
    ephCnt := bits (q.getD 4 0) 63 32, vregs := bits h 17 8, sregs := bits h 26 18, acc := bits h 29 27,
    accF64 := h.getLsbD 30, groups := bits h 39 31, scratch := bits h 63 40 }

/-- Whether a descriptor is valid (R47). -/
def kdescOk (q : List DWord) : Bool :=
  let k := KDesc.ofQuads q
  zeroBits (q.getD 4 0) 31 0 && zeroBits (q.getD 5 0) 7 0 && q.getD 6 0 == 0 && q.getD 7 0 == 0 &&
  decide (1 ≤ k.vregs) && decide (k.vregs ≤ 512) && decide (1 ≤ k.sregs) && decide (k.sregs ≤ 256) &&
  decide (k.acc ≤ (if k.accF64 then 2 else 4)) && decide (1 ≤ k.groups) && decide (k.groups ≤ 256) &&
  decide (k.scratch ≤ 16776704) && zeroBits k.entry 1 0 && zeroBits k.lbase 1 0 && zeroBits k.sbase 1 0 &&
  zeroBits k.ephBase 2 0 && !(k.ephBase == 0 && decide (k.ephCnt ≠ 0))

/-- The kernel whose descriptor lies at an address, or the cause of the dispatch fault: PROT for an
invalid one, and the fetch's own cause (R312). An address that is no multiple of 64 is PROT (log 93). -/
def readKernel (s : State) (ctx part : Nat) (va : DWord) : Except Nat KDesc :=
  if !zeroBits va 5 0 then .error 0x07
  else
    match engQuads s ctx part false va 8 with
    | .error c => .error c
    | .ok q => if kdescOk q then .ok (KDesc.ofQuads q) else .error 0x07

/-! ### Capacity (R27, R178) -/

/-- The waves that hold a place on a core. -/
def wavesOn (s : State) (core : Nat) : List Wave :=
  (allWaves s).filter (fun w => w.placed && decide (w.sys.core.toNat = core))

/-- The tiles that a binding takes, the lowest free ones, if there are enough. -/
def tilesFor (e : Engine) (acc : Nat) (f64 : Bool) : Option (List Nat) :=
  let free (t : Nat) : Bool := (SMap.get? e.owner t).isNone
  if f64 then
    let ps := [0, 1].filter (fun p => free (2 * p) && free (2 * p + 1))
    if ps.length < acc then none else some ((ps.take acc).flatMap (fun p => [2 * p, 2 * p + 1]))
  else
    let ts := [0, 1, 2, 3].filter free
    if ts.length < acc then none else some (ts.take acc)

/-- The tiles a wave of a kernel would take on a core, when the core has a slot, the rows and the
tiles for it. -/
def coreFits (s : State) (core : Nat) (k : KDesc) : Option (List Nat) :=
  let ws := wavesOn s core
  if Config.slotsPerCore ≤ ws.length || Config.rowsPerCore < ws.foldl (fun n w => n + w.rows) 0 + k.v then none
  else tilesFor (engineOf s (core / 4)) k.acc k.accF64

/-- Waves of a kernel that an idle cluster holds. -/
def clusterCapacity (k : KDesc) : Nat :=
  let rows := 4 * Nat.min Config.slotsPerCore (Config.rowsPerCore / k.v)
  if k.acc = 0 then rows else Nat.min rows ((if k.accF64 then 2 else 4) / k.acc)

/-- The scheduler slot a new wave takes: the scheduler with the fewest waves, and the lowest free
position in it (R27, R104). -/
def pickSlot (s : State) (core : Nat) : BitVec 6 :=
  let ws := wavesOn s core
  let count (g : Nat) : Nat := ws.countP (fun w => decide (w.slotNo % 4 = g))
  let g := [1, 2, 3].foldl (fun b g => if count g < count b then g else b) 0
  let used := (ws.filter (fun w => decide (w.slotNo % 4 = g))).map (fun w => w.slotNo / 4)
  BitVec.ofNat 6 (g + 4 * (((List.range 16).find? (fun p => !used.contains p)).getD 0))

/-- Every wave of a context that is placed or saved. -/
def wavesOfCtx (s : State) (ctx : Nat) : List Wave :=
  (allWaves s).filter (fun w => decide (w.ctx = ctx) && w.status ≠ .retired) ++
    (match (ctxOf s ctx).image.bind (SMap.get? s.images) with | some i => i.waves | none => [])

/-- The lowest spill index that no other wave of the context holds (R101). -/
def spillIndex (s : State) (ctx : Nat) : Nat :=
  let used := (wavesOfCtx s ctx).map (·.spillIdx)
  ((List.range (used.length + 1)).find? (fun x => !used.contains x)).getD 0

/-! ### Power gates (R319) -/

/-- A wake message for a core: it aborts an entry, starts the power-up of a core that is off, and
restarts the idle count. -/
def wakeCore (s : State) (core : Nat) : State :=
  modCore s core (fun c =>
    match c.gate with
    | .on => { c with idleSince := s.clock }
    | .stage1 => { c with gate := .on, idleSince := s.clock }
    | .entry => { c with gate := .on, idleSince := s.clock }
    | .off => { c with gate := .waking, powerAt := s.clock + 512, idleSince := s.clock }
    | .waking => c)

/-- Whether a core is powered. -/
def powered (s : State) (core : Nat) : Bool := (coreOf s core).gate == .on || (coreOf s core).gate == .stage1 ||
  (coreOf s core).gate == .entry

/-! ### One wave placed (R26, R101) -/

/-- What a source asks to place. -/
structure WaveSpec where
  ctx : Nat
  part : Nat
  launch : Nat
  wg : Nat
  widx : Nat
  kind : WKind
  bound : Bool
  coop : Bool
  prio : Nat
  pop : Nat
  task : Option Nat
  frame : BitVec 16
  acq : Nat
  s : List (Nat × DWord)
  v : List (Nat × Word)
  ep : SMap EpLane
  deriving DecidableEq, Repr

/-- A vector register of a spec: a value for each populated lane; lanes without a thread hold 0 (log 115). -/
def vCol (r pop : Nat) (f : Nat → Word) : List (Nat × Word) := (List.range pop).map (fun i => (32 * r + i, f i))

/-- The wave of a spec on a core, with the registers of R26. -/
def freshWave (s : State) (core : Nat) (k : KDesc) (tiles : List Nat) (x : WaveSpec) : Wave :=
  let c := ctxOf s x.ctx
  let idx := spillIndex s x.ctx
  let area := !(c.spillB == 0) && decide (c.spillQ ≠ 0)
  let regs : Regs :=
    { Regs.zero with
      s := SMap.writes 0 [] x.s, v := SMap.writes 0 [] x.v, em := popMask x.pop, spc := k.entry, lpc := k.lbase,
      lbase := k.lbase }
  let sys : Sys :=
    { Sys.zero with
      spillbase := if area then c.spillB + dw (c.spillQ * idx) else 0
      spilllim := if area then c.spillB + dw (c.spillQ * (idx + 1)) else 0
      partid := BitVec.ofNat 4 x.part, dieid := s.dieid, cluster := BitVec.ofNat 6 (core / 4),
      core := BitVec.ofNat 8 core, slot := pickSlot s core, tmplbase := c.tmpl &&& ~~~ 127,
      taskid := BitVec.ofNat 16 (x.task.getD 0), frameid := x.frame }
  { Wave.empty with
    id := s.nextWave, status := .ready, ctx := x.ctx, part := x.part, launch := x.launch, wg := x.wg, widx := x.widx,
    kind := x.kind, bound := x.bound, coop := x.coop, prio := x.prio, age := s.nextWave, pop := x.pop, rows := k.v,
    ephBase := k.ephBase, ephCnt := k.ephCnt, sbase := k.sbase, regs := regs, sys := sys, accs := k.acc,
    accF64 := k.accF64, tiles := tiles, acq := x.acq, task := x.task, ep := x.ep, spillIdx := idx,
    epoch := (coreOf s core).epoch + 1, lastIssue := s.clock }

/-- Tiles bound to a wave, cleared (Table 10-1). -/
def bindTiles (e : Engine) (tiles : List Nat) (id : Nat) : Engine :=
  { e with owner := tiles.foldl (fun m t => SMap.put m t id) e.owner,
           acc := e.acc.filter (fun kv => !tiles.contains (kv.1 / 16384)) }

/-- A wave placed on a core that fits it: the state, and the wave's id. A launch onto the core
advances its epoch (R209), and the wave's start acquires, so the core's L1 keeps no old line (R208, R236;
log 78). -/
def placeWave (s : State) (core : Nat) (k : KDesc) (tiles : List Nat) (x : WaveSpec) : State × Nat :=
  let w := freshWave s core k tiles x
  let s := modCore (invalidateL1 s core) core (fun c => { c with epoch := c.epoch + 1, gate := .on, idleSince := s.clock })
  let s := if tiles.isEmpty then s else modEngine s (core / 4) (fun e => bindTiles e tiles w.id)
  ({ s with waves := SMap.put s.waves w.id w, nextWave := w.id + 1 }, w.id)

/-! ### The distributor (R28, R29) -/

/-- Waves placed in order, each on the first core of the list that fits it; none when some wave
fits nowhere. -/
def placeAll (cores : List Nat) (k : KDesc) : State → List WaveSpec → Option State
  | s, [] => some s
  | s, x :: l =>
    match cores.findSome? (fun c => (coreFits s c k).map (fun t => (c, t))) with
    | none => none
    | some (c, t) => placeAll cores k (placeWave s c k t x).1 l

/-- The cores on which `n` waves would come to stand, with the same choices. -/
def placeCores (cores : List Nat) (k : KDesc) (x : WaveSpec) : State → Nat → Option (List Nat)
  | _, 0 => some []
  | s, n + 1 =>
    match cores.findSome? (fun c => (coreFits s c k).map (fun t => (c, t))) with
    | none => none
    | some (c, t) => (placeCores cores k x (placeWave s c k t x).1 n).map (fun l => c :: l)

/-- A cluster's cores. -/
def clusterCores (c : Nat) : List Nat := [4 * c, 4 * c + 1, 4 * c + 2, 4 * c + 3]

/-- A partition's clusters in ascending number. -/
def clustersOf (p : Part) : List Nat := sortBy (fun a b => decide (a ≤ b)) p.clusters

/-- The cores a co-operative block is placed on, in order: by hops from the home cluster (R29). -/
def coopCores (s : State) (p : Part) (k : KDesc) : List Nat :=
  match (clustersOf p).find? (fun c => (clusterCores c).any (fun x => (coreFits s x k).isSome)) with
  | none => []
  | some home => (sortBy (fun a b => decide (hops home a ≤ hops home b)) (clustersOf p)).flatMap clusterCores

/-- Lists of cores to try for a workgroup, in order. -/
def coreLists (s : State) (p : Part) (k : KDesc) (coop : Bool) : List (List Nat) :=
  if coop then [coopCores s p k] else (clustersOf p).map clusterCores

/-- Waves of a launch in all (R25). -/
def Launch.waves (x : Launch) : Nat := (x.n + 31) / 32

/-- The workgroup a launch places next, and its waves. -/
def Launch.group (x : Launch) : Nat × List Nat :=
  let g := x.next / x.w
  (g, (List.range (Nat.min x.w (x.waves - x.next))).map (x.next + ·))

/-- A grid wave of a launch (Table 02-2). -/
def gridSpec (acq l : Nat) (x : Launch) (w : Nat) : WaveSpec :=
  let g := w / x.w
  let p := Nat.min 32 (x.n - 32 * w)
  { ctx := x.ctx, part := x.part, launch := l, wg := g, widx := w % x.w, kind := .grid, bound := false, coop := x.coop,
    prio := x.prio, pop := p, task := none, frame := 0, acq := acq,
    s := [(0, dw w), (1, dw g), (2, x.argb), (3, dw (w % x.w)), (4, dw x.w), (5, dw p), (6, x.arg)],
    v := vCol 0 p (fun i => BitVec.ofNat 32 (32 * w + i)) ++ vCol 1 p (fun i => BitVec.ofNat 32 i), ep := [] }

/-- What the start of a launch's waves acquires: the releases that readied its task (R236). -/
def launchAcq (s : State) (x : Launch) : Nat :=
  match x.task.bind (SMap.get? (partOf s x.part).tasks) with
  | some t => t.acq
  | none => 0

/-- Whether the waves of a context may be placed (R360, R361). -/
def ctxRuns (s : State) (ctx : Nat) : Bool := (ctxOf s ctx).resident && (ctxOf s ctx).switching.isNone

/-- Whether a launch still has a workgroup to place. -/
def Launch.waits (x : Launch) : Bool := !x.cancelled && decide (x.next < x.waves)

/-- Whether a launch of a partition has a workgroup to place now. -/
def Launch.stands (s : State) (part : Nat) (x : Launch) : Bool := decide (x.part = part) && x.waits && ctxRuns s x.ctx

/-- The waiting co-operative block that has reserved capacity, if any (R29). -/
def reservedBlock (s : State) (part : Nat) : Option (Nat × Launch) :=
  s.launches.find? (fun lx => lx.2.stands s part && lx.2.reserved)

/-- The launch whose turn it is, of the front end's or of the Orrery's: the earliest that waits (R315), but a block
that has reserved capacity goes before it, since no other launch may take that (R29, R37; log 94). -/
def headLaunch (s : State) (part : Nat) (orrery : Bool) : Option (Nat × Launch) :=
  match reservedBlock s part with
  | some lx => if lx.2.task.isSome == orrery then some lx else none
  | none => s.launches.find? (fun lx => lx.2.stands s part && lx.2.task.isSome == orrery)

/-- The cores a launch's next workgroup would take now. -/
def launchCores (s : State) (l : Nat) (x : Launch) : Option (List Nat) :=
  (coreLists s (partOf s x.part) x.k x.coop).findSome? (fun cs => placeCores cs x.k (gridSpec (launchAcq s x) l x x.next) s x.group.2.length)

/-- The next workgroup of a launch placed (R28, R29). -/
def placeGroup (s : State) (l : Nat) (x : Launch) : State :=
  let (g, ws) := x.group
  match (coreLists s (partOf s x.part) x.k x.coop).findSome? (fun cs => placeAll cs x.k s (ws.map (gridSpec (launchAcq s x) l x))) with
  | none => s
  | some t =>
    let t := modPart t x.part (fun p =>
      { p with groups := SMap.put p.groups (wgKey l g) { sets := x.groups, size := ws.length, bars := [], gone := [] } })
    let x := { x with next := x.next + ws.length, live := x.live + ws.length, since := t.clock, reserved := false }
    { t with launches := SMap.put t.launches l x }

/-- Whether the size of a launch or of its workgroups breaks R28. -/
def sizeBad (n w : Nat) (coop : Bool) : Bool := decide (n = 0) || decide (1024 < w) || (!coop && decide (64 < w))

/-- Whether a launch of a kernel breaks the rules of R28, R29, R46 and R178: its size, its workgroup, its block, or
a group table smaller than the kernel needs. -/
def launchBad (p : Part) (k : KDesc) (n w sets : Nat) (coop : Bool) : Bool :=
  let size := Nat.min w ((n + 31) / 32)
  sizeBad n w coop || decide (sets < k.groups) ||
  decide ((if coop then p.clusters.length * clusterCapacity k else clusterCapacity k) < size)

/-- Whether a launch has placed a wave, of its grid or of a node. -/
def Launch.started (x : Launch) : Bool := x.next ≠ 0 || x.nodes.any (fun nd => nd.last.isSome)

/-- A launch whose first wave is not placed, with its kernel as the descriptor now gives it (R47), or the cause that
rejects it (R28, R205, R311). One with placed waves keeps its kernel. -/
def Launch.read (s : State) (x : Launch) : Except Nat Launch :=
  if x.started then .ok x
  else
    match readKernel s x.ctx x.part x.desc with
    | .error c => .error c
    | .ok k =>
      let p := partOf s x.part
      if launchBad p k x.n x.w x.groups.length x.coop || (x.task.isNone && scratchTooBig p k.scratch) then .error 0x07
      else .ok { x with k := k, needAlloc := x.task.isNone && decide (k.scratch ≠ 0) && x.alloc.isNone }

/-- The group table of a launch that brings none: group 0 holds every wave (R30). -/
def defaultGroups (w : Nat) : List (BitVec 1024) := [BitVec.ofNat 1024 (2 ^ w - 1)]

/-- A launch entered behind the others. -/
def addLaunch (s : State) (x : Launch) : State × Nat :=
  ({ s with launches := SMap.put s.launches s.nextLaunch x, nextLaunch := s.nextLaunch + 1 }, s.nextLaunch)

/-! ### A fault at dispatch (R312) -/

/-- The record of a dispatch fault, or of a failed admission. No kind of Table 06-6 is the Orrery's, the distributor's
or a core's before it has a wave: the agent has KIND 0, and the core, where one met the fault, is named by itself
(log 95). The Coelostat, which reads an episode's descriptor, has KIND 6 (R389). -/
def dispatchFault (s : State) (ctx part : Nat) (core : Option Nat) (code : Nat) (task : Option Nat) (faddr : DWord)
    (kind : Nat := 0) : State :=
  let g := agentWord kind s.dieid.toNat 0 0
  postCause s ctx part
    { code := code, imp := false, await := false, task := task, faddr := faddr, fagent := if code = 0x14 then g else 0,
      access := 0, agent := g, core := core }

/-! ### Offers (R312) -/

/-- What a core is offered. -/
inductive OfferOf where
  | group (l : Nat)
  | node (l j : Nat)
  | episode (i : Nat)
  | task (e : Nat)
  deriving DecidableEq, Repr

/-- An offer: its priority, since when it waits, and its place among the sources (Table 17-6). -/
structure Offer where
  prio : Nat
  since : Nat
  rank : Nat
  what : OfferOf
  deriving DecidableEq, Repr

/-- Whether an offer goes before another. -/
def Offer.before (a b : Offer) : Bool :=
  decide (b.prio < a.prio) || (decide (a.prio = b.prio) &&
    (decide (a.since < b.since) || (decide (a.since = b.since) && decide (a.rank ≤ b.rank))))

/-- The partition that owns a core. -/
def partAt (s : State) (core : Nat) : Option Nat := (s.parts.find? (fun kp => kp.2.clusters.contains (core / 4))).map (·.1)

/-- What the coalescer popped: a record a lane, the release they carry, and the causes of those that could not be
read, which are zeros and leave the queue (R271). -/
structure NodePops where
  st : State
  recs : List (List Byte)
  acq : Nat
  pend : List (Nat × DWord)

/-- Up to `n` records popped by the coalescer for a context on a core; those that refills lose are none of them. -/
def popRecords (s : State) (ctx part core : Nat) (q : DWord) : Nat → NodePops
  | 0 => { st := s, recs := [], acq := 0, pend := [] }
  | n + 1 =>
    let bad (s : State) (code : Nat) (va : DWord) : NodePops :=
      let r := popRecords s ctx part core q n
      { r with recs := [] :: r.recs, pend := (code, va) :: r.pend }
    match popAt s ctx ctx part core q (qcwOf s ctx part q).gen with
    | (s, .got bs a) =>
      let r := popRecords s ctx part core q n
      { r with recs := bs :: r.recs, acq := Nat.max a r.acq }
    | (s, .guard va) => bad s 0x08 va
    | (s, .fault code va) =>
      let c := qcwOf s ctx part q
      bad (qcwSet s ctx part q (c.head + 1) c.tail) code va
    | (s, _) => { st := s, recs := [], acq := 0, pend := [] }

/-- Records that a node's queue holds, up to the 32 of a wave where its overflow area holds some: those that a refill would
lose (R271) are none. None where its control word cannot be read. -/
def nodeCount (s : State) (x : Launch) (j : Node) : Nat :=
  if !(slotAt s x.ctx x.part true j.qcw 32).isOk then 0
  else
    let c := qcwOf s x.ctx x.part j.qcw
    if 32 ≤ c.count || ovCount s x.ctx x.part c = 0 then c.count
    else (popRecords s x.ctx x.part 0 j.qcw 32).recs.length

/-- Whether a graph has drained: every wave of the launch has retired (R281; their WEMITs are then
served, R36). -/
def Launch.drained (x : Launch) : Bool := decide (x.live = 0) && !x.waits

/-- Whether a node is due (R281). -/
def nodeDue (s : State) (x : Launch) (j : Node) : Bool :=
  let n := nodeCount s x j
  decide (32 ≤ n) || (decide (1 ≤ n) && (j.due || x.drained))

/-- The lowest due node of a graph. -/
def dueNode (s : State) (x : Launch) : Option (Nat × Node) :=
  if x.cancelled || !ctxRuns s x.ctx then none
  else ((List.range x.nodes.length).zip x.nodes).find? (fun ij => nodeDue s x ij.2)

/-- The first core of a partition, in the distributor's order, that fits one wave of a kernel. -/
def firstCore (s : State) (part : Nat) (k : KDesc) : Option Nat :=
  ((clustersOf (partOf s part)).flatMap clusterCores).find? (fun c => (coreFits s c k).isSome)

/-- The kernel of an episode: its descriptor's address lies in bytes 8 to 15 of the frame's argument
block (R389). An error is a cause with the address it names. -/
def episodeKernel (s : State) (part : Nat) (f : FrameEnt) : Except (Nat × DWord) KDesc :=
  match engQuads s f.ctx part false (f.argb + 8) 1 with
  | .error c => .error (c, f.argb + 8)
  | .ok q =>
    match readKernel s f.ctx part (q.getD 0 0) with
    | .ok k => .ok k
    | .error c => .error (c, q.getD 0 0)

/-- The frame of a formation's lane-0 ray. -/
def formFrame (p : Part) (f : Formation) : Option (Nat × FrameEnt) :=
  match f.rays with
  | [] => none
  | r :: _ =>
    match SMap.get? p.rays r with
    | none => none
    | some ray => (SMap.get? p.frames ray.frame).map (fun fe => (ray.frame, fe))

/-- Whether a formation offers its wave: it holds the slots it waited for (R330). -/
def Formation.ready (f : Formation) : Bool := f.jam || decide (f.rays.length ≤ f.slots.length)

/-- The core an episode's formation is offered to: the first that fits; one whose dispatch will fault
is offered to the first core of all. -/
def formCore (s : State) (part : Nat) (f : Formation) : Option Nat :=
  match formFrame (partOf s part) f with
  | none => none
  | some (_, fe) =>
    if !ctxRuns s fe.ctx then none
    else
      match episodeKernel s part fe with
      | .ok k => firstCore s part k
      | .error _ => ((clustersOf (partOf s part)).flatMap clusterCores).head?

/-- Offers of the distributor on a core. -/
def groupOffers (s : State) (part core : Nat) : List Offer :=
  [false, true].filterMap (fun src =>
    match (headLaunch s part src).bind (fun lx => (lx.2.read s).toOption.map (fun x => (lx.1, x))) with
    | none => none
    | some (l, x) =>
      if x.needAlloc || !((launchCores s l x).any (fun cs => cs.contains core)) then none
      else some { prio := x.prio, since := x.since, rank := 0, what := .group l })

/-- The core a node's wave is offered to: the first that fits; one whose dispatch will fault is offered
to the first core of all. -/
def nodeCore (s : State) (part : Nat) (x : Launch) (nd : Node) : Option Nat :=
  match readKernel s x.ctx part nd.desc with
  | .ok k => firstCore s part k
  | .error _ => ((clustersOf (partOf s part)).flatMap clusterCores).head?

/-- Offers of the coalescer on a core. -/
def nodeOffers (s : State) (part core : Nat) : List Offer :=
  s.launches.filterMap (fun lx =>
    match (if lx.2.part = part then dueNode s lx.2 else none) with
    | none => none
    | some (j, nd) =>
      if nodeCore s part lx.2 nd = some core then
        some { prio := lx.2.prio, since := nd.pend.getD s.clock, rank := 0, what := .node lx.1 j : Offer }
      else none)

/-- Offers of the Coelostat on a core. -/
def episodeOffers (s : State) (part core : Nat) : List Offer :=
  let fs := (partOf s part).forms
  ((List.range fs.length).zip fs).filterMap (fun jf =>
    if jf.2.ready && formCore s part jf.2 = some core then
      some { prio := ((formFrame (partOf s part) jf.2).map (fun x => x.2.prio)).getD 0, since := jf.2.since, rank := 1,
             what := .episode jf.1 }
    else none)

/-- The offer of a core's deque: its bottom entry, when that wave fits, or its dispatch faults. -/
def dequeOffers (s : State) (part core : Nat) : List Offer :=
  match (dequeOf (partOf s part) core).getLast? with
  | none => []
  | some e =>
    match SMap.get? (partOf s part).tasks e with
    | none => []
    | some t =>
      let fits := match readKernel s t.ctx part (TaskRec.entry t.r) with
        | .ok k => (coreFits s core k).isSome
        | .error _ => true
      if t.st = .dealt && ctxRuns s t.ctx && fits then
        [{ prio := TaskRec.prio t.r, since := t.since, rank := 2, what := .task e }]
      else []

/-- The offer a core takes: a reserved block's first, else the highest priority, the longest wait, and
the order of the sources. -/
def bestOffer (s : State) (core : Nat) : Option (Nat × Offer) :=
  match partAt s core with
  | none => none
  | some part =>
    let all := groupOffers s part core ++ nodeOffers s part core ++ episodeOffers s part core ++ dequeOffers s part core
    let all := match reservedBlock s part with
      | some (l, _) => all.filter (fun o => o.what = .group l)
      | none => all
    match all with
    | [] => none
    | o :: l => some (part, l.foldl (fun b o => if b.before o then b else o) o)

/-- Cores woken; whether all were powered. -/
def wakeAll (s : State) (cores : List Nat) : State × Bool :=
  (cores.foldl wakeCore s, cores.all (powered s))

/-- A launch rejected before its first wave is placed: its command completes with an error, or the task it serves has
a dispatch fault (R28, R311). -/
def rejectLaunch (s : State) (l : Nat) (x : Launch) (code : Nat) : State :=
  let s := dropAlloc { s with launches := SMap.del s.launches l } x.part x.alloc
  let s := match x.cmd with | some c => completeCmd s x.ctx c 6 0 | none => s
  match x.task with
  | some e => dispatchFault (freeTask s x.part e) x.ctx x.part none code (some e) x.desc
  | none => s

/-- A launch takes its scratchpad allocation, and waits while none is free (R205). -/
def allocLaunch (s : State) (l : Nat) (x : Launch) : State :=
  match allocScratch s x.part x.ctx x.k.scratch x.argb with
  | none => s
  | some (s, id) =>
    x.nodes.foldl (fun s nd => nameQcw s x.part nd.qcw)
      { s with launches := SMap.put s.launches l { x with needAlloc := false, alloc := some id } }

/-- WORKGROUP_PLACEMENT: launch n's next workgroup, when it is its source's turn and no core it takes
has a better offer; a launch that still needs its scratchpad allocation takes that first (R205). -/
def groupStep (s : State) (l : Nat) : State :=
  match SMap.get? s.launches l with
  | none => s
  | some x0 =>
    if (headLaunch s x0.part x0.task.isSome).map (·.1) ≠ some l then s
    else
      match x0.read s with
      | .error c => rejectLaunch s l x0 c
      | .ok x =>
        if x.needAlloc then allocLaunch s l x
        else
          match launchCores s l x with
          | none => s
          | some cores =>
            if cores.any (fun c => (bestOffer s c).map (fun o => o.2.what) ≠ some (.group l)) then s
            else
              let (t, on) := wakeAll s cores
              if on then placeGroup s l x else t

/-- WORKGROUP_PLACEMENT (R28, R29): launch n. -/
def execWorkgroupPlacement (s : State) : Result := .next (groupStep s s.target.n)

/-- COOP_RESERVE (R29): the block of launch n has waited 65,536 cycles. -/
def execCoopReserve (s : State) : Result :=
  .next (match SMap.get? s.launches s.target.n with
    | none => s
    | some x =>
      if x.coop && x.waits && decide (x.since + 65536 ≤ s.clock) then
        let x := { x with reserved := true }
        { s with launches := SMap.put s.launches s.target.n x }
      else s)

/-! ### Tasks (R312) -/

/-- A task's wave (Table 02-2). -/
def taskSpec (part e : Nat) (t : Task) : WaveSpec :=
  let p := TaskRec.lanes t.r + 1
  let bound := decide (TaskRec.kind t.r = 2)
  { ctx := t.ctx, part := part, launch := 0, wg := 0, widx := 0, kind := .task, bound := bound, coop := false,
    prio := TaskRec.prio t.r, pop := p, task := some e, frame := 0, acq := t.acq,
    s := [(0, dw e), (1, TaskRec.arg t.r), (2, TaskRec.argb t.r),
          (4, if bound then (TaskRec.key t.r).setWidth 64 else 0), (5, dw p)],
    v := vCol 1 p (fun i => BitVec.ofNat 32 i), ep := [] }

/-- A wave alone is its own workgroup: its number is its id. -/
def aloneIn (s : State) (id : Nat) : State := modWave s id (fun w => { w with wg := id })

/-- Records reserved for a task pass to its wave (R310). -/
def giveRecords (s : State) (e id : Nat) (recs : List (Nat × Nat)) : State :=
  recs.foldl (fun s er => modEngine s er.1 (fun en =>
    { en with recs := SMap.adjust en.recs er.2 (fun r =>
        if r.task = some e && r.holder.isNone then { r with holder := some id } else r) })) s

/-- Dispatch of the entry at the bottom of a core's deque (R312): the bound test, the descriptor,
the wave, Running. -/
def dispatchTask (s : State) (part core e : Nat) : State :=
  match SMap.get? (partOf s part).tasks e with
  | none => s
  | some t =>
    if t.prunable (incOrreryOf (partOf s part) (TaskRec.inc t.r)) then pruneTask s part e
    else
      match readKernel s t.ctx part (TaskRec.entry t.r) with
      | .error c => dispatchFault (freeTask s part e) t.ctx part (some core) c (some e) (TaskRec.entry t.r)
      | .ok k =>
        match coreFits s core k with
        | none => s
        | some tiles =>
          let (s, id) := placeWave s core k tiles (taskSpec part e t)
          let s := giveRecords (aloneIn s id) e id t.recs
          let s := setDeque s part core ((dequeOf (partOf s part) core).dropLast)
          modTask s part e (fun t => { t with st := .running, core := some core, wave := some id })

/-! ### Node waves (R281) -/

/-- Node j's wave: the records popped and the registers of R26. -/
def nodeSpec (l j : Nat) (x : Launch) (nd : Node) (recs : List (List Byte)) (acq : Nat) : WaveSpec :=
  let p := recs.length
  let word (bs : List Byte) (k : Nat) : Word := BitVec.ofNat 32 (natOfBytes ((padTo nd.rsize bs).drop (4 * k) |>.take 4))
  { ctx := x.ctx, part := x.part, launch := l, wg := 0, widx := 0, kind := .node, bound := false, coop := false,
    prio := x.prio, pop := p, task := none, frame := 0, acq := acq,
    s := [(0, dw j), (1, dw p), (2, x.argb)],
    v := (List.range (nd.rsize / 4)).flatMap (fun k => vCol k p (fun i => word (recs.getD i []) k)), ep := [] }

/-- A node's record after a launch of its wave. -/
def launchedNode (s : State) (l j : Nat) (more : Bool) (live : Nat) : State :=
  { s with launches := SMap.adjust s.launches l (fun x =>
      { x with live := x.live + live,
               nodes := x.nodes.modify j (fun nd =>
                 { nd with last := some s.clock, due := false, pend := if more then some s.clock else none }) }) }

/-- A node's wave launched on a core, of a launch whose kernel is read (R281); a node's descriptor that faults takes its
records with it. A wave of no lane is never launched (R21). -/
def nodeWave (s : State) (core l j : Nat) (x : Launch) (nd : Node) : State :=
  let s := { s with launches := SMap.put s.launches l x }
  match readKernel s x.ctx x.part nd.desc with
  | .error c =>
    let s := (popRecords s x.ctx x.part core nd.qcw 32).st
    dispatchFault (launchedNode s l j (decide (0 < nodeCount s x nd)) 0) x.ctx x.part (some core) c none nd.desc
  | .ok k =>
    match coreFits s core k with
    | none => s
    | some tiles =>
      let r := popRecords s x.ctx x.part core nd.qcw 32
      if r.recs.isEmpty then r.st
      else
          let (s, id) := placeWave r.st core k tiles (nodeSpec l j x nd r.recs r.acq)
          let g := ((waveOf s id).map (·.word)).getD 0
          let s := r.pend.foldl (fun s cv =>
            makePending s id cv.1 { faddr := cv.2, fagent := if cv.1 = 0x14 then g else 0, lane := false, elpc := 0 }) s
          launchedNode (aloneIn s id) l j (decide (0 < nodeCount s x nd)) 1

/-- A node's wave launched on a core: the launch's own descriptor is read, checked and served before its first wave, which
this may be (R46, R47). -/
def launchNode (s : State) (core l j : Nat) : State :=
  match SMap.get? s.launches l with
  | none => s
  | some x0 =>
    match x0.read s with
    | .error c => rejectLaunch s l x0 c
    | .ok x =>
      if x.needAlloc then allocLaunch s l x
      else match x.nodes[j]? with
        | none => s
        | some nd => nodeWave s core l j x nd

/-! ### Episodes (R330, R389) -/

/-- An episode's wave: the architected record and the payload of each ray. -/
def episodeSpec (part : Nat) (p : Part) (fr : Nat) (fe : FrameEnt) (f : Formation) : WaveSpec :=
  let rays := f.rays.map (fun r => (SMap.get? p.rays r).getD (Ray.placeholder 0))
  let n := f.rays.length
  let lane (i : Nat) : Ray := rays.getD i (Ray.placeholder 0)
  { ctx := fe.ctx, part := part, launch := 0, wg := 0, widx := 0, kind := .episode, bound := false, coop := false,
    prio := fe.prio, pop := n, task := none, frame := BitVec.ofNat 16 fr, acq := rays.foldl (fun a r => Nat.max a r.pub) 0,
    s := [(0, dw (lane 0).shader), (1, dw fr), (2, fe.argb), (3, dw n)],
    v := (List.range 32).flatMap (fun k => vCol k n (fun i => (lane i).word k)),
    ep := (List.range n).map (fun i =>
      (i, { slot := f.rays.getD i 0, frame := BitVec.ofNat 16 (lane i).frame, depth := (lane i).depth,
            reserved := f.slots[i]?, cont := false })) }

/-- The rays of a formation whose dispatch faults end, as at a retirement without RCONT. -/
def dropFormation (s : State) (part i : Nat) (f : Formation) : State :=
  let s := modPart s part (fun p => { p with forms := p.forms.eraseIdx i })
  let s := f.rays.foldl (fun s r => freeSlot s part r) s
  f.slots.foldl (fun s r => freeSlot s part r) s

/-- A formation's wave placed on a core. -/
def startEpisode (s : State) (part core i : Nat) : State :=
  match (partOf s part).forms[i]? with
  | none => s
  | some f =>
    match formFrame (partOf s part) f with
    | none => s
    | some (fr, fe) =>
      match episodeKernel s part fe with
      | .error (c, va) => dispatchFault (dropFormation s part i f) fe.ctx part none c none va 6
      | .ok k =>
        match coreFits s core k with
        | none => s
        | some tiles =>
          let (s, id) := placeWave s core k tiles (episodeSpec part (partOf s part) fr fe f)
          let fs := ((f.rays.filterMap (SMap.get? (partOf s part).rays)).map (·.frame)).dedup
          modPart (aloneIn s id) part (fun p =>
            { p with
              forms := p.forms.eraseIdx i
              frames := fs.foldl (fun m k => SMap.adjust m k (fun fe => { fe with uids := id :: fe.uids })) p.frames })

/-! ### The steps -/

/-- An offer taken by a core, which it reaches as a wake message: a core that is off is powered up first (R319). -/
def takeOffer (s : State) (part core : Nat) (o : OfferOf) : State :=
  if !powered s core then wakeCore s core
  else
    let s := wakeCore s core
    match o with
    | .group l => groupStep s l
    | .node l j => launchNode s core l j
    | .episode i => startEpisode s part core i
    | .task e => dispatchTask s part core e

/-- WAVE_PLACE (R312): core n takes its best offer. -/
def execWavePlace (s : State) : Result :=
  .next (match bestOffer s s.target.n with
    | some (part, o) => takeOffer s part s.target.n o.what
    | none => s)

/-- DISPATCH (R312): core n dispatches the bottom entry of its deque, when no better offer stands. -/
def execDispatch (s : State) : Result :=
  .next (match bestOffer s s.target.n with
    | some (part, o) =>
      (match o.what with
       | .task e => takeOffer s part s.target.n (.task e)
       | _ => s)
    | none => s)

/-- NODE_WAVE_LAUNCH (R281): the lowest due node of launch n, when no better offer stands on its core;
a drained graph with empty queues completes. -/
def execNodeWaveLaunch (s : State) : Result :=
  .next (match SMap.get? s.launches s.target.n with
    | none => s
    | some x =>
      if x.nodes.isEmpty then s
      else if x.drained && x.nodes.all (fun nd => decide (nodeCount s x nd = 0)) then
        endLaunch (x.nodes.foldl (fun s nd =>
          if (slotAt s x.ctx x.part true nd.qcw 32).isOk then refillAll s x.ctx x.ctx x.part nd.qcw else s) s) s.target.n
      else
        let l := s.target.n
        let core := (coresOf (partOf s x.part)).find? (fun c =>
          match bestOffer s c with
          | some po => (match po.2.what with | .node k _ => decide (k = l) | _ => false)
          | none => false)
        match core with
        | none => s
        | some c =>
          match bestOffer s c with
          | some (part, o) => takeOffer s part c o.what
          | none => s)

/-- NODE_WAVE_TIMEOUT (R281): 2,048 cycles have passed for node k of launch n. -/
def execNodeWaveTimeout (s : State) : Result :=
  .next (match SMap.get? s.launches s.target.n with
    | none => s
    | some x =>
      match x.nodes[s.target.k]? with
      | none => s
      | some nd =>
        let start := match nd.last with | some t => some t | none => nd.pend
        if start.any (fun t => decide (t + 2048 ≤ s.clock)) && decide (0 < nodeCount s x nd) then
          let x := { x with nodes := x.nodes.modify s.target.k (fun nd => { nd with due := true }) }
          { s with launches := SMap.put s.launches s.target.n x }
        else s)

end Sys2Proof.Machine
end

