-- ==== Sys2Proof/Machine/Orrery.lean ====
section
/-! DEFINITION. The Orrery, the Finders and the power gates (17, R304, R310 to R314, R319; 19, R343 to
R345). -/

namespace Sys2Proof.Machine

/-! ### Admission (R310, R285) -/

/-- Input k of a record: its list entry, or the address that fails admission. -/
def inputAt (s : State) (part : Nat) (t : Task) (k : Nat) : Except DWord DWord :=
  let va := TaskRec.inputs t.r + dw (8 * k)
  match engQuads s t.ctx part false va 1 with
  | .error _ => .error va
  | .ok q => if zeroBits (q.getD 0 0) 63 57 then .ok (q.getD 0 0) else .error va

/-- The template an input names, if it can be read. -/
def inputTmpl (s : State) (part : Nat) (t : Task) (x : DWord) : Option (List DWord) :=
  if 4096 ≤ bits x 15 0 then none
  else match engQuads s t.ctx part true (t.tmpl + dw (128 * bits x 15 0)) 16 with
    | .ok q => some q
    | .error _ => none

/-- Whether an input queues a job: its template's shape is not empty (R304); one that cannot be read
queues a job, which ends with TINV. -/
def inputRuns : Option (List DWord) → Bool
  | some t => Tmpl.nx t * Tmpl.ny t * Tmpl.nz t != 0
  | none => true

/-- The cluster of a vault-window address of the partition. -/
def vaultCluster (s : State) (part : Nat) (va : DWord) : Option Nat :=
  if vaSpace va = 0xE && (vaDie va = 0xFFF || vaDie va = s.dieid.toNat) then (partOf s part).clusters[vaOff va / 2 ^ 25]?
  else none

/-- The cluster whose copy engine has the fewest jobs, the lowest on a tie. -/
def leastBusy (s : State) (part : Nat) : Nat :=
  match clustersOf (partOf s part) with
  | [] => 0
  | c :: l => l.foldl (fun b c => if jobsOn s c < jobsOn s b then c else b) c

/-- A task's home cluster (R285): of its allocation, else of the first input that fills B-slices, else
the least busy one. -/
def homeOf (s : State) (part : Nat) (al : Option Nat) (ts : List (Option (List DWord))) : Nat :=
  let p := partOf s part
  match al.bind (SMap.get? p.allocs) with
  | some a => p.clusters.getD a.vault 0
  | none =>
    match ts.findSome? (fun t => t.bind (fun t => if Tmpl.dkind t = 2 then vaultCluster s part (Tmpl.dbase t) else none)) with
    | some c => c
    | none => leastBusy s part

/-- The reservations an input needs: record, granules, role B. -/
def inputRecs (x : DWord) : Option (List DWord) → List (Nat × Nat × Bool)
  | none => []
  | some t =>
    if Tmpl.dkind t ≠ 1 then []
    else (Tmpl.drec t, bits x 56 49 + 1, x.getLsbD 48) :: (if Tmpl.codec t = 2 then [(Tmpl.mrec t, 1, false)] else [])

/-- Reservations made in order until one must wait: the state, those made, and whether all were. -/
def reserveAll (eng e : Nat) : State → List (Nat × Nat × Bool) → State × List (Nat × Nat) × Bool
  | s, [] => (s, [], true)
  | s, (o, gran, role) :: l =>
    let en := engineOf s eng
    if (SMap.get? en.recs o).isNone && decide (gran ≤ en.freeGran) then
      let r : Rec := { holder := none, task := some e, roleB := role, gran := gran, bytes := [], relp := none }
      let s := modEngine s eng (fun x => { x with recs := SMap.put x.recs o r })
      let (s, m, ok) := reserveAll eng e s l
      (s, (eng, o) :: m, ok)
    else (s, [], false)

/-- The channel with the fewest queued jobs, the lowest on a tie. -/
def leastChannel (s : State) (c : Nat) : Nat :=
  (List.range 16).foldl (fun b k => if (channelOf s c k).length < (channelOf s c b).length then k else b) 0

/-- A declared input's job queued (R285). -/
def queueInput (part e c : Nat) (t : Task) (s : State) (x : DWord) : State :=
  let ch := leastChannel s c
  let (s, uid) := freshId s
  let j : Job :=
    { uid := uid, value := dw (0xFFFF * 2 ^ 48 + bits x 47 16 * 2 ^ 16 + bits x 15 0), tmpl := t.tmpl, ctx := t.ctx,
      part := part, wave := none, task := some e, cmd := none, lane := false, elpc := 0, acq := t.jacq, race := t.race,
      begun := false, fields := [], invalid := false, fetched := false, parked := none, failed := [], allocs := [] }
  setChannel s c ch (channelOf s c ch ++ [j])

/-- Admission failed: the entry is removed and the context told (R310). -/
def admissionFail (s : State) (part e : Nat) (t : Task) (va : DWord) : State :=
  dispatchFault (removeTask s part e) t.ctx part none 0x07 (some e) va

/-- Admission of an entry with its allocation made: home, records, jobs, and the state it enters. -/
def admitInputs (s : State) (part e : Nat) (t : Task) (xs : List DWord) : State :=
  let ts := xs.map (inputTmpl s part t)
  let home := t.home.getD (homeOf s part t.alloc ts)
  let wants := ((xs.zip ts).flatMap (fun xt => inputRecs xt.1 xt.2)).drop t.recs.length
  let (s, made, ok) := reserveAll home e s wants
  let s := modTask s part e (fun t => { t with home := some home, recs := t.recs ++ made })
  let jobs := ((xs.zip ts).filter (fun xt => inputRuns xt.2)).map (·.1)
  if !ok || decide (256 < jobsOn s home + jobs.length) then s
  else
    let s := jobs.foldl (queueInput part e home t) s
    let count := t.count + jobs.length
    let s := modTask s part e (fun t => { t with st := .waiting, count := count, jobs := jobs.length })
    if count = 0 then readyTask s part e else s

/-- Admission of one entry (R310). -/
def startAdmission (s : State) (part e : Nat) (t : Task) : State :=
  let need := TaskRec.scratch t.r
  if scratchTooBig (partOf s part) need then admissionFail s part e t 0
  else
    match (List.range (TaskRec.nin t.r)).mapM (inputAt s part t) with
    | .error va => admissionFail s part e t va
    | .ok xs =>
      if need ≠ 0 && t.alloc.isNone then
        match allocScratch s part t.ctx need (TaskRec.argb t.r) with
        | none => s
        | some (s, id) =>
          let s := modTask s part e (fun t => { t with alloc := some id })
          admitInputs s part e { t with alloc := some id } xs
      else admitInputs s part e t xs

/-- The entry whose admission is under way: the earliest submitted that is Admitting. -/
def admitting (s : State) (part : Nat) : Option (Nat × Task) :=
  ((partOf s part).tasks.filter (fun et => et.2.st = .admitting && ctxRuns s et.2.ctx)).foldl
    (fun b et => match b with | some x => if et.2.seq < x.2.seq then some et else b | none => some et) none

/-- ADMISSION (R310): partition n. -/
def execAdmission (s : State) : Result :=
  .next (match admitting s s.target.n with
    | some (e, t) => startAdmission s s.target.n e t
    | none => s)

/-! ### Dealing (R311) -/

/-- Ready entries in the order of dealing: by priority, then by age. -/
def readyOrder (s : State) (part : Nat) : List (Nat × Task) :=
  sortBy (fun a b =>
      decide (TaskRec.prio b.2.r < TaskRec.prio a.2.r) ||
      (decide (TaskRec.prio a.2.r = TaskRec.prio b.2.r) && decide (a.2.seq ≤ b.2.seq)))
    ((partOf s part).tasks.filter (fun et => et.2.st = .ready && ctxRuns s et.2.ctx))

/-- The core an entry is dealt to, if one qualifies. -/
def dealCore (p : Part) (t : Task) : Option Nat :=
  let cores := if TaskRec.scratch t.r ≠ 0 || TaskRec.nin t.r ≠ 0 then clusterCores (t.home.getD 0) else coresOf p
  let room := (sortBy (fun a b => decide (a ≤ b)) cores).filter (fun c => decide ((dequeOf p c).length < 4))
  match room with
  | [] => none
  | c :: l => some (l.foldl (fun b c => if (dequeOf p c).length < (dequeOf p b).length then c else b) c)

/-- A grid entry passed to the distributor as a launch (R311). -/
def passGrid (s : State) (part e : Nat) (t : Task) : State :=
  let x : Launch :=
    { ctx := t.ctx, part := part, desc := TaskRec.entry t.r, k := KDesc.ofQuads [], n := TaskRec.lo t.r, w := TaskRec.hi t.r,
      coop := false, prio := TaskRec.prio t.r, argb := TaskRec.argb t.r, arg := TaskRec.arg t.r,
      groups := defaultGroups (TaskRec.hi t.r), next := 0, live := 0, since := s.clock, reserved := false, task := some e,
      cmd := none, alloc := none, needAlloc := false, nodes := [], cancelled := false, cancels := [] }
  let (s, l) := addLaunch s x
  modTask s part e (fun t => { t with st := .running, launch := some l })

/-- An entry dealt to the bottom of a core's deque. -/
def dealTo (s : State) (part e core : Nat) : State :=
  let s := wakeCore s core
  let s := setDeque s part core (dequeOf (partOf s part) core ++ [e])
  modTask s part e (fun t => { t with st := .dealt, core := some core, since := s.clock })

/-- DEAL (R311): partition n deals the first Ready entry for which some core qualifies. -/
def execDeal (s : State) : Result :=
  let part := s.target.n
  let grid (t : Task) : Bool := decide (TaskRec.kind t.r = 3)
  .next (match (readyOrder s part).find? (fun et => grid et.2 || (dealCore (partOf s part) et.2).isSome) with
    | none => s
    | some (e, t) =>
      if grid t then passGrid s part e t
      else match dealCore (partOf s part) t with
        | some c => dealTo s part e c
        | none => s)

/-! ### Finders (R313, R314) -/

/-- A step of a Finder's state. -/
def finderStep (x : BitVec 16) : BitVec 16 :=
  let x := x ^^^ (x <<< 7)
  let x := x ^^^ (x >>> 9)
  x ^^^ (x <<< 8)

/-- Whether a core is idle for its Finder: its deque is empty, and a slot and 8 rows are free. -/
def finderIdle (s : State) (part core : Nat) : Bool :=
  let ws := wavesOn s core
  (dequeOf (partOf s part) core).isEmpty && decide (ws.length < Config.slotsPerCore) &&
  decide (ws.foldl (fun n w => n + w.rows) 0 + 8 ≤ Config.rowsPerCore) && powered s core

/-- FINDER_PROBE (R313): the Finder of core n. -/
def execFinderProbe (s : State) : Result :=
  let core := s.target.n
  .next (match partAt s core with
    | none => s
    | some part =>
      let c := coreOf s core
      if !finderIdle s part core || c.probe.isSome || decide (s.clock < c.lastProbe + 64) then s
      else
        let x := finderStep c.finder
        let cs := sortBy (fun a b => decide (a ≤ b)) (coresOf (partOf s part))
        let v := cs.getD (x.toNat % cs.length) core
        let v := if v = core then cs.getD ((x.toNat + 1) % cs.length) core else v
        modCore s core (fun c => { c with finder := x, probe := some v, lastProbe := s.clock }))

/-- The entries of a deque that a probe finds: one that comes in the probe's own cycle enters after the steal
(Table 17-6). -/
def foundEntries (s : State) (part victim : Nat) : List Nat :=
  (dequeOf (partOf s part) victim).filter (fun e =>
    match SMap.get? (partOf s part).tasks e with | some t => decide (t.since < s.clock) | none => true)

/-- Whether the owner of a deque that holds one entry takes it in this cycle, before any probe (Table 17-6). -/
def ownerTakes (s : State) (part victim : Nat) : Bool :=
  match dequeOf (partOf s part) victim, bestOffer s victim with
  | [e], some (_, o) => o.what == .task e
  | _, _ => false

/-- The ⌈n/2⌉ oldest entries of a victim's deque moved; a pruned one is discarded. -/
def stealFrom (s : State) (part core victim : Nat) : State :=
  let d := dequeOf (partOf s part) victim
  let n := ((foundEntries s part victim).length + 1) / 2
  let s := setDeque s part victim (d.drop n)
  (d.take n).foldl (fun s e =>
    match SMap.get? (partOf s part).tasks e with
    | none => s
    | some t =>
      if t.prunable (incOrreryOf (partOf s part) (TaskRec.inc t.r)) then pruneTask s part e
      else
        let s := setDeque s part core (dequeOf (partOf s part) core ++ [e])
        modTask s part e (fun t => { t with core := some core, since := s.clock })) s

/-- The range task a probe may split: of the lowest slot on the victim with two iterations left. -/
def splitTask (s : State) (part victim : Nat) : Option (Nat × Task) :=
  let ws := sortBy (fun a b => decide (a.slotNo ≤ b.slotNo)) (wavesOn s victim)
  ws.findSome? (fun w =>
    match w.task with
    | none => none
    | some e =>
      match SMap.get? (partOf s part).tasks e with
      | some t => if TaskRec.kind t.r = 1 && decide (t.cur + 2 ≤ t.hi) then some (e, t) else none
      | none => none)

/-- A record with another interval. -/
def splitRecord (r : List DWord) (lo hi : Nat) : List DWord := r.set 4 (dw (lo + hi * 2 ^ 32))

/-- A running range task split: the new entry lies at the bottom of the prober's deque (R314). -/
def splitTo (s : State) (part core e : Nat) (t : Task) : State :=
  match freeEntry (partOf s part) with
  | none => s
  | some f =>
    let p := partOf s part
    let mid := t.cur + (t.hi - t.cur + 1) / 2
    let g := t.shares.getD p.seq
    let child : Task :=
      { t with st := .dealt, r := splitRecord t.r mid t.hi, count := 0, cur := mid, seq := p.seq, jobs := 0,
               core := some core, since := s.clock, wave := none, launch := none, shares := some g, killed := false }
    let s := modTask s part e (fun t => { t with hi := mid, shares := some g })
    let s := modPart s part (fun p => { p with seq := p.seq + 1, tasks := SMap.put p.tasks f child })
    let s := match t.alloc with | some a => modAlloc s part a (fun a => { a with users := a.users + 1 }) | none => s
    setDeque s part core (dequeOf (partOf s part) core ++ [f])

/-- PROBE_SERVE (R314): the probe of core n is served at its victim; a victim that is off wakes first. -/
def execProbeServe (s : State) : Result :=
  let core := s.target.n
  .next (match (coreOf s core).probe, partAt s core with
    | some v, some part =>
      if !powered s v then wakeCore s v
      else if ownerTakes s part v then s
      else
        let s := modCore (wakeCore s v) core (fun c => { c with probe := none })
        if !(foundEntries s part v).isEmpty then stealFrom s part core v
        else
          (match splitTask s part v with
           | some (e, t) => splitTo s part core e t
           | none => s)
    | _, _ => s)

/-! ### The sweep and the copies (R343, R345) -/

/-- A partition's sweep tests its next entry, if it has visited none in this cycle. -/
def sweepStep (s : State) (part : Nat) : State :=
  let p := partOf s part
  if p.sweepLeft = 0 || decide (s.clock < p.swept) then s
  else
    let e := p.sweepPos
    let s := modPart s part (fun p =>
      { p with sweepPos := (e + 1) % Config.taskEntries, sweepLeft := p.sweepLeft - 1, swept := s.clock + 1 })
    match SMap.get? p.tasks e with
    | none => s
    | some t =>
      if (t.st = .waiting || t.st = .ready || t.st = .dealt) && t.prunable (incOrreryOf p (TaskRec.inc t.r)) then
        pruneTask s part e
      else s

/-- SWEEP_VISIT (R345): partition n. -/
def execSweepVisit (s : State) : Result := .next (sweepStep s s.target.n)

/-- The copies of a partition that the bounds of R343 no longer let be behind take their incumbents' values. -/
def propagateDue (s : State) (part : Nat) : State :=
  (partOf s part).incSince.foldl (fun s kt =>
    let (i, core) := (kt.1 % 8, (kt.1 - 8) / 8)
    let x := incOf (partOf s part) i
    if kt.1 < 8 then (if kt.2 + 64 ≤ s.clock then setOrreryCopy s part i x else s)
    else if kt.2 + 1300 ≤ s.clock then setCoreCopy s part core i x else s) s

/-- INCUMBENT_PROPAGATE (R343): incumbent m of partition n reaches the Orrery's copy (k = 0) or the copy
of core k − 1. -/
def execIncumbentPropagate (s : State) : Result :=
  let t := s.target
  let p := partOf s t.n
  .next (if 8 ≤ t.m then s
    else if t.k = 0 then (if (SMap.get? s.parts t.n).isSome then setOrreryCopy s t.n t.m (incOf p t.m) else s)
    else if (coresOf p).contains (t.k - 1) then setCoreCopy s t.n (t.k - 1) t.m (incOf p t.m)
    else s)

/-! ### Power gates (R319) -/

/-- Whether a wake message stands for a core: an offer, or a probe. -/
def wakeStands (s : State) (core : Nat) : Bool :=
  (bestOffer s core).isSome || (SMap.vals s.cores).any (fun c => c.probe = some core)

/-- Whether a core is idle for gating. -/
def gateIdle (s : State) (core : Nat) : Bool :=
  (wavesOn s core).isEmpty && !wakeStands s core &&
  (match partAt s core with | some p => (dequeOf (partOf s p) core).isEmpty | none => true)

/-- CORE_GATE (R319): core n takes the next stage of gating; its entry takes a whole cycle, in which a wake message
wins (Table 17-6). -/
def execCoreGate (s : State) : Result :=
  let core := s.target.n
  .next (if 256 ≤ core || !gateIdle s core then s
    else
      match (coreOf s core).gate with
      | .on =>
        if (coreOf s core).idleSince + 65536 ≤ s.clock then
          modCore (writeThrough s core) core (fun c => { c with gate := .stage1 })
        else s
      | .stage1 => modCore s core (fun c => { c with gate := .entry, powerAt := s.clock })
      | .entry =>
        if (coreOf s core).powerAt < s.clock then modCore s core (fun c => { c with gate := .off, l1 := [], victims := [] })
        else s
      | _ => s)

/-- CORE_WAKE (R319): a wake message reaches core n, when an offer or a probe stands for it. -/
def execCoreWake (s : State) : Result :=
  let core := s.target.n
  .next (if wakeStands s core then wakeCore s core else s)

/-- CORE_POWER_UP (R319): core n's 512 cycles are past. -/
def execCorePowerUp (s : State) : Result :=
  let core := s.target.n
  .next (if (coreOf s core).gate = .waking && decide ((coreOf s core).powerAt ≤ s.clock) then
      modCore s core (fun c => { c with gate := .on, idleSince := s.clock })
    else s)

end Sys2Proof.Machine
end

