-- ==== Sys2Proof/Machine/Traverse.lean ====
section
/-! DEFINITION. Ray traversal (18, R326, R327): scene formats, the exact tests, and the hit. Coordinates
are integers in units of 2^−149, so every finite f32 is one; ray parameters are exact fractions. -/

namespace Sys2Proof.Machine

/-! ### Exact coordinates -/

/-- A vector of exact coordinates. -/
structure V3 where
  x : Int
  y : Int
  z : Int
  deriving DecidableEq, Repr

namespace V3
/-- Difference. -/
def sub (a b : V3) : V3 := { x := a.x - b.x, y := a.y - b.y, z := a.z - b.z }
/-- Inner product. -/
def dot (a b : V3) : Int := a.x * b.x + a.y * b.y + a.z * b.z
/-- Cross product. -/
def cross (a b : V3) : V3 :=
  { x := a.y * b.z - a.z * b.y, y := a.z * b.x - a.x * b.z, z := a.x * b.y - a.y * b.x }
end V3

/-- A finite f32 code as a multiple of 2^−149. -/
def exactF32 (c : Nat) : Option Int :=
  match FFmt.dec .f32 c with
  | .fin s m e => some ((if s then -1 else 1) * (m * 2 ^ (e + 149).toNat : Nat))
  | _ => none

/-- Three f32 codes as a vector, when all are finite. -/
def exactV3 (a b c : Nat) : Option V3 :=
  match exactF32 a, exactF32 b, exactF32 c with
  | some x, some y, some z => some { x := x, y := y, z := z }
  | _, _, _ => none

/-- A point of the extended line: a fraction with a positive denominator, or an end. -/
inductive Ext where
  | lo
  | hi
  | q (n : Int) (d : Nat)
  deriving DecidableEq, Repr

namespace Ext
/-- Order. -/
def le : Ext → Ext → Bool
  | .lo, _ => true
  | _, .hi => true
  | .q a b, .q c d => decide (a * d ≤ c * b)
  | _, _ => false
/-- Larger of two. -/
def max (a b : Ext) : Ext := if a.le b then b else a
/-- Smaller of two. -/
def min (a b : Ext) : Ext := if a.le b then a else b
/-- An f32 code; NaN is no point. -/
def ofF32 (unit : Nat) (c : Nat) : Option Ext :=
  match FFmt.dec .f32 c with
  | .nan => none
  | .inf neg => some (if neg then .lo else .hi)
  | .fin .. => (exactF32 c).map (fun n => .q n unit)
end Ext

/-- The parameters at which a line meets a slab on one axis: none when it never does. -/
def slab (o d : Int) (lo hi : Ext) : Option (Ext × Ext) :=
  if d = 0 then
    if lo.le (.q o 1) && (Ext.q o 1).le hi then some (.lo, .hi) else none
  else
    let at_ (b : Ext) : Ext :=
      match b with
      | .q n k => if 0 < d then .q (n - o * k) (d.natAbs * k) else .q (o * k - n) (d.natAbs * k)
      | .lo => if 0 < d then .lo else .hi
      | .hi => if 0 < d then .hi else .lo
    if 0 < d then some (at_ lo, at_ hi) else some (at_ hi, at_ lo)

/-- A ray in one space. -/
structure TRay where
  o : V3
  d : V3
  tmin : Ext
  tmax : Ext
  cullb : Bool
  deriving DecidableEq, Repr

/-- Whether some real parameter of the ray puts it in a closed box given by six f32 codes (R327). -/
def boxMet (r : TRay) (b : List Nat) : Bool :=
  let axis (k : Nat) (o d : Int) : Option (Ext × Ext) :=
    match Ext.ofF32 1 (b.getD k 0), Ext.ofF32 1 (b.getD (3 + k) 0) with
    | some lo, some hi => slab o d lo hi
    | _, _ => none
  match axis 0 r.o.x r.d.x, axis 1 r.o.y r.d.y, axis 2 r.o.z r.d.z with
  | some x, some y, some z =>
    let a := Ext.max r.tmin (Ext.max x.1 (Ext.max y.1 z.1))
    let c := Ext.min r.tmax (Ext.min x.2 (Ext.min y.2 z.2))
    a.le c && a != .hi && c != .lo
  | _, _, _ => false

/-- A hit: t, u and v as numerators over one positive denominator, and what was hit. -/
structure THit where
  den : Nat
  t : Int
  u : Int
  v : Int
  inst : Nat
  prim : Nat
  shader : Nat
  deriving DecidableEq, Repr

/-- The test of a triangle: three vertices and the names it would report (R327). A triangle with a vertex
that is not finite is never hit. -/
def triHit (r : TRay) (v0 v1 v2 : V3) (inst prim shader : Nat) : Option THit :=
  let e1 := v1.sub v0
  let e2 := v2.sub v0
  let p := r.d.cross e2
  let det := e1.dot p
  if det = 0 || (r.cullb && decide (det < 0)) then none
  else
    let s := r.o.sub v0
    let q := s.cross e1
    let sg : Int := if det < 0 then -1 else 1
    let h : THit :=
      { den := det.natAbs, t := sg * e2.dot q, u := sg * s.dot p, v := sg * r.d.dot q, inst := inst, prim := prim,
        shader := shader }
    if 0 ≤ h.u && 0 ≤ h.v && decide (h.u + h.v ≤ h.den) && r.tmin.le (.q h.t h.den) && (Ext.q h.t h.den).le r.tmax then some h
    else none

/-! ### Reads of the scene -/

/-- Where a frame's scene lies, whose translation reads it, and the treelet cache that holds what was read (R325). -/
structure Scene where
  ctx : Nat
  part : Nat
  cache : List Treelet
  node : DWord
  tri : DWord
  inst : DWord
  deriving DecidableEq, Repr

/-- The treelet an address lies in. -/
def treeletOf (va : DWord) : DWord := va &&& ~~~ 4095

/-- A treelet of a cache. -/
def cachedTreelet (l : List Treelet) (ctx : Nat) (addr : DWord) : Option Treelet :=
  l.find? (fun t => t.ctx = ctx && t.addr = addr)

/-- Bytes of the scene, from the treelet cache where it holds them, or the cause and address of the first that cannot be
read. -/
def sceneRead (s : State) (sc : Scene) (va : DWord) (n : Nat) : Except (Nat × DWord) (List Byte) :=
  (List.range n).foldlM (fun l i =>
    let x := va + dw i
    match cachedTreelet sc.cache sc.ctx (treeletOf x) with
    | some t => .ok (l ++ [SMap.getD t.bytes (x.toNat % 4096) 0])
    | none =>
      match engRead s sc.ctx sc.part false x 1 with
      | .ok bs => .ok (l ++ bs)
      | .error c => .error (c, x)) []

/-- A 32-bit field of bytes. -/
def field32 (bs : List Byte) (off : Nat) : Nat := natOfBytes ((bs.drop off).take 4)
/-- A 16-bit field of bytes. -/
def field16 (bs : List Byte) (off : Nat) : Nat := natOfBytes ((bs.drop off).take 2)

/-- What a walk gives: its hits in the order found, the reads that faulted, the treelets of the nodes it read, and those of
all that it read. -/
structure Walked where
  hits : List THit
  faults : List (Nat × DWord)
  nodes : List DWord
  reads : List DWord
  deriving DecidableEq, Repr

/-- Nothing found. -/
def Walked.none : Walked := { hits := [], faults := [], nodes := [], reads := [] }

/-- A read of `n` bytes of the scene made. -/
def Walked.ofRead (va : DWord) (n : Nat) : Walked :=
  { Walked.none with reads := [treeletOf va, treeletOf (va + dw (n - 1))].dedup }

/-- One walk after another. -/
def Walked.cat (l : List Walked) : Walked :=
  { hits := l.flatMap (·.hits), faults := l.flatMap (·.faults), nodes := l.flatMap (·.nodes), reads := l.flatMap (·.reads) }

/-- The triangles of a list (R326): those hit, and those that could not be read. -/
def walkTris (s : State) (sc : Scene) (r : TRay) (first count : Nat) (inst shader : Option Nat) : Walked :=
  Walked.cat ((List.range count).map (fun k =>
    let va := sc.tri + dw (48 * (first + k))
    match sceneRead s sc va 48 with
    | .error f => { Walked.none with faults := [f] }
    | .ok bs =>
      let v (j : Nat) : Option V3 := exactV3 (field32 bs (12 * j)) (field32 bs (12 * j + 4)) (field32 bs (12 * j + 8))
      match v 0, v 1, v 2 with
      | some a, some b, some c =>
        let h := triHit r a b c (inst.getD 0xFFFFFFFF) (field32 bs 36) (shader.getD (field16 bs 40))
        { Walked.ofRead va 48 with hits := h.toList }
      | _, _, _ => Walked.ofRead va 48))

/-- A component of a matrix row times a vector, and a translation, rounded once to f32 (R327). -/
def objComp (bs : List Byte) (row : Nat) (x y z : Nat) (shift : Bool) : Nat :=
  let m (k : Nat) : FVal := FFmt.dec .f32 (field32 bs (16 * row + 4 * k))
  let term (k c : Nat) : FVal := (mulVal (m k) (FFmt.dec .f32 c)).1
  (roundVal .f32 .rne (addVals .rne ([term 0 x, term 1 y, term 2 z] ++ (if shift then [m 3] else []))).1).code

/-- A ray's origin and direction as f32 codes, with its other fields. -/
structure CRay where
  o : List Nat
  d : List Nat
  tmin : Ext
  tmax : Ext
  cullb : Bool
  deriving DecidableEq, Repr

/-- The ray in exact coordinates, when it is finite. -/
def CRay.exact (r : CRay) : Option TRay :=
  match exactV3 (r.o.getD 0 0) (r.o.getD 1 0) (r.o.getD 2 0), exactV3 (r.d.getD 0 0) (r.d.getD 1 0) (r.d.getD 2 0) with
  | some o, some d => some { o := o, d := d, tmin := r.tmin, tmax := r.tmax, cullb := r.cullb }
  | _, _ => none

/-- A ray in an instance's space. -/
def CRay.into (r : CRay) (bs : List Byte) : CRay :=
  let at_ (v : List Nat) (shift : Bool) : List Nat :=
    (List.range 3).map (fun k => objComp bs k (v.getD 0 0) (v.getD 1 0) (v.getD 2 0) shift)
  { r with o := at_ r.o true, d := at_ r.d false }

/-- The walk from a reference: `inst` and `shader` are an instance's, none at top level; a node that its
own subtree names again is not entered twice on one path, so the fuel, one more than the nodes there are,
is never used up. -/
def walkRef (s : State) (sc : Scene) : Nat → CRay → List Nat → Option Nat → Option Nat → Nat → Walked
  | 0, _, _, _, _, _ => Walked.none
  | fuel + 1, r, path, inst, shader, ref =>
    match r.exact with
    | none => Walked.none
    | some x =>
      let idx := ref % 2 ^ 29
      match ref / 2 ^ 29 with
      | 1 =>
        if path.contains idx then Walked.none
        else
          let va := sc.node + dw (256 * idx)
          match sceneRead s sc va 256 with
          | .error f => { Walked.none with faults := [f] }
          | .ok bs =>
            Walked.cat ({ Walked.ofRead va 256 with nodes := (Walked.ofRead va 256).reads } ::
              ((List.range 8).filter (fun c => boxMet x ((List.range 6).map (fun k => field32 bs (24 * c + 4 * k))))).map
                (fun c => walkRef s sc fuel r (idx :: path) inst shader (field32 bs (192 + 4 * c))))
      | 2 => walkTris s sc x (idx % 2 ^ 24) (idx / 2 ^ 24 + 1) inst shader
      | 3 =>
        if inst.isSome then Walked.none
        else
          let va := sc.inst + dw (64 * idx)
          match sceneRead s sc va 64 with
          | .error f => { Walked.none with faults := [f] }
          | .ok bs =>
            let root := field32 bs 48
            if root / 2 ^ 29 = 1 || root / 2 ^ 29 = 2 then
              Walked.cat [Walked.ofRead va 64, walkRef s sc fuel (r.into bs) [] (some (field32 bs 56)) (some (field16 bs 52)) root]
            else Walked.ofRead va 64
      | _ => Walked.none

/-- More than the nodes of the top level and of an instance together. -/
def walkFuel : Nat := 2 ^ 30 + 4

/-! ### The hit (R327) -/

/-- Whether a hit is nearer than another: by t, then INST, then PRIM. -/
def THit.before (a b : THit) : Bool :=
  let x := a.t * b.den
  let y := b.t * a.den
  decide (x < y) || (decide (x = y) && (decide (a.inst < b.inst) || (decide (a.inst = b.inst) && decide (a.prim ≤ b.prim))))

/-- The hit recorded: the nearest, or with ANY one of those found, which one the spec leaves open
(log 6). -/
def chooseHit (any : Bool) (pick : Nat) : List THit → Option THit
  | [] => none
  | h :: l => if any then (h :: l)[pick % (h :: l).length]? else some (l.foldl (fun b x => if b.before x then b else x) h)

/-- A fraction rounded to a format. -/
def fracTo (f : FFmt) (n : Int) (d : Nat) : Nat := (fpDiv f .rne (.fin (decide (n < 0)) n.natAbs 0) (.fin false d 0)).code

/-- A record with its hit fields and shader written. -/
def Ray.hit (r : Ray) (h : THit) : Ray :=
  let w9 := r.word 9 ||| BitVec.twoPow 32 24
  let w11 := BitVec.ofNat 16 h.shader ++ (r.word 11).extractLsb' 0 16
  ((((((r.put 9 w9).put 11 w11).put 12 (BitVec.ofNat 32 (fracTo .f32 h.t h.den))).put 13 (BitVec.ofNat 32 h.prim)).put 14
    (BitVec.ofNat 32 h.inst)).put 15 (BitVec.ofNat 32 (fracTo .f16 h.u h.den + 2 ^ 16 * fracTo .f16 h.v h.den)))

/-- A record that missed. -/
def Ray.missed (r : Ray) (shader : Nat) : Ray :=
  let w9 := r.word 9 &&& ~~~ BitVec.twoPow 32 24
  let w11 := BitVec.ofNat 16 shader ++ (r.word 11).extractLsb' 0 16
  (((((r.put 9 w9).put 11 w11).put 12 0).put 13 0).put 14 0).put 15 0

/-- A ray as traversal sees it; none when TMAX is below TMIN, or one of them is NaN. -/
def Ray.codes (r : Ray) : Option CRay :=
  let c (k : Nat) : Nat := (r.word k).toNat
  match Ext.ofF32 (2 ^ 149) (c 6), Ext.ofF32 (2 ^ 149) (c 7) with
  | some a, some b =>
    if a.le b then
      some { o := [c 0, c 1, c 2], d := [c 3, c 4, c 5], tmin := a, tmax := b, cullb := r.cullb }
    else none
  | _, _ => none

/-- The traversal of a ray of a frame at a unit whose treelet cache is given: the record as it leaves, and the walk. -/
def traverse (s : State) (part : Nat) (f : FrameEnt) (cache : List Treelet) (r : Ray) (pick : Nat) : Ray × Walked :=
  let sc : Scene := { ctx := f.ctx, part := part, cache := cache, node := f.q 0, tri := f.q 1, inst := f.q 2 }
  match r.codes with
  | none => (r.missed f.miss, Walked.none)
  | some c =>
    let w := walkRef s sc walkFuel c [] none none f.root.toNat
    match chooseHit r.any pick w.hits with
    | some h => (r.hit h, w)
    | none => (r.missed f.miss, w)

end Sys2Proof.Machine
end

