-- ==== Sys2Proof/Machine/Coelostat.lean ====
section
/-! DEFINITION. The Coelostat's own steps (18, R324, R329, R330, R333): batches, traversal, formation, the
jam rule, spilled rays, the drain of a frame. -/

namespace Sys2Proof.Machine

/-- An agent word of the Coelostat. -/
def coelostatWord (s : State) : DWord := agentWord 6 s.dieid.toNat 0 0

/-! ### Traversal (R327, R329) -/

/-- The rays queued at a traversal unit. -/
def unitLoad (p : Part) (c : Nat) : Nat :=
  p.rays.countP (fun sr => match sr.2.loc with | .traversal u _ _ => decide (u = c) | _ => false)

/-- The traversal unit that receives a batch: the one with the fewest rays, lowest cluster first. -/
def leastUnit (p : Part) : Nat :=
  match clustersOf p with
  | [] => 0
  | c :: l => l.foldl (fun b c => if unitLoad p c < unitLoad p b then c else b) c

/-- Whether a bin holds traversal rays. -/
def isTraversal (p : Part) (b : Nat) : Bool := match SMap.get? p.bins b with | some x => !x.shade | none => false

/-- The treelets in the cache of a unit's vault (R321). -/
def treeletsAt (p : Part) (u : Nat) : List Treelet := SMap.getD p.treelets u []

/-- A treelet as memory holds it, if all of it can be read. -/
def loadTreelet (s : State) (ctx part : Nat) (addr : DWord) : Option Treelet :=
  match engRead s ctx part false addr 4096 with
  | .ok bs => some { ctx := ctx, addr := addr, bytes := ((List.range 4096).zip bs).filter (fun kb => kb.2 ≠ 0) }
  | .error _ => none

/-- Treelets of a context read into the cache of a unit's vault, the oldest falling out of a full one. -/
def fillTreelets (s : State) (part ctx u : Nat) (addrs : List DWord) : State :=
  let p := partOf s part
  let have_ := treeletsAt p u
  let new := if p.t = 0 then [] else
    (addrs.dedup.filter (fun a => (cachedTreelet have_ ctx a).isNone)).filterMap (loadTreelet s ctx part)
  if new.isEmpty then s
  else
    let all := have_ ++ new
    modPart s part (fun p => { p with treelets := SMap.put p.treelets u (all.drop (all.length - 256 * p.t)) })

/-- The batch of a bin dealt: up to 64 of its oldest rays go to the unit with the fewest; a prefetch that
has landed left its treelet in the cache. -/
def dealBatch (s : State) (part b : Nat) (prefetched : Bool) : State :=
  let u := leastUnit (partOf s part)
  let s := match prefetched, (SMap.get? (partOf s part).bins b).bind (·.treelet) with
    | true, some t => fillTreelets s part (t / 2 ^ 52) u [dw (t % 2 ^ 52 * 4096)]
    | _, _ => s
  modPart s part (fun p =>
    let batch := (raysIn p b).take 64
    { p with
      raySeq := p.raySeq + 1
      rays := batch.foldl (fun m sr => SMap.put m sr.1 { sr.2 with loc := .traversal u b p.raySeq, since := s.clock }) p.rays
      bins := SMap.adjust p.bins b (fun x => { x with since64 := none, batch := p.raySeq, fresh := true }) })

/-- TRAVERSAL_BATCH_DEAL (R329): bin k of partition n holds 64 rays and its prefetch, if any, has landed. -/
def execTraversalBatchDeal (s : State) : Result :=
  let (n, k) := (s.target.n, s.target.k)
  .next (if isTraversal (partOf s n) k && decide (64 ≤ (raysIn (partOf s n) k).length) then dealBatch s n k true else s)

/-- TRAVERSAL_BIN_TIMEOUT (R329): the oldest ray of bin k of partition n has waited 512 cycles; a bin of 64
rays waits for its prefetch (Table 18-6). -/
def execTraversalBinTimeout (s : State) : Result :=
  let (n, k) := (s.target.n, s.target.k)
  .next (match raysIn (partOf s n) k with
    | (a, r) :: l =>
      if isTraversal (partOf s n) k && decide (r.since + 512 ≤ s.clock) && decide (((a, r) :: l).length < 64) then
        dealBatch s n k false
      else s
    | [] => s)

/-- PREFETCH_TIMEOUT (R329): 256 cycles after bin k of partition n reached 64 rays. -/
def execPrefetchTimeout (s : State) : Result :=
  let (n, k) := (s.target.n, s.target.k)
  .next (if isTraversal (partOf s n) k && decide (64 ≤ (raysIn (partOf s n) k).length) &&
      (((SMap.get? (partOf s n).bins k).bind (·.since64)).any (fun t => decide (t + 256 ≤ s.clock))) then dealBatch s n k false
    else s)

/-- What a walk of a ray of a batch read enters the unit's cache (R325); the first node treelet that the bin's last batch
misses is remembered (R329). -/
def noteTreelets (s : State) (part ctx u b batch : Nat) (w : Walked) : State :=
  let have_ := treeletsAt (partOf s part) u
  let miss := w.nodes.find? (fun a => (cachedTreelet have_ ctx a).isNone)
  modPart (fillTreelets s part ctx u w.reads) part (fun p =>
    match miss with
    | some a =>
      { p with bins := SMap.adjust p.bins b (fun x =>
          if x.fresh && x.batch = batch && !x.shade then
            { x with treelet := some (ctx * 2 ^ 52 + a.toNat / 4096), fresh := false }
          else x) }
    | none => p)

/-- TRAVERSAL_DONE (R327): the ray in slot k of partition n leaves traversal and is filed by its shader. -/
def execTraversalDone (s : State) : Result :=
  let (n, k) := (s.target.n, s.target.k)
  .next (match SMap.get? (partOf s n).rays k with
    | none => s
    | some r =>
      match r.loc, SMap.get? (partOf s n).frames r.frame with
      | .traversal u b batch, some f =>
        let (r', w) := traverse s n f (treeletsAt (partOf s n) u) r (Config.freeWord s.free).toNat
        let s := if r.any then { s with free := s.free + 1 } else s
        let g := agentWord 8 s.dieid.toNat u 0
        let s := w.faults.foldl (fun s cv =>
          postCause s f.ctx n
            { code := cv.1, imp := true, await := false, task := none, faddr := cv.2, fagent := g, access := 0, agent := g }) s
        fileRay (noteTreelets s n f.ctx u b batch w) n k r' true r'.shader
      | _, _ => s)

/-! ### Shading waves (R330) -/

/-- The rays a shading bin would give a wave: its oldest, and of an overflow bin only those that share
the oldest one's shader. -/
def shadingRays (p : Part) (b : Nat) : List (Nat × Ray) :=
  match raysIn p b with
  | [] => []
  | x :: l => if b = overflowBin true then (x :: l).filter (fun y => y.2.shader = x.2.shader) else x :: l

/-- Whether a bin holds shading rays. -/
def isShading (p : Part) (b : Nat) : Bool := match SMap.get? p.bins b with | some x => x.shade | none => false

/-- Up to `n` free slots set aside. -/
def collectSlots (ctx : Nat) : Nat → Part → Part × List Nat
  | 0, p => (p, [])
  | n + 1, p =>
    match takeSlot p (p.clusters.getD 0 0) with
    | none => (p, [])
    | some k =>
      let (p, l) := collectSlots ctx n { p with rays := SMap.put p.rays k (Ray.placeholder ctx) }
      (p, k :: l)

/-- A formation of a bin's oldest rays, up to 32, which begins to collect its slots. -/
def formWave (s : State) (part b : Nat) : State :=
  modPart s part (fun p =>
    let rs := (shadingRays p b).take 32
    let p := { p with rays := rs.foldl (fun m sr => SMap.put m sr.1 { sr.2 with loc := .held }) p.rays }
    let (p, slots) := collectSlots ((rs.map (·.2.ctx)).headD 0) rs.length p
    { p with forms := p.forms ++ [{ bin := b, rays := rs.map (·.1), slots := slots, since := s.clock, jam := false }] })

/-- SHADING_WAVE_FORM (R330): bin k of partition n holds 32 rays. -/
def execShadingWaveForm (s : State) : Result :=
  let (n, k) := (s.target.n, s.target.k)
  .next (if isShading (partOf s n) k && decide (32 ≤ (shadingRays (partOf s n) k).length) then formWave s n k else s)

/-- SHADING_BIN_TIMEOUT (R330): the oldest ray of bin k of partition n has waited 2,048 cycles. -/
def execShadingBinTimeout (s : State) : Result :=
  let (n, k) := (s.target.n, s.target.k)
  .next (match shadingRays (partOf s n) k with
    | (_, r) :: _ => if isShading (partOf s n) k && decide (r.since + 2048 ≤ s.clock) then formWave s n k else s
    | [] => s)

/-! ### The jam rule (R333) -/

/-- The bytes of a ray record. -/
def Ray.bytes (r : Ray) : List Byte := (List.range 32).flatMap (fun k => bytesOf 4 (r.word k).toNat)

/-- Where the next spilled ray of a frame goes. -/
def spillAddr (f : FrameEnt) (i : Nat) : DWord := f.q 5 + dw (128 * (i % f.spillN))

/-- Whether a frame's spill area takes a ray. -/
def spillOpen (f : FrameEnt) : Bool := !f.spillFull && decide (f.spill.length < f.spillN)

/-- The first byte of a write that would fault, with its cause. -/
def spillFault (s : State) (ctx part : Nat) (va : DWord) : Option (Nat × DWord) :=
  (List.range 128).findSome? (fun i => (engCheck s ctx part false (va + dw i) 1).map (fun c => (c, va + dw i)))

/-- A ray moved to its frame's spill area, where its `seq` is its order among the spilled ones: none when it stays where
it is. -/
def spillRay (s : State) (part slot : Nat) (r : Ray) : State × Bool :=
  match SMap.get? (partOf s part).frames r.frame with
  | none => (s, false)
  | some f =>
    if !spillOpen f then (s, false)
    else
      let va := spillAddr f f.spillNext
      match spillFault s f.ctx part va with
      | some (c, x) =>
        let g := coelostatWord s
        let s := modFrame s part r.frame (fun f => { f with spillFull := true })
        (postCause s f.ctx part
          { code := c, imp := false, await := false, task := none, faddr := x, fagent := g, access := 1, agent := g }, false)
      | none =>
        let s := engWrite s f.ctx part false va r.bytes
        let k := (partOf s part).raySeq
        let s := modPart s part (fun p => { p with raySeq := k + 1 })
        let s := modFrame s part r.frame (fun f =>
          { f with spill := f.spill ++ [(f.spillNext, { r with seq := k })], spillNext := f.spillNext + 1,
                   spilled := satAdd f.spilled 1 0xFFFFFFFF })
        (freeSlot s part slot, true)

/-- The first ray of a list that can be moved, moved. -/
def spillFirst (part : Nat) : State → List (Nat × Ray) → State × Bool
  | s, [] => (s, false)
  | s, x :: l =>
    match spillRay s part x.1 x.2 with
    | (s, true) => (s, true)
    | (s, false) => spillFirst part s l

/-- The fullest traversal bin, the lowest on a tie. -/
def fullestBin (p : Part) : Option Nat :=
  let bs := (p.bins.filter (fun kb => !kb.2.shade)).map (·.1)
  match bs.filter (fun b => !(raysIn p b).isEmpty) with
  | [] => none
  | b :: l => some (l.foldl (fun a b => if (raysIn p a).length < (raysIn p b).length then b else a) b)

/-- Whether a spawn lane or a formation has waited for the 4,096 cycles. -/
def waitedLong (clock since : Nat) : Bool := decide (since + 4096 ≤ clock)

/-- The oldest spawn lane that waits. -/
def oldestSpawn (p : Part) : Option Nat := p.spawns.findIdx? (fun x => x.granted.isNone && !x.discarded)

/-- The oldest formation that waits. -/
def oldestForm (p : Part) : Option Nat := p.forms.findIdx? (fun f => !f.ready)

/-- What the jam rule does when no ray can be moved: the oldest spawn lane is discarded if it waited throughout, and
otherwise the oldest formation forms. -/
def jamGiveUp (s : State) (part : Nat) : State :=
  let p := partOf s part
  match (oldestSpawn p).bind (fun i => ((p.spawns[i]?).filter (fun x => waitedLong s.clock x.since)).map (fun x => (i, x))) with
  | some (i, x) =>
    dropRay (modPart s part (fun p => { p with spawns := p.spawns.modify i (fun x => { x with discarded := true }) })) part x.frame
  | none =>
    match oldestForm p with
    | some i => modPart s part (fun p => { p with forms := p.forms.modify i (fun f => { f with jam := true }) })
    | none => s

/-- Whether the jam rule acts (R333): no free slot for 4,096 cycles, and a claimant that waited throughout. -/
def jammed (s : State) (part : Nat) : Bool :=
  let p := partOf s part
  p.fullSince.any (waitedLong s.clock) &&
  (((oldestSpawn p).bind (p.spawns[·]?)).any (fun x => waitedLong s.clock x.since) ||
   ((oldestForm p).bind (p.forms[·]?)).any (fun f => waitedLong s.clock f.since))

/-- JAM_RULE (R333): one ray of partition n is spilled, newest first from the bin that was fullest when the
rule began to act, or nothing can be moved. -/
def execJamRule (s : State) : Result :=
  let n := s.target.n
  let p := partOf s n
  .next (if p.jamLeft = 0 && !jammed s n then s
    else
      let b := if p.jamLeft = 0 then (fullestBin p).getD 0 else p.jamBin
      let left := if p.jamLeft = 0 then 64 else p.jamLeft
      let rs := if isTraversal p b then (raysIn p b).reverse else []
      match spillFirst n s rs with
      | (t, true) => modPart t n (fun p => { p with jamLeft := left - 1, jamBin := b })
      | (t, false) => modPart (if p.jamLeft = 0 then jamGiveUp t n else t) n (fun p => { p with jamLeft := 0 }))

/-- The ray that was spilled first, with its frame (log 98). -/
def oldestSpilled (p : Part) : Option (Nat × FrameEnt × Nat × Ray) :=
  (p.frames.filterMap (fun kf => (kf.2.spill.head?).map (fun x => (kf.1, kf.2, x.1, x.2)))).foldl
    (fun b x => match b with | some y => if x.2.2.2.seq < y.2.2.2.seq then some x else b | none => some x) none

/-- ECC that the Coelostat meets at a frame's memory, told to the frame's context (R15, R256). -/
def coelostatEcc (s : State) (part ctx : Nat) (va : DWord) (access : Nat) : State :=
  let g := coelostatWord s
  postCause s ctx part
    { code := 0x14, imp := true, await := false, task := none, faddr := va, fagent := g, access := access, agent := g }

/-- A spilled record as the spill area holds it; one that cannot be read is as it was spilled (log 98). -/
def refillRay (s : State) (part : Nat) (f : FrameEnt) (i : Nat) (r : Ray) : State × Ray :=
  match engRead s f.ctx part false (spillAddr f i) 128 with
  | .ok bs =>
    (s, { r with words := (List.range 32).foldl (fun m k => SMap.write 0 m k (BitVec.ofNat 32 (field32 bs (4 * k)))) [] })
  | .error c => (if c = 0x14 then coelostatEcc s part f.ctx (spillAddr f i) 0 else s, r)

/-- SPILL_RETURN (R333): the oldest spilled ray of partition n returns to its bin while 64 slots are free. -/
def execSpillReturn (s : State) : Result :=
  let n := s.target.n
  let p := partOf s n
  .next (if freeSlots p < 64 then s
    else
      match oldestSpilled p, takeSlot p (p.clusters.getD 0 0) with
      | some (fr, f, i, r), some slot =>
        let s := modFrame s n fr (fun f => { f with spill := f.spill.drop 1 })
        let (s, r) := refillRay s n f i r
        enterTraversal s n slot r
      | _, _ => s)

/-! ### The drain (R324, R247) -/

/-- The status fields of a frame's descriptor. -/
def frameStatus (f : FrameEnt) (done : Bool) : List Byte :=
  bytesOf 8 f.rays ++ bytesOf 4 f.dcap ++ bytesOf 4 f.spilled ++ bytesOf 4 f.drop ++ bytesOf 4 (if done then 1 else 0)

/-- Whether every job that a frame's episodes started is done (R247). -/
def episodesDone (s : State) (f : FrameEnt) : Bool := !f.uids.any (fun id => copiesOut s id || cardsOut s id)

/-- FRAME_DRAIN (R324): frame k of partition n, whose count is 0 and whose episodes' accesses are performed: status,
release of all that they accessed, signal, and the frame command completes. -/
def execFrameDrain (s : State) : Result :=
  let (n, k) := (s.target.n, s.target.k)
  .next (match SMap.get? (partOf s n).frames k with
    | none => s
    | some f =>
      if frameCount s n k ≠ 0 || !episodesDone s f then s
      else
        let s := match engPut s f.ctx n false (f.addr + 88) (frameStatus f true) with
          | .ok t => t
          | .error c => if c = 0x14 then coelostatEcc s n f.ctx (f.addr + 88) 1 else s
        let (s, num) := publishAll s (0 :: f.uids) n
        let s := if f.sigen then signalTask s n f.sigTask num else s
        let s := modPart s n (fun p => { p with frames := SMap.del p.frames k })
        match f.cmd with
        | some c => completeCmd s f.ctx c 0 0
        | none => s)

end Sys2Proof.Machine
end

