-- ==== Sys2Proof/Machine/Meridian.lean ====
section
/-! DEFINITION. Requests from other dies (R214), the Meridian's order of SC operations (R240), and the
route table (R381). -/

namespace Sys2Proof.Machine

/-- The location of each byte of an access made at a home slice, or its cause; 0x06 is V = 0. -/
def homePlaces (s : State) (ctx part : Nat) (write : Bool) (va : DWord) (n : Nat) : Except Nat (List Loc) :=
  (List.range n).foldlM (fun ls i =>
    match locate s ctx part false write (va + dw i) with
    | .ok (.aperture _) => .error 0x07
    | .ok l => .ok (ls ++ [l])
    | .trap c => .error c
    | .page => .error 0x06) []

/-- Bytes written at their locations by an agent that the race detector does not check, which leaves no
writer there (R244). -/
def putPlaces (s : State) (ls : List Loc) (bs : List Byte) : State :=
  let quiet : Agent := { uid := 0, word := 0, ctx := 0, part := 0, core := 0, slot := 0, race := false, acq := 0 }
  (ls.zip bs).foldl (fun s lb => noteAccess (homeWrite s lb.1 [lb.2]) quiet lb.1 true) s

/-- Whether every codec value that locations touch is finite (R232). -/
def placesFinite (s : State) (ls : List Loc) : Bool := ls.all (fun l => codecFinite s l 1)

/-- An access served at the home slice, without the race detector: the state, or the cause it meets. -/
def homeServe (s : State) (ctx part : Nat) (va : DWord) (n : Nat) (k : AccKind) : Except Nat State :=
  let write := match k with | .load => false | _ => true
  match homePlaces s ctx part write va n with
  | .error c => .error c
  | .ok ls =>
    let reads := match k with | .store _ => false | _ => true
    let codec (l : Loc) : Bool := match l with | .codec .. => true | _ => false
    if ls.any (fun l => (reads || codec l) && homeEcc s l 1) then .error 0x14
    else
      let old := natOfBytes (ls.flatMap (fun l => homeRead s l 1))
      let new : Option Nat := match k with
        | .load => none
        | .store d => some d.toNat
        | .atomic aop d => if aop.toNat ≤ 12 then atomWrite aop.toNat n old d.toNat 0 else none
      let filled := ls.foldl homeFill s
      match new with
      | none => .ok filled
      | some x =>
        let t := putPlaces filled ls (bytesOf n x)
        if placesFinite t ls then .ok t else .error 0x0B

/-- The partition that a request of a context is checked against. -/
def ctxPart (s : State) (ctx : Nat) : Nat := (ctxOf s ctx).part

/-- A request of another die performed: one that faults changes nothing here, and is answered so (R214). -/
def serveRemote (s : State) (r : RemoteReq) : State :=
  match homeServe s r.ctx.toNat (ctxPart s r.ctx.toNat) r.va r.size.bytes r.kind with
  | .ok t => t
  | .error _ => s

/-- Whether an address is one that another die asks this one for: in space 0 or 1 of this die. -/
def remoteHere (s : State) (va : DWord) : Bool := decide (vaSpace va ≤ 1) && decide (vaDie va = s.dieid.toNat)

/-- Whether an address is one that a push of another die may name: in the vault window of this die (R271). -/
def pushHere (s : State) (va : DWord) : Bool := vaSpace va == 0xE && decide (vaDie va = s.dieid.toNat)

/-- REMOTE_REQUEST (R214, R271): a push, or an access; served at once, but an SC access takes a ticket of the anchor's
Meridian, and waits for lower ones (R240). -/
def execRemoteRequest (r : RemoteReq) (s : State) : Result :=
  .next (match r.push with
    | some (gen, bs) => if pushHere s r.va then arrivingPush s r.ctx.toNat (ctxPart s r.ctx.toNat) r.va gen bs else s
    | none =>
    if !remoteHere s r.va then s
    else if !r.sc || s.anchor != s.dieid then serveRemote s r
    else
      let part := ctxPart s r.ctx.toNat
      let n := (partOf s part).tickets + 1
      let s := modPart s part (fun p => { p with tickets := n })
      if (partOf s part).scq.isEmpty then serveRemote s r
      else modPart s part (fun p => { p with scq := p.scq ++ [{ n := n, wave := none, lane := false, req := some r }] }))

/-- The ticket that a partition's Meridian performs next. -/
def nextTicket (p : Part) : Option Ticket :=
  p.scq.foldl (fun b t => match b with | none => some t | some x => if t.n < x.n then some t else b) none

/-- A wave whose lane or scalar stream asked the anchor die for its turn has it (R240; log 17). -/
def grantPod (lane : Bool) (w : Wave) : Wave :=
  let w' : Wave := { w with status := if w.status = .waiting then .ready else w.status }
  if scPod w lane ≠ some false then w
  else if lane then { w' with lane := { w.lane with pod := some true } }
  else { w' with pod := some true }

/-- SC_OPERATION_PERFORM (R240): the lowest ticket of partition n. A request of another die is performed;
a wave that waited with its ticket may go on, and performs its operation as its next move. With k > 0, it is the anchor
die's answer to wave k, which asked for a ticket of pod scope for its scalar stream (m = 0) or its lane stream. -/
def execScOperationPerform (s : State) : Result :=
  let n := s.target.n
  .next (if s.target.k ≠ 0 then modWave s s.target.k (grantPod (s.target.m ≠ 0))
    else match nextTicket (partOf s n) with
    | none => s
    | some t =>
      match t.req, t.wave with
      | some r, _ => serveRemote (modPart s n (fun p => { p with scq := p.scq.filter (fun x => x.n ≠ t.n) })) r
      | none, some w => modWave s w (fun x => if x.status = .waiting then { x with status := .ready } else x)
      | none, none => modPart s n (fun p => { p with scq := p.scq.filter (fun x => x.n ≠ t.n) }))

/-- What a row of the route table gives (R381). -/
def Route.to (r : Route) : RouteTo :=
  { chip := r.chip.toNat, addr := r.addr, flow := r.flow,
    ends := r.ends.foldl (fun m e => SMap.put m e.1.toNat e.2) [] }

/-- ROUTE_TABLE_PROGRAM (R381, R240): the chip, fabric address and flow of each DIE value, the fabric addresses of its
endpoints, and the anchor die. -/
def execRouteTableProgram (rows : List Route) (anchor : BitVec 12) (s : State) : Result :=
  .next { s with routes := rows.foldl (fun m r => SMap.put m r.die.toNat (Route.to r)) s.routes, anchor := anchor }

/-- The fabric address of an endpoint, which the route table gives for its die and CTX (R374). -/
def endpointAddress (s : State) (die ctx : Nat) : Option DWord := (SMap.get? s.routes die).bind (fun r => SMap.get? r.ends ctx)

end Sys2Proof.Machine
end

