-- ==== Sys2Proof/Machine/Commands.lean ====
section
/-! DEFINITION. The Jenrid commands that start, signal and stop work, answer faults and restart rings
(22, Table 22-3; 02, R28 to R31; 15, R279; 17, R306 to R309; 18, R323). Payload bits that Table 22-3 does
not describe must be 0, but in quadwords it does not list (log 20). -/

namespace Sys2Proof.Machine

/-- NOP: its payload is ignored (Table 22-3). -/
def execNop (h : Hdr) (s : State) : Result := .next (applied s h 0x0000 true (fun s _ => s))

/-- CTXCFG (R101, R294, R353); the spill area starts at a multiple of 64 (Table 06-7). -/
def execCtxcfg (h : Hdr) (handler lbase rt spill w6 tmpl : BitVec 64) (s : State) : Result :=
  .next (applied s h 0x0001 (zeroBits w6 63 32 && decide (bits w6 31 0 % 64 = 0)) (fun s ctx =>
    modCtx s ctx (fun c =>
      { c with handler := handler, hlbase := lbase, rt := rt, spillB := spill &&& ~~~ 63, spillQ := bits w6 31 0, tmpl := tmpl })))

/-! ### Launches -/

/-- The sets of a group table, read whole; none when it cannot be read or its address is no multiple of
128 (R31). -/
def readGroups (s : State) (ctx part : Nat) (va : DWord) (n : Nat) : Option (List (BitVec 1024)) :=
  if !zeroBits va 6 0 then none
  else match engRead s ctx part false va (128 * n) with
    | .error _ => none
    | .ok bs => some ((List.range n).map (fun g => BitVec.ofNat 1024 (natOfBytes ((bs.drop (128 * g)).take 128))))

/-- Whether group sets are valid for workgroups of `w` waves (R30). -/
def groupsOk (w : Nat) (l : List (BitVec 1024)) : Bool :=
  decide (l.length ≤ 256) && l.all (fun m => decide (m.toNat < 2 ^ w)) &&
  (List.range w).all (fun i => decide (l.countP (fun m => m.getLsbD i) ≤ 4))

/-- A launch's group table: the one it names, or that of R30. -/
def launchGroups (s : State) (ctx part w n : Nat) (va : DWord) : Option (List (BitVec 1024)) :=
  if n = 0 then some (defaultGroups w)
  else if 256 < n then none
  else (readGroups s ctx part va n).filter (groupsOk w)

/-- A grid launch accepted, with the nodes of its graph, or none when a check fails (R28, R30, R31); those that need the
kernel are made when its first wave is to be placed (R47). -/
def acceptLaunch (s : State) (ctx n : Nat) (desc argb w4 groups : DWord) (nodes : List Node) : Option State :=
  let part := (ctxOf s ctx).part
  let w := bits w4 41 32 + 1
  match launchGroups s ctx part w (bits w4 54 46) groups with
  | some sets =>
    if sizeBad (bits w4 31 0) w (w4.getLsbD 42) then none
    else some (addLaunch (nodes.foldl (fun s nd => nameQcw s part nd.qcw) s)
      { ctx := ctx, part := part, desc := desc, k := KDesc.ofQuads [], n := bits w4 31 0, w := w, coop := w4.getLsbD 42, prio := bits w4 45 43,
        argb := argb, arg := 0, groups := sets, next := 0, live := 0, since := s.clock, reserved := false, task := none,
        cmd := some n, alloc := none, needAlloc := false, nodes := nodes, cancelled := false,
        cancels := [] }).1
  | none => none

/-- LAUNCH (R25, R28, R31): it completes when its last wave retires. -/
def execLaunch (h : Hdr) (desc argb w4 groups : BitVec 64) (s : State) : Result :=
  .next (command s h 0x0002 false (zeroBits w4 63 55) (fun s ctx n =>
    (acceptLaunch s ctx n desc argb w4 groups []).getD (completeCmd s ctx n 6 0)))

/-- Whether an address names a 32-byte control word in the scratchpad of one of the partition's vaults (R11, R267). -/
def inScratch (s : State) (part : Nat) (va : DWord) : Bool :=
  vaSpace va == 0xE && (vaDie va == 0xFFF || vaDie va == s.dieid.toNat) && zeroBits va 4 0 &&
  decide (vaOff va / 2 ^ 25 < (partOf s part).clusters.length) &&
  decide (scratchBase (partOf s part) ≤ vaOff va % 2 ^ 25) && decide (vaOff va % 2 ^ 25 + 32 ≤ Config.vaultBytes)

/-- Entry i of a node table (R279), or none where it breaks its limits; its QCW lies in the partition's
scratchpad (R13, R267), which may be the allocation that the graph is still to receive. -/
def readNode (s : State) (ctx part : Nat) (va : DWord) (i : Nat) : Option Node :=
  match engQuads s ctx part false (va + dw (32 * i)) 4 with
  | .error _ => none
  | .ok q =>
    let size := bits (q.getD 2 0) 7 0
    let qcw := q.getD 1 0
    if zeroBits (q.getD 2 0) 63 8 && q.getD 3 0 == 0 && decide (4 ≤ size) && decide (size ≤ 64) &&
       decide (size % 4 = 0) && inScratch s part qcw &&
       decide (size ≤ elemBytes (qcwOf s ctx part qcw).esize)
    then some { desc := q.getD 0 0, qcw := qcw, rsize := size, last := none, pend := none, due := false }
    else none

/-- The nodes of a node table. -/
def readNodes (s : State) (ctx part : Nat) (va : DWord) (n : Nat) : Option (List Node) :=
  (List.range n).mapM (readNode s ctx part va)

/-- GRAPH (R279, R281): it completes when the graph does. -/
def execGraph (h : Hdr) (desc argb w4 groups nodes w7 : BitVec 64) (s : State) : Result :=
  .next (command s h 0x0003 false
    (zeroBits w4 63 55 && zeroBits w7 63 7 && decide (1 ≤ bits w7 6 0) && decide (bits w7 6 0 ≤ 64))
    (fun s ctx n =>
      ((readNodes s ctx (ctxOf s ctx).part nodes (bits w7 6 0)).bind
        (acceptLaunch s ctx n desc argb w4 groups)).getD (completeCmd s ctx n 6 0)))

/-- The launch that a context's command of a sequence number made. -/
def launchOfSeq (s : State) (ctx : Nat) (seq : DWord) : Option Nat :=
  (s.launches.find? (fun lx => decide (lx.2.ctx = ctx) &&
    (match lx.2.cmd.bind (SMap.get? (ctxOf s ctx).cmds) with | some c => c.seq == seq | none => false))).map (·.1)

/-- A launch stopped: it places nothing more and its waves retire; the CANCEL completes with it (R378). -/
def cancelOf (s : State) (l n : Nat) : State :=
  let s := { s with launches := SMap.adjust s.launches l (fun x => { x with cancelled := true, cancels := x.cancels ++ [n] }) }
  match SMap.get? s.launches l with
  | some x => if x.live = 0 then endLaunch s l else s
  | none => s

/-- CANCEL of a launch, named by its command's SEQ; one that has retired is cancelled already (R378, R384). -/
def execCancelLaunch (h : Hdr) (w2 seq : BitVec 64) (s : State) : Result :=
  .next (command s h 0x0006 false (w2 == 0) (fun s ctx n =>
    match launchOfSeq s ctx seq with
    | some l => cancelOf s l n
    | none => completeCmd s ctx n 0 0))

/-! ### Tasks -/

/-- TASK: as TSUBMIT of the record (R306), with VALUE as its sd. -/
def execTask (h : Hdr) (r0 r1 r2 r3 r4 r5 r6 r7 : BitVec 64) (s : State) : Result :=
  let r := [r0, r1, r2, r3, r4, r5, r6, r7]
  .next (command s h 0x0004 false (!TaskRec.invalid r) (fun s ctx n =>
    let part := (ctxOf s ctx).part
    let (s, num) := publishCo s part
    match freeEntry (partOf s part) with
    | none => completeCmd s ctx n 0 (BitVec.ofNat 128 (2 ^ 64 - 1))
    | some e =>
      completeCmd (submitTask s part ctx 0 num false ((ctxOf s ctx).tmpl &&& ~~~ 127) r e) ctx n 0 (BitVec.ofNat 128 e)))

/-- SIGNAL: as TSIGNAL (R307). -/
def execSignal (h : Hdr) (idx w3 : BitVec 64) (s : State) : Result :=
  .next (applied s h 0x0005 (zeroBits idx 63 16 && w3 == 0) (fun s ctx =>
    let part := (ctxOf s ctx).part
    let (s, num) := publishCo s part
    signalTask s part idx.toNat num))

/-- CANCEL of a task: as TCANCEL (R309). -/
def execCancelTask (h : Hdr) (w2 idx : BitVec 64) (s : State) : Result :=
  .next (applied s h 0x0006 (w2 == 1 && zeroBits idx 63 16) (fun s ctx => cancelEntry s (ctxOf s ctx).part idx.toNat))

/-! ### Frames, copies, FENCE -/

/-- Whether the descriptor of a frame passes the checks of R323 on its fields. -/
def frameFieldsOk (d : List DWord) : Bool :=
  let cell := fieldOf d 511 480
  fieldOf d 703 677 == 0 && !f32Neg cell && f32Abs cell != 0 && f32Finite cell &&
  fieldOf d 7 0 == 0 && fieldOf d 195 192 == 0 && fieldOf d 326 320 == 0

/-- The descriptor at an address, when FRAME may open it (R323). -/
def frameDesc (s : State) (ctx : Nat) (va : DWord) : Option (List DWord) :=
  let part := (ctxOf s ctx).part
  match engQuads s ctx part false va 16 with
  | .error _ => none
  | .ok d =>
    if frameFieldsOk d && (SMap.get? (partOf s part).frames (fieldOf d 623 608)).isNone then some d else none

/-- A frame opened (R323): its status fields are 0, and the treelet cache is flushed when asked. -/
def openFrame (s : State) (ctx n : Nat) (va : DWord) (d : List DWord) : State :=
  let part := (ctxOf s ctx).part
  let f : FrameEnt :=
    { addr := va, ctx := ctx, d := d, cmd := some n, gate := (SMap.get? (partOf s part).tasks (fieldOf d 655 640)).isSome,
      rays := 0, dcap := 0, drop := 0, spilled := 0, spill := [], spillNext := 0, spillFull := false, pub := 0, uids := [] }
  let s := engWrite s ctx part false (va + 88) (frameStatus f false)
  modPart s part (fun p =>
    { p with frames := SMap.put p.frames (fieldOf d 623 608) f, treelets := if f.flush then [] else p.treelets })

/-- FRAME (R323): it waits, unparsed, while 256 frames are open, and completes at the drain. -/
def execFrame (h : Hdr) (desc w3 : BitVec 64) (s : State) : Result :=
  let ctx := h.ctx.toNat
  .next (match frameDesc s ctx desc with
    | none => command s h 0x0007 false false (fun s _ _ => s)
    | some d =>
      if decide (256 ≤ (partOf s (ctxOf s ctx).part).frames.length) && w3 == 0 then s
      else command s h 0x0007 false (w3 == 0) (fun s ctx n => openFrame s ctx n desc d))

/-- A copy job of the front end's (Table 22-3, COPY). -/
def Job.ofCommand (s : State) (uid : Nat) (v : DWord) (ctx n : Nat) : Job :=
  { Job.fresh uid v { wave := 0, ctx := ctx, part := (ctxOf s ctx).part, lane := false, elpc := 0,
                      tmpl := (ctxOf s ctx).tmpl &&& ~~~ 127, acq := 0, race := false } with
    wave := none, cmd := some n }

/-- COPY (R284, R292): it waits, unparsed, while its channel is full, and completes with its job. -/
def execCopy (h : Hdr) (start off : BitVec 64) (s : State) : Result :=
  let part := (ctxOf s h.ctx.toNat).part
  let ok := decide (off.toNat < 0x40000) && apertureOk s part off.toNat
  .next (if ok && !apRoom s part off.toNat then s
    else command s h 0x0009 false ok (fun s ctx n =>
      let (c, ch) := apChannel s part off.toNat
      let (s, uid) := freshId s
      setChannel s c ch (channelOf s c ch ++ [Job.ofCommand s uid start ctx n])))

/-- FENCE (R377): it completes when every earlier command of its ring has, at COMMAND_COMPLETE. -/
def execFenceCommand (h : Hdr) (s : State) : Result := .next (command s h 0x000A true true (fun s _ _ => s))

/-! ### Answers to faults (R215, R379) -/

/-- A parked wave with its answer: resume sets a lane instruction back at the head of its queue with its
unfinished lanes, and a scalar one to execute again; the wave stays parked until that is done (R35). -/
def answerPark (w : Wave) (p : Park) (fail : Bool) : Wave :=
  if fail then { w with park := some { p with st := .fail } }
  else
    let lane := match p.lane with
      | some e => { w.lane with q := e :: w.lane.q }
      | none => w.lane
    { w with park := some { p with st := .replay }, lane := lane }

/-- A parked stream with its answer. -/
def answerStream (id : Nat) (va : DWord) (fail : Bool) (x : Stream) : Stream :=
  if x.parked = some id then { x with parked := none, failed := if fail then va.toNat :: x.failed else x.failed } else x

/-- A wave with an answer to its own park, or to a stream's. -/
def answerWave (ctx id : Nat) (va : DWord) (fail : Bool) (w : Wave) : Wave :=
  if w.ctx ≠ ctx then w
  else
    let w : Wave := { w with streams := w.streams.map (fun gx => (gx.1, answerStream id va fail gx.2)) }
    match w.park with
    | some p => if p.id = id && p.st = .await then answerPark w p fail else w
    | none => w

/-- A parked operation with its answer. -/
def answerRun (ctx id : Nat) (va : DWord) (fail : Bool) (r : MRun) : MRun :=
  if r.op.ctx = ctx && r.parked = some id then
    { r with parked := none, failed := if fail then va.toNat :: r.failed else r.failed }
  else r

/-- A parked job with its answer. -/
def answerJob (ctx id : Nat) (va : DWord) (fail : Bool) (j : Job) : Job :=
  if j.ctx = ctx && j.parked = some id then
    { j with parked := none, failed := if fail then va.toNat :: j.failed else j.failed }
  else j

/-- A parked card with its answer. -/
def answerCard (ctx id : Nat) (va : DWord) (fail : Bool) (c : Card) : Card :=
  if c.ctx = ctx && c.parked = some id then
    { c with parked := none, failed := if fail then va.toNat :: c.failed else c.failed }
  else c

/-- An image with an answer to what it holds (R384). -/
def answerImage (ctx id : Nat) (va : DWord) (fail : Bool) (i : Image) : Image :=
  { i with waves := i.waves.map (answerWave ctx id va fail), runs := i.runs.map (answerRun ctx id va fail) }

/-- An engine with an answer to its operations. -/
def answerEngine (ctx id : Nat) (va : DWord) (fail : Bool) (e : Engine) : Engine :=
  { e with run := e.run.map (answerRun ctx id va fail), susp := e.susp.map (answerRun ctx id va fail) }

/-- The answer to a fault ID applied to whatever parked with it. -/
def answerAll (s : State) (ctx id : Nat) (va : DWord) (fail : Bool) : State :=
  { s with
    w := answerWave ctx id va fail s.w
    waves := s.waves.map (fun kw => (kw.1, answerWave ctx id va fail kw.2))
    channels := s.channels.map (fun kj => (kj.1, kj.2.map (answerJob ctx id va fail)))
    cards := s.cards.map (fun kc => (kc.1, answerCard ctx id va fail kc.2))
    engines := s.engines.map (fun ke => (ke.1, answerEngine ctx id va fail ke.2))
    images := s.images.map (fun ki => (ki.1, answerImage ctx id va fail ki.2)) }

/-- FAULTANS: an ID that awaits no answer is rejected (R379). -/
def answerCommand (h : Hdr) (id w3 : DWord) (fail : Bool) (s : State) : State :=
  statused s h 0x0010 (zeroBits w3 63 1) (fun s ctx =>
    (SMap.get? (ctxOf s ctx).awaits id.toNat).map (fun va =>
      modCtx (answerAll s ctx id.toNat va fail) ctx (fun c => { c with awaits := SMap.del c.awaits id.toNat })))

/-- FAULTANS, resume (R215). -/
def execFaultansResume (h : Hdr) (id w3 : BitVec 64) (s : State) : Result := .next (answerCommand h id w3 false s)

/-- FAULTANS, fail (R215). -/
def execFaultansFail (h : Hdr) (id w3 : BitVec 64) (s : State) : Result := .next (answerCommand h id w3 true s)

/-! ### Rings (R376, R384) -/

/-- RINGRST: the halt of an endpoint of the partition is cleared, at a new HEAD and SEQ. -/
def execRingrst (h : Hdr) (w2 head seq w5 : BitVec 64) (s : State) : Result :=
  let _ := w5
  .next (statused s h 0x0013 (zeroBits w2 63 16 && zeroBits head 63 32) (fun s ctx =>
    let c := w2.toNat
    if (partOf s (ctxOf s ctx).part).eps.contains c then
      some (modCtx (descWrite s c 20 4 head.toNat) c (fun x =>
        { x with halted := false, tail := BitVec.ofNat 32 head.toNat, nextSeq := seq }))
    else none))

/-- RING_HALT (R376): the packet at HEAD of endpoint n fails a check: the ring halts with an error
completion, and HEAD stays. -/
def execRingHalt (s : State) : Result :=
  let ctx := s.target.n
  .next (match ringNext s ctx with
    | .bad st =>
      let c : Cmd :=
        { seq := packetQ s ctx 1, opc := (packetQ s ctx 0).extractLsb' 0 16, off := BitVec.ofNat 32 (headOf s ctx),
          fence := false, done := true, status := BitVec.ofNat 16 st, value := 0 }
      modCtx s ctx (fun x =>
        { x with halted := true, nextCmd := x.nextCmd + 1, cmds := SMap.put x.cmds x.nextCmd c,
                 doneQ := x.doneQ ++ [x.nextCmd] })
    | _ => s)

end Sys2Proof.Machine
end

