-- ==== Sys2Proof/Machine/Mapping.lean ====
section
/-! DEFINITION. Mapping commands, migration and codec pages as commands and devices reach them (11, R213,
R216; 14, R252, R257 to R263). -/

namespace Sys2Proof.Machine

/-! ### Tables -/

/-- This die's table of a context (R211). -/
def tableOf (s : State) (ctx : Nat) : Tables := SMap.getD (ctxOf s ctx).tables s.dieid.toNat { base := none, view := [] }

/-- The chip number of this die. -/
def chipOf (s : State) : Nat := ((SMap.get? s.routes s.dieid.toNat).map (·.chip)).getD s.chip.toNat

/-- What a table gives for an offset. -/
def tableWalk (s : State) (t : Tables) (off : Nat) : Xlat :=
  match t.base with
  | none => .absent
  | some b => walk t.view (chipOf s) off b walkLevels

/-- The indexes, ascending, of the entries of a table of `n` that memory lists as not 0. -/
def entryIdx (m : Memory) (table n : Nat) : List Nat :=
  (m.filter (fun kb => decide (table ≤ kb.1) && decide (kb.1 < table + 8 * n))).foldl (fun l kb =>
    let i := (kb.1 - table) / 8
    if l.getLast? = some i then l else l ++ [i]) []

/-- An entry of a table. -/
def entryOf (m : Memory) (table i : Nat) : DWord := dw (memNat m (table + 8 * i) 8)

/-- Whether an entry points to a table. -/
def isPointer (e : DWord) : Bool := e.getLsbD 0 && !e.getLsbD 1 && pointerOk e

/-- The codec leaves of a table: their page numbers and entries, ascending (R252). -/
def codecLeaves (s : State) (t : Tables) : List (Nat × DWord) :=
  match t.base with
  | none => []
  | some b =>
    (entryIdx t.view b 512).flatMap (fun i =>
      let e := entryOf t.view b i
      if !isPointer e then [] else
      (entryIdx t.view (entryPa e) 512).flatMap (fun j =>
        let e := entryOf t.view (entryPa e) j
        if !isPointer e then [] else
        (entryIdx t.view (entryPa e) 512).filterMap (fun k =>
          let e := entryOf t.view (entryPa e) k
          if e.getLsbD 0 && e.getLsbD 1 && leafOk (chipOf s) true e && entryKind e = 1
          then some ((i * 512 + j) * 512 + k, e) else none)))

/-- The leaf that a leaf key stands for in a table. -/
def leafEntry (s : State) (t : Tables) (leaf : Nat) : Xlat := tableWalk s t (leaf % 2 ^ 27 * 2 ^ 21)

/-- The codec leaves of a context of which something is kept. -/
def keptLeaves (s : State) (ctx : Nat) : List Nat :=
  ((SMap.keys s.clines).map (· / 2 ^ 15) ++ SMap.keys s.ccounts).filter (fun l => decide (l / 2 ^ 27 = ctx))

/-- Whether two translations are codec leaves of one budget (R261). -/
def sameCodec (a b : Xlat) : Bool :=
  match a, b with
  | .leaf e true, .leaf f true => entryKind e == 1 && entryKind f == 1 && bits e 9 7 == bits f 9 7
  | _, _ => false

/-- The dirty L1 bytes of a context written home, through its table as it stands. -/
def flushCtx (s : State) (ctx : Nat) : State :=
  (SMap.keys s.cores).foldl (fun s c =>
    (SMap.keys (coreOf s c).l1).foldl (fun s k => if keyCtx k = ctx then writeThroughLine s c k else s) s) s

/-- A context's table replaced: the lines of codec leaves whose entry changes are encoded under the old entry, and the
counters of those that are created anew are dropped (R259, R263); a leaf of the same budget keeps its counters, wherever its
page now lies (log 112). No treelet read through the old table stays. -/
def retable (s : State) (ctx : Nat) (t : Tables) : State :=
  let old := tableOf s ctx
  if t = old then s
  else
    let s := (keptLeaves s ctx).foldl (fun s l =>
      let a := leafEntry s old l
      let b := leafEntry s t l
      let s := if a = b then s else codecFlush s l
      if sameCodec a b then s else { s with ccounts := SMap.del s.ccounts l }) s
    let s := modPart s (ctxOf s ctx).part (fun p =>
      { p with treelets := p.treelets.map (fun ut => (ut.1, ut.2.filter (fun x => x.ctx ≠ ctx))) })
    modCtx s ctx (fun c => { c with tables := SMap.put c.tables s.dieid.toNat t })

/-- The tables of contexts replaced by those that memory, changed by a command, gives (R213): stores accepted through the
old entries are performed first; none when it would make a 4,097th codec leaf valid (R252). -/
def replaceTables (s : State) (put : Memory → Memory) (table : Nat → Memory → Tables) : Option State :=
  let cs := SMap.keys s.contexts
  let s := cs.foldl flushCtx s
  let m := put s.mem
  let count (f : Nat → Tables) : Nat := cs.foldl (fun n c => n + (codecLeaves s (f c)).length) 0
  let new (c : Nat) : Tables := table c m
  if 4096 < count new && count (tableOf s) < count new then none
  else some (cs.foldl (fun s c => retable s c (new c)) { s with mem := m })

/-- A table whose walks see an entry written, where this die has it at all: every walk of the die sees what a command
names (R213). -/
def Tables.named (t : Tables) (addr : Nat) (e : DWord) : Tables :=
  if t.base.isNone then t else { t with view := memPutNat t.view addr 8 e.toNat }

/-- MAP, set table base (R211, R213): walks see the tables as they then stand in memory (log 21). -/
def execMapSetTableBase (h : Hdr) (w2 base w4 w5 : BitVec 64) (s : State) : Result :=
  let _ := w5
  .next (statused s h 0x0008 (w2 == 0 && w4 == 0) (fun s ctx =>
    replaceTables s (fun m => m) (fun c m => if c = ctx then { base := some base.toNat, view := m } else tableOf s c)))

/-- MAP, write entry (R213, R263): the entry of a table at a physical address, the only one that the command names, for
every context that walks it. -/
def execMapWriteEntry (h : Hdr) (w2 addr entry w5 : BitVec 64) (s : State) : Result :=
  let _ := w5
  .next (statused s h 0x0008 (w2 == 1) (fun s _ =>
    replaceTables s (fun m => memPutNat m addr.toNat 8 entry.toNat) (fun c _ => (tableOf s c).named addr.toNat entry)))

/-! ### Migration (R216) -/

/-- The address of the leaf that a walk ends at. -/
def walkAddr (view : Memory) (off : Nat) : Nat → List (Nat × Nat) → Nat
  | table, [] => table
  | table, (lo, n) :: ls =>
    let at_ := table + 8 * (off / 2 ^ lo % 2 ^ n)
    let e : DWord := dw (memNat view at_ 8)
    if e.getLsbD 1 then at_ else walkAddr view off (entryPa e) ls

/-- An entry with another physical address. -/
def withPa (e pa : DWord) : DWord := (e &&& ~~~ 0x0FFFFFFFFFFFF000) ||| (pa &&& 0x0FFFFFFFFFFFF000)

/-- The leaf of a page that a migration may move to an address: its entry and size class. -/
def migratable (s : State) (ctx : Nat) (page pa : DWord) : Option (DWord × Bool) :=
  if !(decide (vaSpace page ≤ 1) && (vaDie page = s.dieid.toNat || (vaSpace page = 0 && vaDie page = 0xFFF))) then none
  else
    match tableWalk s (tableOf s ctx) (vaOff page) with
    | .leaf e big => if zeroBits pa 63 60 && zeroBits pa 11 0 && leafOk (chipOf s) big (withPa e pa) then some (e, big) else none
    | _ => none

/-- MAP, migrate (R216): the move itself is MIGRATION, with which the command completes. -/
def execMapMigrate (h : Hdr) (w2 page pa w5 : BitVec 64) (s : State) : Result :=
  let _ := w5
  .next (command s h 0x0008 false (w2 == 2) (fun s ctx n =>
    match migratable s ctx page pa with
    | none => completeCmd s ctx n 6 0
    | some _ => modCtx s ctx (fun c => { c with migrations := c.migrations ++ [(page, pa, n)] })))

/-- Memory with `n` bytes copied from one key on to another. -/
def memMove (m : Memory) (src dst n : Nat) : Memory :=
  (m.filter (fun kb => decide (src ≤ kb.1) && decide (kb.1 < src + n))).foldl (fun d kb => SMap.put d (kb.1 - src + dst) kb.2)
    (m.filter (fun kb => !(decide (dst ≤ kb.1) && decide (kb.1 < dst + n))))

/-- Granule records that follow a page to its new place. -/
def moveGrans (g : SMap Gran) (src dst n : Nat) : SMap Gran :=
  (g.filter (fun kg => decide (src / 16 ≤ kg.1) && decide (kg.1 < (src + n) / 16))).foldl
    (fun d kg => SMap.put d (kg.1 - src / 16 + dst / 16) kg.2)
    (g.filter (fun kg => !(decide (dst / 16 ≤ kg.1) && decide (kg.1 < (dst + n) / 16)) &&
      !(decide (src / 16 ≤ kg.1) && decide (kg.1 < (src + n) / 16))))

/-- The page of a leaf moved: codec lines are encoded first, the bytes copied, with their uncorrectable
errors, and the entry updated for every context that walks it. Whatever is recorded of the page stays with it, as does an
image whose area it is part of. -/
def movePage (s : State) (ctx : Nat) (page pa e : DWord) (big : Bool) : State :=
  let t := tableOf s ctx
  let codec := entryKind e = 1
  let n := if codec then 2 ^ 15 * budgetBytes (bits e 9 7) else if big then 2 ^ 21 else 2 ^ 16
  let src := entryPa e
  let at_ := walkAddr t.view (vaOff page) (t.base.getD 0) walkLevels
  let e' := withPa e pa
  let dst := entryPa e'
  let hit (lo b : Nat) : Bool := decide (lo ≤ b) && decide (b < lo + n)
  let moved (b : Nat) : Nat := if hit src b then b - src + dst else b
  let s := (SMap.keys s.contexts).foldl (fun s c => retable s c ((tableOf s c).named at_ e')) s
  let s := if src = dst then s else
    { s with
      mem := memMove s.mem src dst n
      grans := if codec then s.grans else moveGrans s.grans src dst n
      bad := s.bad.filter (fun b => !hit dst b) ++ (s.bad.filter (hit src)).map moved
      images := s.images.map (fun ai => (ai.1, { ai.2 with pages := ai.2.pages.map moved })) }
  { s with mem := memPutNat s.mem at_ 8 e'.toNat }

/-- MIGRATION (R216): the oldest migration of context n. -/
def execMigration (s : State) : Result :=
  let ctx := s.target.n
  .next (match (ctxOf s ctx).migrations with
    | [] => s
    | (page, pa, n) :: rest =>
      let s := modCtx s ctx (fun c => { c with migrations := rest })
      match migratable s ctx page pa with
      | none => completeCmd s ctx n 6 0
      | some (e, big) => completeCmd (movePage s ctx page pa e big) ctx n 0 0)

/-! ### Codec pages -/

/-- The codec leaf of an address of a context, with its budget. -/
def codecPage (s : State) (ctx : Nat) (va : DWord) : Option (Nat × Nat) :=
  match locate s ctx (ctxOf s ctx).part true false va with
  | .ok (.codec leaf _ budget _) => some (leaf, budget)
  | _ => none

/-- The leaves of `n` pages from an address. -/
def codecPages (s : State) (ctx : Nat) (va : DWord) (n : Nat) : Option (List Nat) :=
  if 4096 < n then none
  else (List.range n).mapM (fun i => (codecPage s ctx (va + dw (2 ^ 21 * i))).map (·.1))

/-- CODECWB (R259): every dirty line of the pages is encoded; a page that is no codec page rejects it. -/
def execCodecwb (h : Hdr) (page count : BitVec 64) (s : State) : Result :=
  .next (statused s h 0x000B true (fun s ctx =>
    (codecPages s ctx page count.toNat).map (fun ls => ls.foldl codecFlush s)))

/-- CODEC_ENCODE (R259): the codec line of key n leaves the L2. -/
def execCodecEncode (s : State) : Result := .next (codecEncode s s.target.n)

/-- CODEC_MERGE (R258): eight bytes that an agent of a context writes to a codec block are merged under its
lock, unless a value would not be finite. -/
def execCodecMerge (ctx : Nat) (va data : BitVec 64) (s : State) : Result :=
  .next (if !zeroBits va 2 0 then s
    else
      match locate s ctx (ctxOf s ctx).part true true va with
      | .ok (.codec leaf base budget off) =>
        let l : Loc := .codec leaf base budget off
        let t := homeWrite (homeFill s l) l (bytesOf 8 data.toNat)
        if codecFinite t l 8 then t else homeFill s l
      | _ => s)

end Sys2Proof.Machine
end

