-- ==== Sys2Proof/Machine/System.lean ====
section
/-! DEFINITION. System registers, TRAP, BLINKTRIG, SNOP, and the words that are no instruction (06,
R95 to R106, R117 to R119, R59). -/

namespace Sys2Proof.Machine

/-- STATUS (Table 06-4). -/
def statusWord (w : Wave) : DWord :=
  dw (w.sys.lls.toNat * 2 ^ 8 + (if w.preq then 2 ^ 5 else 0) + (if w.bound then 2 ^ 4 else 0) +
    (if w.coop then 2 ^ 3 else 0) + (if w.sys.handler then 2 ^ 2 else 0) +
    (match w.kind with | .grid => 0 | .task => 1 | .node => 2 | .episode => 3))

/-- The value of a system register; a reserved number and BLINKTRIG read 0 (Table 06-2, R96). -/
def sysRead (s : State) (r : Nat) : DWord :=
  let x := s.w.sys
  match r with
  | 0x000 => statusWord s.w
  | 0x002 => x.cause
  | 0x003 => x.epc
  | 0x004 => x.elpc
  | 0x005 => x.faddr
  | 0x006 => x.fagent
  | 0x008 => x.spillbase
  | 0x009 => x.spilllim
  | 0x00A => x.stallchk
  | 0x00B => x.fpmode
  | 0x00C => x.fpstat
  | 0x010 => dw s.clock
  | 0x011 => x.partid.setWidth 64
  | 0x012 => x.dieid.setWidth 64
  | 0x013 => x.cluster.setWidth 64
  | 0x014 => x.core.setWidth 64
  | 0x015 => x.slot.setWidth 64
  | 0x020 => x.tmplbase
  | 0x021 => x.taskid.setWidth 64
  | 0x022 => x.frameid.setWidth 64
  | _ => 0

/-- The system registers after a write of the writable fields of one (R96, Tables 06-5 to 06-8,
R86, R98, R105). -/
def sysWrite (x : Sys) (r : Nat) (v : DWord) : Sys :=
  match r with
  | 0x002 => { x with cause := v &&& 0x00000003FFFF03FF }
  | 0x003 => { x with epc := v &&& ~~~ 3 }
  | 0x004 => { x with elpc := v &&& 0xFFFFF }
  | 0x005 => { x with faddr := v }
  | 0x006 => { x with fagent := v &&& 0x0000FFFFFFFFF00F }
  | 0x008 => { x with spillbase := v &&& ~~~ 63 }
  | 0x009 => { x with spilllim := v &&& ~~~ 63 }
  | 0x00A => { x with stallchk := v &&& 1 }
  | 0x00B => { x with fpmode := v &&& 3 }
  | 0x00C => { x with fpstat := fpWrite x.fpstat v }
  | 0x020 => { x with tmplbase := v &&& ~~~ 127 }
  | _ => x

/-- The software Blink trigger of an SWR to BLINKTRIG (R106, R365). -/
def blinkWrite (s : State) (v : DWord) : State := fireBlink s s.w.part 0 (bits v 15 0)

/-- SRD: the register's value in the cycle it executes (R117). -/
def execSrd (d : BitVec 8) (r : BitVec 18) (s : State) : Result :=
  .next (scalarOp s [] d.toNat (fun s => advance (setS s d.toNat (sysRead s r.toNat))))

/-- SWR: a reserved number is ILLEGAL (R96, R117). -/
def execSwr (sr : BitVec 8) (r : BitVec 18) (s : State) : Result :=
  .next (if !sysKnown r.toNat then illegal s
    else scalarRead s [sr.toNat] (fun s =>
      let v := getS s.w sr.toNat
      let s := if r = 0x030 then blinkWrite s v else s
      advance (modSys s (fun x => sysWrite x r.toNat v))))

/-- SWR to BLINKTRIG (R106). -/
def execBlinktrig (sr : BitVec 8) (s : State) : Result :=
  .next (scalarRead s [sr.toNat] (fun s => advance (blinkWrite s (getS s.w sr.toNat))))

/-- TRAP: cause 0x03 with its immediate; the resume point is the word after it (R118). -/
def execTrap (i : BitVec 18) (s : State) : Result :=
  .next (scalarTrapAt s (s.w.regs.spc + 4) 0x03 i.toNat 0 0)

/-- SNOP (R119). -/
def execSnop (s : State) : Result := .next (advance s)

/-- A scalar word with no row: ILLEGAL, precise at the word (R59). -/
def execIllegalScalarWord (_w : BitVec 32) (s : State) : Result := .next (illegal s)

end Sys2Proof.Machine
end

