-- ==== Sys2Proof/Machine/Blink.lean ====
section
/-! DEFINITION. Counters, Blink and the capability list (21, R363 to R369; 14, R261; 19, R350), with the
commands that read and set them. -/

namespace Sys2Proof.Machine

/-! ### Counters -/

/-- An engine's step counter: of its running operation, else of the one that finished last (R192). -/
def Engine.stepCount (e : Engine) : Nat :=
  match e.run with
  | some r => r.done
  | none => (e.last.head?.map (·.steps)).getD 0

/-- The counter of an ID of Table 21-1, where the partition has it (R363). -/
def counterOf (s : State) (part id : Nat) : Option Nat :=
  let p := partOf s part
  match id with
  | 0x0001 => some s.clock
  | 0x0002 => some p.tickets
  | 0x0003 => some p.pubs
  | 0x0010 => some p.killq
  | 0x0011 => some p.killr
  | 0x0012 => some p.incups
  | _ => if id < 0x0100 then none else (p.clusters[id - 0x0100]?).map (fun c => (engineOf s c).flush)

/-- The bound-task counter record (Table 19-5). -/
def boundRecord (p : Part) : List DWord := [dw p.killq, dw p.killr, dw p.incups, 0]

/-- The codec counter record of a leaf (Table 14-4). -/
def codecRecord (s : State) (leaf budget : Nat) : List DWord :=
  let c := SMap.getD s.ccounts leaf { enc := 0, lossy := 0, clip := 0, flush := 0 }
  [dw c.enc, dw c.lossy, dw (c.clip + c.flush * 2 ^ 32), dw budget]

/-- A record written to a host buffer; an unwritable buffer rejects the command (log 22). -/
def writeRecord (s : State) (ctx : Nat) (buf : DWord) (q : List DWord) : Option State :=
  match engCheck s ctx (ctxOf s ctx).part false buf (8 * q.length) with
  | some _ => none
  | none => some (engWrite s ctx (ctxOf s ctx).part false buf (bytesOfQuads q))

/-- COUNTRD, bound-task record (R350). -/
def execCountrdBound (h : Hdr) (w2 w3 buf w5 : BitVec 64) (s : State) : Result :=
  let _ := (w3, w5)
  .next (statused s h 0x000C (w2 == 0) (fun s ctx => writeRecord s ctx buf (boundRecord (partOf s (ctxOf s ctx).part)))
    (some (buf, 32)))

/-- COUNTRD, codec record of a page (R261). -/
def execCountrdCodec (h : Hdr) (w2 page buf w5 : BitVec 64) (s : State) : Result :=
  let _ := w5
  .next (statused s h 0x000C (w2 == 1) (fun s ctx =>
    (codecPage s ctx page).bind (fun lb => writeRecord s ctx buf (codecRecord s lb.1 lb.2))) (some (buf, 32)))

/-- COUNTRD, Meridian counters: tickets, then publications (R240; log 22). -/
def execCountrdMeridian (h : Hdr) (w2 w3 buf w5 : BitVec 64) (s : State) : Result :=
  let _ := (w3, w5)
  .next (statused s h 0x000C (w2 == 2) (fun s ctx =>
    let p := partOf s (ctxOf s ctx).part
    writeRecord s ctx buf [dw p.tickets, dw p.pubs, 0, 0]) (some (buf, 32)))

/-- COUNTRD, flush counter of the engine of cluster j (R88; log 22). -/
def execCountrdFlush (h : Hdr) (w2 j buf w5 : BitVec 64) (s : State) : Result :=
  let _ := w5
  .next (statused s h 0x000C (w2 == 3) (fun s ctx =>
    ((partOf s (ctxOf s ctx).part).clusters[j.toNat]?).bind (fun c => writeRecord s ctx buf [dw (engineOf s c).flush, 0, 0, 0]))
    (some (buf, 32)))

/-! ### Snapshots (R366, R367) -/

/-- The wave in a scheduler slot of a core. -/
def waveIn (s : State) (core slot : Nat) : Option Wave :=
  (wavesOn s core).find? (fun w => decide (w.slotNo = slot))

/-- Record 1 of a slot (Table 21-3). -/
def slotRecord (s : State) (core slot : Nat) : List DWord :=
  match waveIn s core slot with
  | some w => [statusWord w, w.regs.spc, w.sys.cause, w.sys.fpstat]
  | none => [0, 0, 0, 0]

/-- Record 2 of an engine. -/
def engineRecord (s : State) (c : Nat) : List DWord :=
  let e := engineOf s c
  let slot := match e.run.bind (fun r => waveOf s r.op.wave) with | some w => w.slotNo | none => 0xFF
  [dw e.stepCount, dw e.flush, dw e.queue.length, dw slot]

/-- Entries of a partition's task table in a state. -/
def tasksIn (p : Part) (st : TState) : Nat := (SMap.vals p.tasks).countP (fun t => decide (t.st = st))

/-- Record 3, the Orrery's. -/
def orreryRecord (p : Part) : List DWord :=
  [dw (Config.taskEntries - p.tasks.length)] ++
  ([.admitting, .waiting, .ready, .dealt, .running, .cancelling].map (fun st => dw (tasksIn p st))) ++
  [dw p.killq, dw p.killr, dw p.incups] ++
  (List.range 8).map (fun i => (incOf p i).tag ++ (incOf p i).value)

/-- Record 5, the Coelostat's. -/
def coelostatRecord (s : State) (part : Nat) : List DWord :=
  let p := partOf s part
  let busy := p.bins.filter (fun kb => p.rays.any (fun sr => sr.2.loc = .bin kb.1))
  [dw (freeSlots p), dw busy.length] ++ p.frames.map (fun kf => dw (kf.1 * 2 ^ 48 + frameCount s part kf.1))

/-- Record 6: every codec page of the partition. -/
def codecRecords (s : State) (part : Nat) : List DWord :=
  (s.contexts.filter (fun kc => decide (kc.2.part = part) && decide (kc.1 ≠ fmCtx))).flatMap (fun kc =>
    (codecLeaves s (tableOf s kc.1)).flatMap (fun le => codecRecord s (kc.1 * 2 ^ 27 + le.1) (bits le.2 9 7)))

/-- The block records of a partition, in order. -/
def blockRecords (s : State) (part : Nat) : List DWord :=
  let p := partOf s part
  (sortBy (fun a b => decide (a ≤ b)) (coresOf p)).flatMap (fun c => (List.range 64).flatMap (slotRecord s c)) ++
  p.clusters.flatMap (engineRecord s) ++ orreryRecord p ++ [dw p.tickets, dw p.pubs] ++ coelostatRecord s part ++
  codecRecords s part

/-- The header of a latch event (R366). -/
def snapHeader (b : BlinkSt) (clock : Nat) : List DWord :=
  let tag := match b.tags with | (_, t) :: _ => t.toNat | [] => 0
  [dw b.seq, dw (tag * 2 ^ 48), dw (b.fired.toNat + b.missed * 2 ^ 32), dw clock]

/-- The cycles of a hold-off (Table 21-2). -/
def holdCycles (ctl : DWord) : Nat := 1024 * Nat.max 1 (bits ctl 47 40)

/-- The latch event of a partition in which triggers fired (R366). -/
def latchPart (s : State) (part : Nat) : State :=
  let b := (partOf s part).blink
  if b.fired = 0 then s
  else
    let b := { b with seq := (b.seq + 1) % 2 ^ 32 }
    let snap : Snapshot := { words := snapHeader b s.clock ++ blockRecords s part }
    modPart s part (fun p =>
      { p with blink := { b with missed := 0, holdUntil := some (s.clock + holdCycles b.ctl), snap := some snap, fired := 0,
                                 tags := [] } })

/-- The threshold trigger of a partition between two states (R365). -/
def thresholdPart (before s : State) (part : Nat) : State :=
  let b := (partOf s part).blink
  let id := bits b.ctl 63 48
  match counterOf before part id, counterOf s part id with
  | some x, some y => if x < b.thr.toNat && b.thr.toNat ≤ y then fireBlink s part 2 id else s
  | _, _ => s

/-- Whether a control word is one the Blink command takes (R364; log 23). -/
def blinkOk (s : State) (part : Nat) (ctl : DWord) : Bool :=
  zeroBits ctl 19 5 &&
  ((zeroBits ctl 63 48 && !ctl.getLsbD 2) || (counterOf s part (bits ctl 63 48)).isSome)

/-- BLINK (R364). -/
def execBlink (h : Hdr) (ctl thr : BitVec 64) (s : State) : Result :=
  .next (statused s h 0x000D true (fun s ctx =>
    let part := (ctxOf s ctx).part
    if blinkOk s part ctl then
      some (modPart s part (fun p => { p with blink := { p.blink with ctl := ctl, thr := thr } }))
    else none))

/-- What SNAPREAD copies for a context: before any latch the header alone, at its reset values (log 23). -/
def snapWords (s : State) (ctx : Nat) : List DWord :=
  match (partOf s (ctxOf s ctx).part).blink.snap with | some x => x.words | none => [0, 0, 0, 0]

/-- SNAPREAD (R367): it copies in this cycle, and a trigger that fires in it is missed (R366, R368). -/
def execSnapread (h : Hdr) (buf bytes : BitVec 64) (s : State) : Result :=
  .next (statused s h 0x000E true (fun s ctx =>
    let q := snapWords s ctx
    if bytes.toNat < 8 * q.length then none
    else (writeRecord s ctx buf q).map (fun t =>
      modPart t (ctxOf s ctx).part (fun p => { p with blink := { p.blink with copying := s.clock + 1 } })))
    (some (buf, Nat.min bytes.toNat 32)))

/-- BLINK_PIN: a rising edge on the module's Blink input reaches every partition (R365). -/
def execBlinkPin (s : State) : Result :=
  .next ((SMap.keys s.parts).foldl (fun s p => fireBlink s p 4 0) s)

/-- BLINK_MESSAGE: a Blink message for partition p (R365). -/
def execBlinkMessage (p : Nat) (tag : BitVec 16) (s : State) : Result :=
  .next (if (SMap.get? s.parts p).isSome then fireBlink s p 3 tag.toNat else s)

/-- BLINK_HOLDOFF_END: the hold-off of partition n expires (R366). -/
def execBlinkHoldoffEnd (s : State) : Result :=
  .next (if (partOf s s.target.n).blink.holdUntil.any (fun t => decide (t ≤ s.clock)) then
      modPart s s.target.n (fun p => { p with blink := { p.blink with holdUntil := none } })
    else s)

/-! ### The capability list (R369) -/

/-- The words of Table 21-6, with the die's DIEID, and what a workstation card's die reads instead. -/
def capWords (s : State) : List DWord :=
  [0x0000001803010001, if s.power.card then 0x0000001803B60440 else 0x0000001805140440, 0x0000004000000060, 0x0000002802010002, 0x000000001000003F,
   0x0000003802010003, 0x000000000000001F, 0x0000004802010004, dw (8 + (if s.power.card then 2 ^ 8 else 0) + s.dieid.toNat * 2 ^ 16), 0x0000000002010005,
   0x000000002001800C]

/-- CAPREAD: bytes past the list read 0. -/
def execCapread (h : Hdr) (w2 buf : BitVec 64) (s : State) : Result :=
  .next (statused s h 0x000F true (fun s ctx =>
    let list := bytesOfQuads (capWords s)
    let off := bits w2 31 0
    let part := (ctxOf s ctx).part
    let n := bits w2 63 32
    match engCheck s ctx part false buf n with
    | some _ => none
    | none => some (engWrite s ctx part false buf ((List.range n).map (fun i => list.getD (off + i) 0)))) (some (buf, bits w2 63 32)))

end Sys2Proof.Machine
end

