-- ==== Sys2Proof/Machine/Firmware.lean ====
section
/-! DEFINITION. Power, partitions and firmware (01, R12, R16, R17; 22, R374, R380, R382, R383). -/

namespace Sys2Proof.Machine

/-! ### Power (R16, R17) -/

/-- The nominal clock in MHz. -/
def nominalClock (p : Power) : Nat := if p.card then 950 else Config.resetClock

/-- Whether a cap is one the die accepts. -/
def capOk (p : Power) (watts : Nat) : Bool :=
  decide (watts % 10 = 0) &&
  (if p.card then decide (300 ≤ watts) && decide (watts ≤ 450) else decide (600 ≤ watts) && decide (watts ≤ 1400))

/-- POWER (R16). -/
def execPower (h : Hdr) (w2 w3 : BitVec 64) (s : State) : Result :=
  .next (applied s h 0x0014 (zeroBits w2 63 16 && w3 == 0 && capOk s.power w2.toNat) (fun s _ =>
    { s with power := { s.power with cap := w2.toNat } }))

/-- The record of a power event (R379). -/
def powerRecord (s : State) (watts : Nat) : List DWord :=
  [dw (0xF0 + s.dieid.toNat * 2 ^ 32), dw s.power.cap, dw watts, dw s.power.mhz, 0, 0, 0, 0]

/-- A window in which the power was above the cap: the clock falls, and ten in a row at the floor post a
record, once an episode. -/
def windowAbove (s : State) (watts : Nat) : State :=
  let p := s.power
  if 400 < p.mhz then { s with power := { p with mhz := Nat.max 400 (p.mhz - 25), hot := 0, cool := 0 } }
  else
    let post := decide (10 ≤ p.hot + 1) && !p.posted
    let s := { s with power := { p with hot := p.hot + 1, cool := 0, posted := p.posted || post } }
    if post then postQuads s fmCtx (powerRecord s watts) else s

/-- A window in which it was not: more than 5 % below the cap the clock rises, and ten in a row end the
episode. -/
def windowBelow (s : State) (watts : Nat) : State :=
  let p := s.power
  let mhz := if 100 * watts < 95 * p.cap then Nat.min (nominalClock p) (p.mhz + 25) else p.mhz
  { s with power := { p with mhz := mhz, hot := 0, cool := p.cool + 1, posted := p.posted && decide (p.cool + 1 < 10) } }

/-- POWER_WINDOW: a window of 1 ms with the power measured in it (R16). -/
def execPowerWindow (watts : Nat) (s : State) : Result :=
  .next (let t := if s.power.cap < watts then windowAbove s watts else windowBelow s watts
    { t with power := { t.power with windows := t.power.windows + 1 } })

/-! ### PARTCFG (R12, R374, R380) -/

/-- The clusters of a mask, ascending. -/
def clustersIn (mask : DWord) : List Nat := (List.range 64).filter (fun c => mask.getLsbD c)

/-- Whether a context is busy (R380). -/
def ctxBusy (s : State) (ctx : Nat) : Bool :=
  let c := ctxOf s ctx
  let p := partOf s c.part
  c.resident &&
  ((allWaves s).any (fun w => decide (w.ctx = ctx) && w.status ≠ .retired) ||
   (SMap.vals p.tasks).any (fun t => decide (t.ctx = ctx)) ||
   (SMap.vals p.frames).any (fun f => decide (f.ctx = ctx)) ||
   (SMap.vals s.channels).any (fun l => l.any (fun j => decide (j.ctx = ctx))) ||
   (SMap.vals s.cards).any (fun k => decide (k.ctx = ctx)) ||
   c.kicks.any (fun rk => !(kicksAhead s ctx rk.1 rk.2).isEmpty) ||
   (SMap.vals c.cmds).any (fun k => !k.done))

/-- The contexts of a partition. -/
def ctxsOf (s : State) (part : Nat) : List Nat :=
  (s.contexts.filter (fun kc => decide (kc.2.part = part) && decide (kc.1 ≠ fmCtx))).map (·.1)

/-- The first of the lowest run of `n` endpoints that are free once a partition's are deleted. -/
def freeEndpoints (s : State) (part n : Nat) : Option Nat :=
  let used (e : Nat) : Bool := match SMap.get? s.contexts e with | some c => decide (c.part ≠ part) | none => false
  if 384 < n then none
  else (List.range (385 - n)).find? (fun f => (List.range n).all (fun i => !used (f + i)))

/-- What a PARTCFG asks for. -/
structure PartReq where
  part : Nat
  clusters : List Nat
  p : Nat
  t : Nat
  n : Nat
  deriving DecidableEq, Repr

/-- The request of a packet's quadwords. -/
def PartReq.ofWords (w2 mask w4 : DWord) : PartReq :=
  { part := bits w2 3 0, clusters := clustersIn mask, p := bits w4 3 0, t := bits w4 7 4, n := bits w4 13 8 }

/-- Whether a PARTCFG passes R12 and R380; a die's partitions are those of PARTID 0 to 11 (R104), so one of a
higher number would be more than 12 (log 79). -/
def partOk (s : State) (r : PartReq) : Bool :=
  let others := s.parts.filter (fun kp => decide (kp.1 ≠ r.part) && !kp.2.clusters.isEmpty)
  decide (r.p ≤ 8) && decide (r.t ≤ 8) && decide (1 ≤ r.n) && decide (r.n ≤ 32) && decide (r.part < 12) &&
  others.all (fun kp => r.clusters.all (fun c => !kp.2.clusters.contains c)) &&
  (ctxsOf s r.part).all (fun c => !ctxBusy s c)

/-- A core as configuration leaves it: empty caches, its Finder seeded (R313). -/
def Core.configured (core clock : Nat) : Core :=
  { Core.zero with finder := BitVec.ofNat 16 0xACE1 ^^^ BitVec.ofNat 16 core, idleSince := clock }

/-- The cores and engines of clusters made new; dirty L1 bytes go home first. -/
def freshClusters (s : State) (cs : List Nat) : State :=
  let s := (cs.flatMap clusterCores).foldl writeThrough s
  { s with
    cores := (cs.flatMap clusterCores).foldl (fun m c => SMap.put m c (Core.configured c s.clock)) s.cores
    engines := cs.foldl (fun m c => SMap.del m c) s.engines }

/-- The old endpoints of a partition deleted, with whatever their rings hold; launches that an image may
bring back keep no command. -/
def deleteEndpoints (s : State) (part : Nat) : State :=
  let old := ctxsOf s part
  { s with
    contexts := s.contexts.filter (fun kc => !old.contains kc.1)
    launches := s.launches.map (fun lx => if old.contains lx.2.ctx then (lx.1, { lx.2 with cmd := none, cancels := [] }) else lx) }

/-- Endpoints created, with their descriptors 0 (R374). -/
def createEndpoints (s : State) (part f n : Nat) : State :=
  (List.range n).foldl (fun s i =>
    let s := { s with contexts := SMap.put s.contexts (f + i) (Context.zero part) }
    { s with mem := memPut s.mem (pageOf s (f + i)) (List.replicate 64 0) }) s

/-- A partition configured afresh (R374, R380). -/
def configure (s : State) (r : PartReq) (f : Nat) : State :=
  let s := freshClusters s ((partOf s r.part).clusters ++ r.clusters)
  let s := createEndpoints (deleteEndpoints s r.part) r.part f r.n
  let p : Part := { Part.zero with clusters := r.clusters, p := r.p, t := r.t, eps := (List.range r.n).map (f + ·) }
  { s with parts := SMap.put s.parts r.part p }

/-- PARTCFG: VALUE is the first endpoint. -/
def execPartcfg (h : Hdr) (w2 mask w4 w5 : BitVec 64) (s : State) : Result :=
  let _ := w5
  .next (command s h 0x0015 false (zeroBits w2 63 4 && zeroBits w4 63 14) (fun s ctx n =>
    let r := PartReq.ofWords w2 mask w4
    match freeEndpoints s r.part r.n with
    | none => completeCmd s ctx n 6 0
    | some f => if partOk s r then completeCmd (configure s r f) ctx n 0 (BitVec.ofNat 128 f) else completeCmd s ctx n 6 0))

/-! ### Firmware (R382, R383) -/

/-- IMAGE: an image is staged from its physical address (log 24). -/
def execImage (h : Hdr) (addr w3 : BitVec 64) (s : State) : Result :=
  .next (applied s h 0x0016 (zeroBits w3 31 1) (fun s _ =>
    let bs := memBytes s.mem addr.toNat (bits w3 63 32)
    { s with fw := if w3.getLsbD 0 then { s.fw with stagedService := some bs } else { s.fw with stagedRoot := some bs } }))

/-- The image that is active after a boot: a staged one when it verifies and its version is not lower. -/
def chooseImage (active : List Byte) (staged : Option (List Byte)) : List Byte :=
  match staged with
  | some x =>
    if Config.imageVerifies x && decide ((Config.imageVersion active).toNat ≤ (Config.imageVersion x).toNat) then x else active
  | none => active

/-- Whether the root image verifies, at the fused minimum version or above. -/
def rootOk (x : List Byte) : Bool := Config.imageVerifies x && decide (Config.fusedMinimum.toNat ≤ (Config.imageVersion x).toNat)

/-- The firmware started when both images verify; else recovery begins. -/
def startFirmware (f : Firmware) : Firmware :=
  let ok := rootOk f.root && Config.imageVerifies f.service
  { f with booted := ok, recovery := !ok }

/-- The die as the board it stands on makes it: k = 1 and 2 are dies 0 and 1 of a workstation card, whose clock and
cap differ (R17); any other is a module's (log 97). -/
def onBoard (s : State) (k : Nat) : State :=
  if k = 1 || k = 2 then
    let d := k - 1
    { s with
      dieid := BitVec.ofNat 12 d, chip := BitVec.ofNat 12 d, routes := SMap.put s.routes d { chip := d, addr := 0, flow := 0, ends := [] }
      power := { s.power with card := true, cap := 450, mhz := 950 } }
  else s

/-- A die whose firmware runs, reset: everything as `State.reset` has it, but memory, the firmware's images, and what the
board and the fabric manager gave it; the fabric manager's endpoint is made anew (R374; log 101). -/
def dieReset (s : State) : State :=
  let t : State :=
    { State.reset with
      mem := s.mem, bad := s.bad, fw := { s.fw with booted := false, recovery := false }
      dieid := s.dieid, chip := s.chip, routes := s.routes, anchor := s.anchor
      power := { State.reset.power with card := s.power.card, cap := if s.power.card then 450 else Config.resetCap,
                                        mhz := nominalClock s.power }
      target := s.target, agenda := s.agenda, free := s.free }
  { t with mem := memPut t.mem (pageOf t fmCtx) (List.replicate 64 0) }

/-- DIE_BOOT (R382, steps 1 to 3), on the board that k names where it is the first (R17). -/
def execDieBoot (s : State) : Result :=
  let s := if s.fw.booted then dieReset s else if s.fw.recovery then s else onBoard s s.target.k
  let f := s.fw
  let f := { f with root := chooseImage f.root f.stagedRoot, service := chooseImage f.service f.stagedService,
                    stagedRoot := none, stagedService := none, retries := 0 }
  .next { s with fw := startFirmware f }

/-- RECOVERY_FETCH: a replacement for the image that failed arrives: a first fetch, and up to 3 retries for each image
(R382, step 4). -/
def execRecoveryFetch (image : List Byte) (s : State) : Result :=
  let f := s.fw
  .next (if !f.recovery || decide (4 ≤ f.retries) then s
    else
      let f := { f with retries := f.retries + 1 }
      if !rootOk f.root then
        { s with fw := if rootOk image then startFirmware { f with root := image, retries := 0 } else f }
      else
        { s with fw := if Config.imageVerifies image then startFirmware { f with service := image } else f })

/-- Bytes 0 to 407 of a report (Table 22-5). -/
def reportBody (s : State) (part : Nat) (nonce : List DWord) : List Byte :=
  let p := partOf s part
  let mask := p.clusters.foldl (fun m c => m ||| 2 ^ c) 0
  bytesOfQuads nonce ++ bytesOf 64 (Config.sha512 s.fw.root).toNat ++ bytesOf 64 (Config.sha512 s.fw.service).toNat ++
  bytesOf 64 (Config.sha512 (Config.isolationBytes mask p.p p.t p.eps.length)).toNat ++
  bytesOf 2 s.dieid.toNat ++ bytesOf 4 (Config.imageVersion s.fw.root).toNat ++ bytesOf 4 (Config.imageVersion s.fw.service).toNat ++
  List.replicate 6 0 ++ bytesOf 133 Config.identityKey.toNat ++ List.replicate 3 0

/-- ATTEST (R383). -/
def execAttest (h : Hdr) (buf w3 n0 n1 n2 n3 n4 n5 n6 n7 : BitVec 64) (s : State) : Result :=
  .next (statused s h 0x0017 (w3 == 0) (fun s ctx =>
    let part := (ctxOf s ctx).part
    let body := reportBody s part [n0, n1, n2, n3, n4, n5, n6, n7]
    match engCheck s ctx part false buf 544 with
    | some _ => none
    | none =>
      some (engWrite s ctx part false buf (body ++ bytesOf 132 (Config.identitySign body).toNat ++ List.replicate 4 0))) (some (buf, 544)))

end Sys2Proof.Machine
end

