-- ==== Sys2Proof/Machine/HostPort.lean ====
section
/-! DEFINITION. What arrives at the ports: host accesses, doorbells and packets that are discarded (22, R370
to R374). -/

namespace Sys2Proof.Machine

/-- A discard counted at a port (R370, R373). -/
def countDiscard (s : State) (port : Nat) : State :=
  { s with discards := SMap.put s.discards port (SMap.getD s.discards port 0 + 1) }

/-- UNRELIABLE_PACKET_DISCARD (R370). -/
def execUnreliablePacketDiscard (port : BitVec 3) (s : State) : Result := .next (countDiscard s port.toNat)

/-! ### Doorbells (R373, R374) -/

/-- Whether a ring of `n` bytes at a base lies in this die's GDDR7 with its alignment. -/
def ringPlaced (s : State) (base align n : Nat) : Bool :=
  decide (base % align = 0) && decide (s.chip.toNat * 2 ^ 48 ≤ base) && decide (base + n ≤ s.chip.toNat * 2 ^ 48 + 96 * 2 ^ 30)

/-- Whether an endpoint's descriptor is within Table 22-1's limits. -/
def descOk (s : State) (ctx : Nat) : Bool :=
  let (r, c, f) := (lrsize s ctx, lcsize s ctx, lfsize s ctx)
  decide (12 ≤ r) && decide (r ≤ 24) && decide (4 ≤ c) && decide (c ≤ 20) && decide (4 ≤ f) && decide (f ≤ 16) &&
  ringPlaced s (rbase s ctx) 4096 (2 ^ r) && ringPlaced s (cbase s ctx) 32 (32 * 2 ^ c) &&
  ringPlaced s (fbase s ctx) 64 (64 * 2 ^ f)

/-- Whether a TAIL lies ahead of the last one, and within the ring from HEAD. -/
def tailAhead (s : State) (ctx t : Nat) : Bool :=
  let d := diff32 t (ctxOf s ctx).tail.toNat
  decide (d ≠ 0) && decide (d < 2 ^ 31) && decide (diff32 t (headOf s ctx) ≤ 2 ^ lrsize s ctx)

/-- A doorbell of an endpoint, arrived at a port. -/
def ringDoorbell (s : State) (ctx : Nat) (v : DWord) (port : Nat) : State :=
  match SMap.get? s.contexts ctx with
  | none => s
  | some c =>
    if !zeroBits v 63 32 || !descOk s ctx then countDiscard s port
    else if c.halted then s
    else if tailAhead s ctx (bits v 31 0) then modCtx s ctx (fun c => { c with tail := v.setWidth 32, rung := true })
    else s

/-- DOORBELL (R373); the port is the target's (log 25). -/
def execDoorbell (ctx : BitVec 16) (value : BitVec 64) (s : State) : Result :=
  .next (ringDoorbell s ctx.toNat value (s.target.n % 8))

/-! ### Host accesses (R374) -/

/-- The endpoint whose page holds a physical address, and the offset in it. -/
def endpointAt (s : State) (pa : Nat) : Option (Nat × Nat) :=
  ((SMap.keys s.contexts).find? (fun c => decide (pageOf s c ≤ pa) && decide (pa < pageOf s c + 4096))).map
    (fun c => (c, pa - pageOf s c))

/-- The bits of a byte of an endpoint page that the host may write now (Table 22-1). -/
def pageMask (s : State) (ctx off : Nat) : Byte :=
  let c := ctxOf s ctx
  if 28 ≤ off && off < 32 || 52 ≤ off && off < 56 then 0xFF
  else if c.rung && !c.halted then 0
  else if off < 16 || 32 ≤ off && off < 40 then 0xFF
  else if off = 16 || off = 17 || off = 40 then 0x1F
  else 0

/-- Bytes written to an endpoint page, each where the host may. -/
def pageWrite (s : State) (ctx off : Nat) (bs : List Byte) : State :=
  ((List.range bs.length).zip bs).foldl (fun s ib =>
    let m := pageMask s ctx (off + ib.1)
    let k := pageOf s ctx + off + ib.1
    { s with mem := memSet s.mem k ((memByte s.mem k &&& ~~~ m) ||| (ib.2 &&& m)) }) s

/-- A host write to an endpoint page: a doorbell, a write that only touches one, or bytes of the descriptor;
fault records that waited for FHEAD then go out (R373, R379). -/
def hostPage (s : State) (ctx off n : Nat) (d : DWord) (port : Nat) : State :=
  if off = 0x40 && n = 8 then ringDoorbell s ctx d port
  else if off < 0x48 && 0x40 < off + n then countDiscard s port
  else drainFaults (pageWrite s ctx off (bytesOf n d.toNat)) ctx ((ctxOf s ctx).held.length + 1)

/-- Whether a range of physical addresses lies in one of the rings. -/
def inRing (s : State) (pa n : Nat) : Bool :=
  (SMap.keys s.contexts).any (fun c =>
    [(rbase s c, 2 ^ lrsize s c), (cbase s c, 32 * 2 ^ lcsize s c), (fbase s c, 64 * 2 ^ lfsize s c)].any (fun br =>
      decide (br.1 ≤ pa) && decide (pa + n ≤ br.1 + br.2)))

/-- Whether a host access gets data back. -/
def hostAnswered : AccKind → Bool
  | .store _ => false
  | _ => true

/-- The data that a host's load or atomic gets back (R374). -/
def hostAnswer (s : State) (k : AccKind) (bs : List Byte) : State := if hostAnswered k then { s with hostData := bs } else s

/-- What a byte of physical memory reads as to the host: the doorbell of an endpoint page reads 0 (Table 22-8). -/
def hostByte (s : State) (pa : Nat) : Byte :=
  match endpointAt s pa with
  | some (_, off) => if 0x40 ≤ off then 0 else memByte s.mem pa
  | none => memByte s.mem pa

/-- An access by physical address: to an endpoint page or a ring; the host names nothing else so. -/
def hostPhys (s : State) (h : HostAcc) (port : Nat) : State :=
  let pa := h.addr.toNat
  let n := h.size.bytes
  let named := (endpointAt s pa).isSome || inRing s pa n
  let s := hostAnswer s h.kind ((List.range n).map (fun i => if named then hostByte s (pa + i) else 0))
  match endpointAt s pa, h.kind with
  | some (c, off), .store d => hostPage s c off n d port
  | some (_, off), .atomic .. => if off < 0x48 && 0x40 < off + n then countDiscard s port else s
  | some _, .load => s
  | none, k =>
    if !inRing s pa n then s
    else
      let ls := (List.range n).map (fun i => Loc.mem (pa + i))
      match k with
      | .load => s
      | .store d => putPlaces s ls (bytesOf n d.toNat)
      | .atomic aop d =>
        if 12 < aop.toNat then s
        else match atomWrite aop.toNat n (natOfBytes (memBytes s.mem pa n)) d.toNat 0 with
          | some x => putPlaces s ls (bytesOf n x)
          | none => s

/-- The access kind of a fault record (R379). -/
def accKind : AccKind → Nat
  | .load => 0
  | .store _ => 1
  | .atomic .. => 2

/-- The record of a host access that is not performed; its agent is of KIND 7, and it is ECC's failing agent (R99). A read
returns zeros. -/
def hostFault (s : State) (h : HostAcc) (code : Nat) : State :=
  let ctx := h.ctx.toNat
  let g := agentWord 7 s.dieid.toNat 0 0
  postCause (hostAnswer s h.kind (List.replicate h.size.bytes 0)) ctx (ctxOf s ctx).part
    { code := code, imp := false, await := false, task := none, faddr := h.addr, fagent := if code = 0x14 then g else 0,
      access := accKind h.kind, agent := g }

/-- The bytes that an access finds at the home (R374). -/
def homeBytes (s : State) (ctx part : Nat) (write : Bool) (va : DWord) (n : Nat) : List Byte :=
  match homePlaces s ctx part write va n with
  | .ok ls => ls.flatMap (fun l => homeRead s l 1)
  | .error _ => []

/-- An access by virtual address of an endpoint's context: the global space alone; one to another die of the pod leaves
this one, and a DIE that the route table does not hold is PROT (R202, R374). -/
def hostVirtual (s : State) (h : HostAcc) : State :=
  let ctx := h.ctx.toNat
  if (SMap.get? s.contexts ctx).isNone then s
  else if 1 < vaSpace h.addr then hostFault s h 0x07
  else if !(vaDie h.addr = s.dieid.toNat || (vaSpace h.addr = 0 && vaDie h.addr = 0xFFF)) then
    (if (SMap.get? s.routes (vaDie h.addr)).isSome then
      hostAnswer { s with free := s.free + 1 } h.kind (homeRead s (.remote h.addr) h.size.bytes)
     else hostFault s h 0x07)
  else
    let part := (ctxOf s ctx).part
    match homeServe s ctx part h.addr h.size.bytes h.kind with
    | .ok t => hostAnswer t h.kind (homeBytes s ctx part (accKind h.kind ≠ 0) h.addr h.size.bytes)
    | .error c => hostFault s h c

/-- HOST_ACCESS (R374). -/
def execHostAccess (h : HostAcc) (s : State) : Result :=
  .next (if h.phys then hostPhys s h (s.target.n % 8) else hostVirtual s h)

end Sys2Proof.Machine
end

