-- ==== Sys2Proof/Machine/Saving.lean ====
section
/-! DEFINITION. Ephemeris, the saving of waves, the switch and the restore of a context, and the completion
of commands (20, R357 to R361; 10, R199; 22, R377). The area of an image holds the bytes of its B-slices and allocations,
and free bytes after them; what those stand for is a record of the state (log 8). -/

namespace Sys2Proof.Machine

/-! ### Ephemeris (R357) -/

/-- An entry (Table 20-2): 104 bytes as a number. -/
def ephEntry (s : State) (w : Wave) (i : Nat) : Option Nat :=
  match engRead s w.ctx w.part false (w.ephBase + dw (104 * i)) 104 with
  | .ok bs => some (natOfBytes bs)
  | .error _ => none

/-- The entry of a byte offset, looked for by halving a sorted table; an unsorted one may be missed. -/
def ephFind (s : State) (w : Wave) (off : Nat) : Nat → Nat → Nat → Option Nat
  | 0, _, _ => none
  | fuel + 1, lo, hi =>
    if hi ≤ lo then none
    else
      let mid := (lo + hi) / 2
      match ephEntry s w mid with
      | none => none
      | some e =>
        if e % 2 ^ 32 = off then some e
        else if e % 2 ^ 32 < off then ephFind s w off fuel (mid + 1) hi
        else ephFind s w off fuel lo mid

/-- The entry of the scalar word a wave is about to begin, when it is a listed point (R357, R358). -/
def listedPoint (s : State) (w : Wave) : Option Nat :=
  let off := (w.regs.spc - w.sbase).toNat
  if 2 ^ 32 ≤ off then none
  else (ephFind s w off 33 0 w.ephCnt).filter (fun e => e / 2 ^ 34 % 2 ^ 30 = 0)

/-! ### Saves (R358, R359) -/

/-- Whether a wave is Running-on: a request is pending, it is not parked and has no replay to do, it owes no trap, and it is
not on its way out (R33, R35, R349, R362). -/
def Wave.runningOn (w : Wave) : Bool :=
  w.preq && w.placed && w.park.isNone && w.answered.isNone && w.owed.isNone && w.status ≠ .parked &&
  (w.ended.isNone || (w.sys.handler && w.ended ≠ some .faulted))

/-- Whether a stream is within a firing that it can finish, or is parked in one: a save waits for it (R278). -/
def firingOut (s : State) (w : Wave) : Bool :=
  (SMap.vals w.streams).any (fun st => st.midway.isSome && (st.parked.isSome || mayFire s w st))

/-- Whether what a listed-point save waits for is done. -/
def settledWave (s : State) (w : Wave) : Bool :=
  laneIdle w && decide (w.lane.batch = 0) && !pushesOut s w.id && !firingOut s w

/-- Whether a wave stands at a BAR whose instance is complete: it is saved past it (R36). -/
def barDone (s : State) (w : Wave) : Bool :=
  match w.inBar with
  | some (g, inst) => decide (inst < (barOf s w g.toNat).inst)
  | none => false

/-- A wave saved where it is: it gives up its slot, rows and victim tags, and its LLS. A wait for an SC
ticket counts as not begun, also that of a lane entry whose lanes are partly done (log 107). Its dirty L1 bytes go home, so
that it meets them wherever it resumes (log 26). -/
def saveWave (s : State) (id : Nat) (keep : Wave → Wave) : State :=
  match waveOf s id with
  | none => s
  | some w =>
    let core := w.sys.core.toNat
    let s := writeThrough s core
    let s := modCore s core (fun c => { c with victims := c.victims.filter (fun v => v.slot ≠ w.sys.slot), idleSince := s.clock })
    let s := modPart s w.part (fun p => { p with scq := p.scq.filter (fun t => t.wave ≠ some id) })
    modWave s id (fun w =>
      let w := keep w
      { w with status := .saved, preq := false, ticket := none, pod := none,
               lane := { w.lane with ticket := none, pod := none }, sys := { w.sys with lls := 0 } })

/-- The registers that an entry lists (Table 20-3). -/
def keepListed (e : Nat) (w : Wave) : Wave :=
  { w with regs := { w.regs with
      s := w.regs.s.filter (fun kv => e.testBit (64 + kv.1))
      v := w.regs.v.filter (fun kv => e.testBit (320 + kv.1 / 32))
      bad := w.regs.bad.filter (fun r => e.testBit (320 + r))
      vp := if e.testBit 32 then [] else w.regs.vp } }

/-- A save at a listed point; accumulators that are not live are not kept, unless an operation of the wave
runs (Table 20-3). -/
def saveListed (s : State) (id e : Nat) : State :=
  match waveOf s id with
  | none => s
  | some w =>
    let c := w.sys.core.toNat / 4
    let runs := (engineOf s c).run.toList ++ (engineOf s c).susp
    let drop := e.testBit 33 && !runs.any (fun r => decide (r.op.wave = id))
    let s := if drop then modEngine s c (fun en => { en with acc := en.acc.filter (fun kv => !w.tiles.contains (kv.1 / 16384)) }) else s
    saveWave s id (keepListed e)

/-- WAVE_SAVE: wave n, Running-on and at a listed point (R358). -/
def execWaveSave (s : State) : Result :=
  .next (match waveOf s s.target.n with
    | none => s
    | some w =>
      if !w.runningOn || barDone s w || !settledWave s w then s
      else match listedPoint s w with
        | some e => saveListed s w.id e
        | none => s)

/-- Whether 100 µs of the management cores' timer have passed since the request (R358). -/
def boundPassed (s : State) (w : Wave) : Bool := decide ((ctxOf s w.ctx).switchSince + 100 * Config.timerUnits ≤ s.time)

/-- Whether a Running-on wave stands where it is saved: at a listed point with its work done, or anywhere once the
100 µs are past (R358); but not at a BAR whose instance is complete (R36). -/
def standsForSave (s : State) (w : Wave) : Bool :=
  w.runningOn && !barDone s w && ((settledWave s w && (listedPoint s w).isSome) || boundPassed s w)

/-- A full save: results in flight land, and unissued lane entries are kept (R358). -/
def saveFull (s : State) (id : Nat) : State := saveWave (onWave s id landAll) id (fun w => w)

/-- PREEMPT_TIMEOUT: wave n is saved in full, or at the listed point it has just reached (R358, R362). -/
def execPreemptTimeout (s : State) : Result :=
  .next (match waveOf s s.target.n with
    | none => s
    | some w =>
      if !w.runningOn || barDone s w || !boundPassed s w || pushesOut s w.id || firingOut s w then s
      else match (if settledWave s w then listedPoint s w else none) with
        | some e => saveListed s w.id e
        | none => saveFull s w.id)

/-! ### SWITCH (R360) -/

/-- Whether a management endpoint may name a context: one of its own partition (log 20). -/
def sameMachine (s : State) (ctx c : Nat) : Bool :=
  (partOf s (ctxOf s ctx).part).eps.contains c

/-- The bytes of a context's B-slices and allocations in its image (R360, step 4). -/
def imageData (s : State) (c : Nat) : Nat :=
  let p := partOf s (ctxOf s c).part
  ((SMap.vals p.allocs).filter (fun a => decide (a.ctx = c))).foldl (fun n a => n + a.size)
    (p.clusters.length * Config.vaultShared)

/-- The size of the image a context needs, asked for at a time: those bytes and the rest, whose size the spec does not
state (R360; log 8). -/
def imageSize (s : State) (c at_ : Nat) : Nat :=
  imageData s c + (partOf s (ctxOf s c).part).clusters.length * (Config.imageRest at_).toNat

/-- The memory keys of the 64 KiB pages of an area of `n` bytes (R211): none where a page is not ordinary memory of this
die that the context may write. -/
def areaPages (s : State) (ctx : Nat) (area : DWord) (n : Nat) : Option (List Nat) :=
  let first := area.toNat / 2 ^ 16
  (List.range ((area.toNat + n - 1) / 2 ^ 16 - first + 1)).foldr (fun k l =>
    match locate s ctx (ctxOf s ctx).part false true (dw (2 ^ 16 * (first + k))), l with
    | .ok (.mem key), some l => some (key :: l)
    | _, _ => none) (some [])

/-- SWITCH: it starts when the context is resident, nothing else moves it, and the area holds its image. -/
def execSwitch (h : Hdr) (area w3 : BitVec 64) (s : State) : Result :=
  .next (command s h 0x0011 false (zeroBits w3 63 16) (fun s ctx n =>
    let c := w3.toNat
    let x := ctxOf s c
    if sameMachine s ctx c && x.resident && x.switching.isNone && x.restoring.isNone &&
       (areaPages s ctx area (imageSize s c s.time)).isSome then
      let ask (w : Wave) : Wave := if w.ctx = c && w.status ≠ .retired then { w with preq := true } else w
      let s := { s with w := ask s.w, waves := s.waves.map (fun kw => (kw.1, ask kw.2)) }
      modCtx s c (fun x => { x with switching := some (ctx, n), switchSince := s.time, image := some area.toNat })
    else completeCmd s ctx n 6 0))

/-- The waves of a context that have not retired. -/
def liveWaves (s : State) (c : Nat) : List Wave := (allWaves s).filter (fun w => decide (w.ctx = c) && w.status ≠ .retired)

/-- The frames of a context. -/
def framesOf (p : Part) (c : Nat) : SMap FrameEnt := p.frames.filter (fun kf => decide (kf.2.ctx = c))

/-- Whether a pool slot belongs to a context: its ray's frame does. -/
def rayIn (p : Part) (c : Nat) (r : Ray) : Bool := r.loc ≠ .reserved && (framesOf p c).any (fun kf => kf.1 = r.frame)

/-- The slots of the rays that a context's episodes and formations hold. -/
def heldSlots (s : State) (p : Part) (c : Nat) : List Nat :=
  (liveWaves s c).flatMap (fun w => (SMap.vals w.ep).map (·.slot)) ++
  (p.forms.filter (fun f => (formFrame p f).any (fun x => decide (x.2.ctx = c)))).flatMap (·.rays)

/-- Whether all that a switch waits for is done (R360, steps 2 to 5; R199, R298): its rays are out of traversal, and out of
other contexts' episodes (log 113). -/
def quiescent (s : State) (c : Nat) : Bool :=
  let p := partOf s (ctxOf s c).part
  let mine := heldSlots s p c
  (SMap.vals p.allocs).all (fun a => decide (a.ctx ≠ c) || decide (a.copies = 0)) &&
  (liveWaves s c).all (fun w => w.status = .saved) &&
  !(SMap.vals s.channels).any (fun l => l.any (fun j => decide (j.ctx = c))) &&
  !(SMap.vals s.cards).any (fun k => decide (k.ctx = c)) &&
  !(SMap.vals s.cores).any (fun k => k.pushes.any (fun x => decide (x.ctx = c))) &&
  p.rays.all (fun kr => !rayIn p c kr.2 ||
    (match kr.2.loc with | .traversal .. => false | .held => mine.contains kr.1 | _ => true)) &&
  !(SMap.vals s.engines).any (fun e => e.run.any (fun r => decide (r.op.ctx = c) && !r.assist.isEmpty)) &&
  (ctxOf s c).migrations.isEmpty

/-- The index of a cluster in a partition. -/
def clusterIdx (p : Part) (c : Nat) : Nat := p.clusters.findIdx (fun x => x = c)

/-- The index of a core in a partition. -/
def coreIdx (p : Part) (c : Nat) : Nat := 4 * clusterIdx p (c / 4) + c % 4

/-- The core of an index. -/
def coreAt (p : Part) (i : Nat) : Nat := 4 * p.clusters.getD (i / 4) 0 + i % 4

/-- A task with its cores and clusters named by index. -/
def taskOut (p : Part) (t : Task) : Task :=
  { t with core := t.core.map (coreIdx p), home := t.home.map (clusterIdx p), recs := t.recs.map (fun er => (clusterIdx p er.1, er.2)) }

/-- A wave with its place named by index. -/
def waveOut (p : Part) (w : Wave) : Wave :=
  let k := clusterIdx p (w.sys.core.toNat / 4)
  { w with sys := { w.sys with cluster := BitVec.ofNat 6 k, core := BitVec.ofNat 8 (coreIdx p w.sys.core.toNat) } }

/-- The groups of a context's workgroups and single waves. -/
def groupsOf (s : State) (p : Part) (c : Nat) : SMap Group :=
  let mine := (liveWaves s c).map (·.groupKey)
  p.groups.filter (fun kg => mine.contains kg.1 ||
    s.launches.any (fun lx => keyOfLaunch lx.1 kg.1 && decide (lx.2.ctx = c)))

/-- The slots set aside for a context's episodes, formations and spawning lanes. -/
def slotsAside (s : State) (p : Part) (c : Nat) : List Nat :=
  (liveWaves s c).flatMap (fun w => (SMap.vals w.ep).filterMap (·.reserved)) ++
  (p.forms.filter (fun f => (formFrame p f).any (fun x => decide (x.2.ctx = c)))).flatMap (·.slots) ++
  (p.spawns.filter (fun x => (liveWaves s c).any (fun w => w.id = x.wave))).filterMap (·.granted)

/-- The accumulator words of a wave, by its own tiles. -/
def accsOut (e : Engine) (w : Wave) : SMap Word :=
  ((List.range w.tiles.length).zip w.tiles).flatMap (fun it =>
    (e.acc.filter (fun kv => kv.1 / 16384 = it.2)).map (fun kv => ((4 * w.id + it.1) * 16384 + kv.1 % 16384, kv.2)))

/-- The records of an engine that a context's waves and tasks hold. -/
def recsOut (p : Part) (ids tasks : List Nat) (c : Nat) (e : Engine) : List (Nat × Nat × Rec) :=
  (e.recs.filter (fun or => or.2.holder.any ids.contains || or.2.task.any tasks.contains)).map
    (fun or => (clusterIdx p c, or.1, or.2))

/-- The image of a context (R360, steps 4 and 5), in an area of these pages. -/
def imageOf (s : State) (c : Nat) (pages : List Nat) : Image :=
  let p := partOf s (ctxOf s c).part
  let ws := liveWaves s c
  let ids := ws.map (·.id)
  let tasks := p.tasks.filter (fun kt => decide (kt.2.ctx = c))
  let aside := slotsAside s p c
  let es := p.clusters.map (fun k => (k, engineOf s k))
  { ctx := c, pages := pages, clusters := p.clusters.length, p := p.p, t := p.t
    waves := ws.map (waveOut p)
    tasks := tasks.map (fun kt => (kt.1, taskOut p kt.2))
    deques := (p.deques.map (fun kd => (coreIdx p kd.1, kd.2.filter (SMap.keys tasks).contains))).filter (fun kd => !kd.2.isEmpty)
    inc := p.inc, incPub := p.incPub, tickets := p.tickets, pubs := p.pubs
    groups := groupsOf s p c
    allocs := p.allocs.filter (fun ka => decide (ka.2.ctx = c))
    frames := framesOf p c
    rays := p.rays.filter (fun sr => rayIn p c sr.2 || aside.contains sr.1)
    bins := p.bins
    forms := p.forms.filter (fun f => (formFrame p f).any (fun x => decide (x.2.ctx = c)))
    spawns := p.spawns.filter (fun x => ids.contains x.wave)
    ops := es.flatMap (fun ke => ke.2.queue.filter (fun o => decide (o.ctx = c)))
    runs := es.flatMap (fun ke => (ke.2.run.toList ++ ke.2.susp).filter (fun r => decide (r.op.ctx = c)))
    lasts := es.flatMap (fun ke => ke.2.last.filter (fun l => ids.contains l.wave))
    recs := es.flatMap (fun ke => recsOut p ids (SMap.keys tasks) ke.1 ke.2)
    kicks := (ctxOf s c).kicks
    accs := ws.foldl (fun m w => (accsOut (engineOf s (w.sys.core.toNat / 4)) w).foldl (fun m kv => SMap.put m kv.1 kv.2) m) [] }

/-- An engine without a context's waves, tasks and operations. -/
def engineWithout (c : Nat) (ids tasks : List Nat) (e : Engine) : Engine :=
  let mine := (e.owner.filter (fun tw => ids.contains tw.2)).map (·.1)
  { e with
    owner := e.owner.filter (fun tw => !ids.contains tw.2)
    acc := e.acc.filter (fun kv => !mine.contains (kv.1 / 16384))
    recs := e.recs.filter (fun or => !(or.2.holder.any ids.contains || or.2.task.any tasks.contains))
    queue := e.queue.filter (fun o => decide (o.ctx ≠ c))
    run := e.run.filter (fun r => decide (r.op.ctx ≠ c))
    susp := e.susp.filter (fun r => decide (r.op.ctx ≠ c))
    last := e.last.filter (fun l => !ids.contains l.wave) }

/-- A partition without what an image holds. -/
def partWithout (p : Part) (i : Image) : Part :=
  let ids := i.waves.map (·.id)
  { p with
    tasks := p.tasks.filter (fun kt => (SMap.get? i.tasks kt.1).isNone)
    deques := (p.deques.map (fun kd => (kd.1, kd.2.filter (fun e => (SMap.get? i.tasks e).isNone)))).filter (fun kd => !kd.2.isEmpty)
    groups := p.groups.filter (fun kg => (SMap.get? i.groups kg.1).isNone)
    allocs := p.allocs.filter (fun ka => (SMap.get? i.allocs ka.1).isNone)
    frames := p.frames.filter (fun kf => (SMap.get? i.frames kf.1).isNone)
    rays := p.rays.filter (fun sr => (SMap.get? i.rays sr.1).isNone)
    forms := p.forms.filter (fun f => !i.forms.contains f)
    spawns := p.spawns.filter (fun x => !ids.contains x.wave) }

/-- OUT written in every QCW of the allocations of an image, at a key for each vault index and offset (R360, R361). -/
def setOut (key : Nat → Nat → Nat) (out : Bool) (i : Image) (m : Memory) : Memory :=
  (SMap.vals i.allocs).foldl (fun m a => a.qcws.foldl (fun m o =>
    let k := key a.vault (o + 24)
    memSet m k ((memByte m k &&& 0xFE) ||| (if out then 1 else 0))) m) m

/-- The byte of an area that a memory key is, by the area's pages. -/
def areaPos (pages : List Nat) (area key : Nat) : Option Nat :=
  (pages.findIdx? (fun g => decide (g ≤ key) && decide (key < g + 2 ^ 16))).bind (fun q =>
    let k := q * 2 ^ 16 + (key - pages.getD q 0)
    if area % 2 ^ 16 ≤ k then some (k - area % 2 ^ 16) else none)

/-- The place in an image of a vault byte, by its memory key: none where the image does not keep it. -/
def vaultPlace (s : State) (p : Part) (i : Image) (key : Nat) : Option Nat :=
  let off := key % 2 ^ 25
  match p.clusters.findIdx? (fun c => vaultKey s.dieid.toNat c off = key) with
  | none => none
  | some j => if off < Config.vaultShared || (SMap.vals i.allocs).any (fun a => a.holds j off) then some (i.place j off) else none

/-- The vault index and offset of a byte among an image's allocations. -/
def allocUnplace (n : Nat) : List Alloc → Nat × Nat
  | [] => (0, 0)
  | a :: l => if n < a.size then (a.vault, a.start + n) else allocUnplace (n - a.size) l

/-- The vault index and offset of a byte of an image: `Image.place` undone. -/
def Image.unplace (i : Image) (k : Nat) : Nat × Nat :=
  if k < i.clusters * Config.vaultShared then (k / Config.vaultShared, k % Config.vaultShared)
  else allocUnplace (k - i.clusters * Config.vaultShared) (SMap.vals i.allocs)

/-- The bytes of some keys moved to others: what stood in the place of them is gone. -/
def memMap (to_ : Nat → Option Nat) (there : Nat → Bool) (m : Memory) : Memory :=
  m.foldl (fun n kb => match to_ kb.1 with | some k => memSet n k kb.2 | none => n) (m.filter (fun kb => !there kb.1))

/-- The bytes of a context's B-slices and allocations written to its image, of `n` such bytes. -/
def vaultsOut (s : State) (p : Part) (area n : Nat) (i : Image) : Memory :=
  memMap (fun k => (vaultPlace s p i k).map (areaKey i.pages area))
    (fun k => (areaPos i.pages area k).any (fun x => decide (x < n))) s.mem

/-- Those bytes written back from the image to the vaults of the same indexes (R361). -/
def vaultsIn (s : State) (p : Part) (area : Nat) (i : Image) : Memory :=
  let n := (SMap.vals i.allocs).foldl (fun n a => n + a.size) (i.clusters * Config.vaultShared)
  let back (x : Nat) : Nat :=
    let jo := i.unplace x
    vaultKey s.dieid.toNat (p.clusters.getD jo.1 0) jo.2
  memMap (fun k => ((areaPos i.pages area k).filter (fun x => decide (x < n))).map back) (fun k => (vaultPlace s p i k).isSome) s.mem

/-- A free byte. -/
def freeByteAt (k n : Nat) : Byte := (Config.freeWord (k + n / 8)).extractLsb' (8 * (n % 8)) 8

/-- The rest of an image, `n` bytes from its byte `data`: free bytes (log 8). -/
def fillRest (s : State) (pages : List Nat) (area data n : Nat) : State :=
  { s with
    mem := (List.range n).foldl (fun m k => memSet m (areaKey pages area (data + k)) (freeByteAt s.free k)) s.mem
    free := s.free + n / 8 + 1 }

/-- The cores whose deque an image takes entries from are idle from now on (R319). -/
def idleDeques (s : State) (p : Part) (i : Image) : State :=
  i.deques.foldl (fun s kd => modCore s (coreAt p kd.1) (fun c => { c with idleSince := s.clock })) s

/-- A switch whose work is done: the image is written, the context's tables and places are given up, and the
command completes with the size used (R360). A pool slot that the image takes away reaches whoever waits for one (R333).
Where the area can no longer be written, the switch waits (log 8). -/
def finishSwitch (s : State) (c : Nat) : State :=
  let x := ctxOf s c
  let area := x.image.getD 0
  let p := partOf s x.part
  match x.switching with
  | none => s
  | some (ctx, n) =>
    match areaPages s ctx (dw area) (imageSize s c x.switchSince) with
    | none => s
    | some pages =>
      let size := imageSize s c x.switchSince
      let data := imageData s c
      let i := imageOf s c pages
      let ids := i.waves.map (·.id)
      let s := { s with
        mem := setOut (imageKey area i) true i (vaultsOut s p area data i)
        w := if ids.contains s.w.id then Wave.empty else s.w
        waves := s.waves.filter (fun kw => !ids.contains kw.1)
        engines := s.engines.map (fun ke => (ke.1, engineWithout c ids (SMap.keys i.tasks) ke.2))
        images := SMap.put s.images area i }
      let s := fillRest s pages area data (size - data)
      let s := idleDeques (modPart s x.part (fun p => partWithout p i)) p i
      let s := (SMap.keys i.rays).foldl (fun s k => freeSlot s x.part k) s
      let s := modCtx s c (fun x => { x with resident := false, switching := none })
      completeCmd s ctx n 0 (BitVec.ofNat 128 size)

/-! ### RESTORE (R361) -/

/-- RESTORE: it starts when the area holds an image of the context, the partition is as it was, and the context
is switched out, or idle since its endpoint was made (R380). -/
def execRestore (h : Hdr) (area w3 : BitVec 64) (s : State) : Result :=
  .next (command s h 0x0012 false (zeroBits w3 63 16) (fun s ctx n =>
    let c := w3.toNat
    let x := ctxOf s c
    let p := partOf s (ctxOf s ctx).part
    let fits := match SMap.get? s.images area.toNat with
      | some i => decide (i.ctx = c) && decide (i.clusters = p.clusters.length) && decide (i.p = p.p) && decide (i.t = p.t)
      | none => false
    if sameMachine s ctx c && fits && x.switching.isNone && x.restoring.isNone && !(ctxBusy s c && decide (c ≠ ctx)) then
      modCtx s c (fun x => { x with restoring := some (ctx, n), image := some area.toNat })
    else completeCmd s ctx n 6 0))

/-- What a wave takes of a core, as a kernel's descriptor says it. -/
def Wave.needs (w : Wave) : KDesc :=
  { entry := 0, lbase := 0, sbase := 0, ephBase := 0, ephCnt := 0, vregs := w.rows, sregs := 1, acc := w.accs,
    accF64 := w.accF64, groups := 1, scratch := 0 }

/-- Whether two tasks of an image share a split task's holdings, or are one (R314). -/
def Image.sameShare (i : Image) (e f : Nat) : Bool :=
  e == f || (match SMap.get? i.tasks e, SMap.get? i.tasks f with
    | some t, some u => t.shares.isSome && t.shares == u.shares
    | _, _ => false)

/-- The records of a wave's cluster that an image keeps for it: those it holds, and those that its task shares (R199,
R314). -/
def Image.recsOf (i : Image) (w : Wave) : List (Nat × Rec) :=
  (i.recs.filter (fun r => decide (r.1 = w.sys.cluster.toNat) && (r.2.2.holder = some w.id ||
    (match r.2.2.task, w.task with | some e, some f => i.sameShare e f | _, _ => false)))).map (·.2)

/-- The cluster where a record of an image has been placed already. -/
def recHome (s : State) (part : Nat) (r : Nat × Rec) : Option Nat :=
  (clustersOf (partOf s part)).find? (fun c => SMap.get? (engineOf s c).recs r.1 = some r.2)

/-- Whether a cluster's engine has record numbers and granules free, but for records that are placed there already
(R199). -/
def recsFit (s : State) (part c : Nat) (rs : List (Nat × Rec)) : Bool :=
  let e := engineOf s c
  rs.all (fun r => match recHome s part r with
    | some d => decide (d = c)
    | none => (SMap.get? e.recs r.1).isNone) &&
  decide ((rs.filter (fun r => (recHome s part r).isNone)).foldl (fun n r => n + r.2.gran) 0 ≤ e.freeGran)

/-- Tiles of an operation, from a wave's old ones to its new ones. -/
def retile (old new ts : List Nat) : List Nat := ts.map (fun t => new.getD (old.findIdx (fun x => x = t)) 0)

/-- A saved wave placed on a core: its registers as they were, its place and LLS new. Its operations follow those of the
queue, however many it holds (log 99). -/
def placeSaved (s : State) (part core : Nat) (tiles : List Nat) (i : Image) (w : Wave) : State :=
  let c := core / 4
  let s := invalidateL1 s core
  let sys : Sys := { w.sys with lls := 0, cluster := BitVec.ofNat 6 c, core := BitVec.ofNat 8 core, slot := pickSlot s core }
  let w' : Wave :=
    { w with status := .ready, preq := false, part := part, age := s.nextWave, sys := sys, tiles := tiles, lastIssue := s.clock, starved := false,
             yieldEnd := 0, epoch := (coreOf s core).epoch + 1 }
  let s := modCore s core (fun k => { k with epoch := k.epoch + 1, gate := .on, idleSince := s.clock })
  let words := ((List.range tiles.length).zip tiles).flatMap (fun it =>
    (i.accs.filter (fun kv => kv.1 / 16384 = 4 * w.id + it.1)).map (fun kv => (it.2 * 16384 + kv.1 % 16384, kv.2)))
  let fix (o : MOp) : MOp := { o with part := part, tiles := retile w.tiles tiles o.tiles }
  let s := modEngine s c (fun e =>
    { e with
      owner := tiles.foldl (fun m t => SMap.put m t w.id) e.owner
      acc := words.foldl (fun m kv => SMap.put m kv.1 kv.2) (e.acc.filter (fun kv => !tiles.contains (kv.1 / 16384)))
      recs := (i.recsOf w).foldl (fun m r => SMap.put m r.1 r.2) e.recs
      queue := e.queue ++ (i.ops.filter (fun o => o.wave = w.id)).map fix
      susp := e.susp ++ (i.runs.filter (fun r => r.op.wave = w.id)).map (fun r => { r with op := fix r.op })
      last := i.lasts.filter (fun l => l.wave = w.id) ++ e.last })
  { s with waves := SMap.put s.waves w.id w', nextWave := s.nextWave + 1 }

/-- Saved waves placed in order on the first core, of those each may take, that has what it needs. -/
def placeSavedAll (part : Nat) (cores : Wave → List Nat) (i : Image) : State → List Wave → Option State
  | s, [] => some s
  | s, w :: l =>
    match (cores w).findSome? (fun c =>
      if recsFit s part (c / 4) (i.recsOf w) then (coreFits s c w.needs).map (fun t => (c, t)) else none) with
    | none => none
    | some (c, t) => placeSavedAll part cores i (placeSaved s part c t i w) l

/-- Whether an image holds a multiplication of a wave that takes B from its cluster's slices (R361). -/
def sliceOp (i : Image) (id : Nat) : Bool :=
  (i.ops ++ i.runs.map (·.op)).any (fun o => o.wave = id &&
    (match o.kind with | .mma _ none .. => true | .mmas _ none .. => true | _ => false))

/-- The workgroups of an image's waves, in wave order: by launch and number, or a wave alone. -/
def waveGroups (ws : List Wave) : List (List Wave) :=
  (sortBy (fun a b => decide (a.id ≤ b.id)) ws).foldl (fun gs w =>
    match gs.findIdx? (fun g => g.head?.any (fun x => x.kind = .grid && w.kind = .grid && x.launch = w.launch && x.wg = w.wg)) with
    | some k => gs.modify k (· ++ [w])
    | none => gs ++ [[w]]) []

/-- The cores of the cluster of the index that a wave was saved from. -/
def oldCores (p : Part) (w : Wave) : List Nat := clusterCores (p.clusters.getD w.sys.cluster.toNat 0)

/-- The waves of a workgroup that need no slices of their old cluster, placed by the rules of R28 and R29; in the cluster
of those that do, where they are placed already. -/
def placeSavedGroup (part : Nat) (i : Image) (s : State) (g : List Wave) : Option State :=
  let p := partOf s part
  let k := (g.head?.getD Wave.empty).needs
  let coop := g.any (·.coop)
  let lists := match g.find? (fun w => sliceOp i w.id) with
    | some w => if coop then [coopCores s p k] else [oldCores p w]
    | none => coreLists s p k coop
  lists.findSome? (fun cs => placeSavedAll part (fun _ => cs) i s (g.filter (fun w => !sliceOp i w.id)))

/-- The waves of an image placed: first those that need the slices of their old cluster (R361), then the rest, workgroup by
workgroup, and so that each that shares records finds them in its cluster (R199). Where that fails, each on the core of the
index it was saved from, which serves whenever the partition is free. -/
def placeSavedWaves (s : State) (part : Nat) (i : Image) : Option State :=
  let p := partOf s part
  let gs := waveGroups i.waves
  let fresh :=
    (placeSavedAll part (oldCores p) i s (gs.flatten.filter (fun w => sliceOp i w.id))).bind (fun s =>
      gs.foldlM (placeSavedGroup part i) s)
  match fresh with
  | some t => some t
  | none => placeSavedAll part (fun w => [coreAt p w.sys.core.toNat]) i s gs.flatten

/-- Whether the indexes and ranges an image needs are free (R361). -/
def rangesFree (p : Part) (i : Image) : Bool :=
  (SMap.vals i.allocs).all (fun a => (footprints p a.vault).all (fun f =>
    decide (a.start + a.size + 256 ≤ f.1) || decide (f.2 ≤ a.start - 256))) &&
  (SMap.keys i.tasks).all (fun e => (SMap.get? p.tasks e).isNone) &&
  (SMap.keys i.frames).all (fun f => (SMap.get? p.frames f).isNone) &&
  (SMap.keys i.rays).all (fun r => (SMap.get? p.rays r).isNone)

/-- A saved task in a partition: allocation and share numbers moved on, cores and clusters by number; a running task is
where its wave now is, and its records are where they have been placed. -/
def taskIn (s : State) (part base : Nat) (i : Image) (t : Task) : Task :=
  let p := partOf s part
  let core := match t.wave.bind (waveOf s) with
    | some w => some w.sys.core.toNat
    | none => t.core.map (coreAt p)
  let place (er : Nat × Nat) : Nat × Nat :=
    match (i.recs.find? (fun r => r.1 = er.1 && r.2.1 = er.2)).bind (fun r => recHome s part r.2) with
    | some c => (c, er.2)
    | none => (p.clusters.getD er.1 0, er.2)
  { t with core := core, home := t.home.map (fun k => p.clusters.getD k 0), recs := t.recs.map place,
           alloc := t.alloc.map (· + base), shares := t.shares.map (· + p.seq) }

/-- A map with another's entries put in. -/
def putAll {α : Type} (m n : SMap α) : SMap α := n.foldl (fun m kv => SMap.put m kv.1 kv.2) m

/-- The records of an image that no wave has brought with it: those reserved for tasks that have no wave yet. -/
def Image.taskRecs (i : Image) (s : State) (part : Nat) : List (Nat × Nat × Rec) :=
  i.recs.filter (fun r => r.2.2.holder.isNone && (recHome s part r.2).isNone)

/-- Whether their numbers and granules are free in the clusters of their indexes (R199). -/
def taskRecsFit (s : State) (part : Nat) (i : Image) : Bool :=
  let p := partOf s part
  (List.range p.clusters.length).all (fun k =>
    recsFit s part (p.clusters.getD k 0) (((i.taskRecs s part).filter (fun r => r.1 = k)).map (·.2)))

/-- Those records placed. -/
def placeTaskRecs (s : State) (part : Nat) (i : Image) : State :=
  (i.taskRecs s part).foldl (fun s r =>
    modEngine s ((partOf s part).clusters.getD r.1 0) (fun e => { e with recs := SMap.put e.recs r.2.1 r.2.2 })) s

/-- A ray of an image back where it was: in the bin of its hit's shader or of its own key, or held. -/
def restoreRay (s : State) (part : Nat) (i : Image) (sr : Nat × Ray) : State :=
  match sr.2.loc with
  | .bin b =>
    if (SMap.get? i.bins b).any (·.shade) then fileRay s part sr.1 sr.2 true sr.2.shader else enterTraversal s part sr.1 sr.2
  | _ => modPart s part (fun p => { p with rays := SMap.put p.rays sr.1 sr.2 })

/-- The rays of an image, oldest first. -/
def restoreRays (s : State) (part : Nat) (i : Image) : State :=
  (sortBy (fun a b => decide (a.2.seq ≤ b.2.seq)) i.rays).foldl (fun s sr => restoreRay s part i sr) s

/-- Free slots given to those that wait for one, while there are any of both (R333). -/
def grantSlots (part : Nat) : Nat → State → State
  | 0, s => s
  | n + 1, s =>
    match takeSlot (partOf s part) ((partOf s part).clusters.getD 0 0) with
    | none => s
    | some k => grantSlots part n (freeSlot s part k)

/-- The greatest number of a list. -/
def maxOf (l : List Nat) : Nat := l.foldl Nat.max 0

/-- The tables of an image put back in a partition; counters never fall (R240), later entries, share groups and rays are
numbered after restored ones (R310, R311, R314), incumbent copies take the restored values, and as the Orrery's may be Better
a sweep begins (R345). -/
def restoreTables (s : State) (part base : Nat) (i : Image) : State :=
  modPart s part (fun p =>
    let tasks := i.tasks.map (fun kt => (kt.1, taskIn s part base i kt.2))
    { p with
      tasks := putAll p.tasks tasks
      seq := Nat.max p.seq (1 + maxOf ((SMap.vals tasks).flatMap (fun t => t.seq :: t.shares.toList)))
      deques := i.deques.foldl (fun m kd => SMap.put m (coreAt p kd.1) (SMap.getD m (coreAt p kd.1) [] ++ kd.2)) p.deques
      inc := i.inc, incPub := i.incPub, incOrrery := i.inc, incSince := [], sweepLeft := Config.taskEntries
      incCore := (coresOf p).foldl (fun m c => (List.range 8).foldl (fun m k => SMap.put m (c * 8 + k)
        (SMap.getD i.inc k (Inc.reset false))) m) p.incCore
      tickets := Nat.max p.tickets i.tickets, pubs := Nat.max p.pubs i.pubs
      groups := putAll p.groups i.groups
      allocs := putAll p.allocs (i.allocs.map (fun ka => (ka.1 + base, ka.2)))
      nextAlloc := base + (SMap.keys i.allocs).foldl (fun n k => Nat.max n (k + 1)) 0
      frames := putAll p.frames i.frames
      raySeq := Nat.max p.raySeq (1 + maxOf ((SMap.vals i.frames).flatMap (fun f => f.spill.map (·.2.seq))))
      forms := p.forms ++ i.forms
      spawns := p.spawns ++ i.spawns })

/-- A restore, when everything it needs is free: vault bytes first, tables next, waves last; none while it must
wait, as where a block that waits has reserved the capacity of the partition (R29). -/
def finishRestore (s : State) (c : Nat) : Option State :=
  let x := ctxOf s c
  let area := x.image.getD 0
  match SMap.get? s.images area with
  | none => none
  | some i =>
    let p := partOf s x.part
    if !rangesFree p i || ((reservedBlock s x.part).isSome && !i.waves.isEmpty) then none
    else
      match placeSavedWaves s x.part i with
      | none => none
      | some s =>
        if !taskRecsFit s x.part i then none else
        let base := p.nextAlloc
        let key (j off : Nat) : Nat := vaultKey s.dieid.toNat (p.clusters.getD j 0) off
        let s := { s with mem := setOut key false i (vaultsIn s p area i) }
        let s := restoreTables (placeTaskRecs s x.part i) x.part base i
        let s := restoreRays s x.part i
        let s := grantSlots x.part (i.spawns.length + 32 * i.forms.length) s
        let s := i.deques.foldl (fun s kd => wakeCore s (coreAt p kd.1)) s
        let s := { s with launches := s.launches.map (fun lx =>
          if lx.2.ctx = c then (lx.1, { lx.2 with part := x.part, alloc := lx.2.alloc.map (· + base) }) else lx) }
        let kicks := i.kicks.map (fun kv => (kv.1, kv.2.map (fun k => { k with part := x.part })))
        some (modCtx s c (fun x => { x with resident := true, restoring := none, image := none, kicks := kicks }))

/-! ### COMMAND_COMPLETE (R377) -/

/-- FENCEs of a ring whose earlier commands have all completed complete. -/
def finishFences (s : State) (ctx : Nat) : State :=
  let cs := (ctxOf s ctx).cmds
  cs.foldl (fun s nc =>
    if nc.2.fence && !nc.2.done && cs.all (fun mc => decide (nc.1 ≤ mc.1) || mc.2.done) then completeCmd s ctx nc.1 0 0 else s) s

/-- Switches and restores that a ring ordered and that can now finish. -/
def finishMoves (s : State) (ctx : Nat) : State :=
  (SMap.keys s.contexts).foldl (fun s c =>
    let x := ctxOf s c
    if x.switching.any (fun o => o.1 = ctx) && quiescent s c then finishSwitch s c
    else match x.restoring with
      | some (o, n) => if o = ctx then (match finishRestore s c with | some t => completeCmd t ctx n 0 0 | none => s) else s
      | none => s) s

/-- Whether a completion record can be posted now. -/
def canPost (s : State) (ctx : Nat) : Bool := !(ctxOf s ctx).doneQ.isEmpty && completionRoom s ctx

/-- COMMAND_COMPLETE: endpoint n: what its commands wait for is finished where it can be, and the oldest
completed command's record is written, as a release (R377). -/
def execCommandComplete (s : State) : Result :=
  let ctx := s.target.n
  let s := finishMoves (finishFences s ctx) ctx
  .next (if !canPost s ctx then s
    else
      let s := if ctx = fmCtx then s else (publishCo s (ctxOf s ctx).part).1
      postCompletion s ctx)

end Sys2Proof.Machine
end

