-- ==== Sys2Proof/Machine/ScalarAlu.lean ====
section
/-! DEFINITION. Scalar register arithmetic, immediates, comparisons and condition logic (06, R107 to
R116): each waits under R93, has its effect and goes on to the next word. -/

namespace Sys2Proof.Machine

/-! ### Shared forms -/

/-- sd := f sa sb (R109). -/
def aluR (s : State) (d a b : BitVec 8) (f : DWord → DWord → DWord) : State :=
  scalarOp s [a.toNat, b.toNat] d.toNat (fun s => advance (setS s d.toNat (f (getS s.w a.toNat) (getS s.w b.toNat))))

/-- sd := f sa (R110, R112, R113). -/
def aluU (s : State) (d a : BitVec 8) (f : DWord → DWord) : State :=
  scalarOp s [a.toNat] d.toNat (fun s => advance (setS s d.toNat (f (getS s.w a.toNat))))

/-- sd := f sa x, x the sign-extended immediate (R112). -/
def aluI (s : State) (d a : BitVec 8) (i : BitVec 10) (f : DWord → DWord → DWord) : State :=
  aluU s d a (fun x => f x (i.signExtend 64))

/-- The high half of a product (R109). -/
def mulHigh (x y : Int) : DWord := dwI (x * y / 2 ^ 64)

/-- A comparison into c[cd] (R115); a cd or code outside its range is ILLEGAL. -/
def compareInto (s : State) (d : BitVec 3) (c : BitVec 5) (rs : List Nat) (x y : DWord) : State :=
  if 5 < d.toNat || 11 < c.toNat then illegal s
  else scalarRead s rs (fun s => advance (setC s d.toNat (compareCode c.toNat x y)))

/-- The result of MOVK: sixteen bits of x replaced (R114). -/
def movkResult (x : DWord) (h : BitVec 2) (i : BitVec 16) : DWord :=
  (x &&& ~~~ ((0xFFFF : DWord) <<< (16 * h.toNat))) ||| (i.setWidth 64 <<< (16 * h.toNat))

/-! ### Register-register arithmetic (Table 06-9) -/

/-- ADD (R109). -/
def execAdd (d a b : BitVec 8) (s : State) : Result :=
  .next (aluR s d a b (fun x y => x + y))

/-- SUB (R109). -/
def execSub (d a b : BitVec 8) (s : State) : Result :=
  .next (aluR s d a b (fun x y => x - y))

/-- AND (R109). -/
def execAnd (d a b : BitVec 8) (s : State) : Result :=
  .next (aluR s d a b (fun x y => x &&& y))

/-- OR (R109). -/
def execOr (d a b : BitVec 8) (s : State) : Result :=
  .next (aluR s d a b (fun x y => x ||| y))

/-- XOR (R109). -/
def execXor (d a b : BitVec 8) (s : State) : Result :=
  .next (aluR s d a b (fun x y => x ^^^ y))

/-- SHL: the count is sb[5:0] (R109). -/
def execShl (d a b : BitVec 8) (s : State) : Result :=
  .next (aluR s d a b (fun x y => x <<< (y.toNat % 64)))

/-- SHR (R109). -/
def execShr (d a b : BitVec 8) (s : State) : Result :=
  .next (aluR s d a b (fun x y => x >>> (y.toNat % 64)))

/-- SAR (R109). -/
def execSar (d a b : BitVec 8) (s : State) : Result :=
  .next (aluR s d a b (fun x y => x.sshiftRight (y.toNat % 64)))

/-- MUL (R109). -/
def execMul (d a b : BitVec 8) (s : State) : Result :=
  .next (aluR s d a b (fun x y => x * y))

/-- MULH: bits [127:64] of the signed product (R109). -/
def execMulh (d a b : BitVec 8) (s : State) : Result :=
  .next (aluR s d a b (fun x y => mulHigh x.toInt y.toInt))

/-- MULHU: bits [127:64] of the unsigned product (R109). -/
def execMulhu (d a b : BitVec 8) (s : State) : Result :=
  .next (aluR s d a b (fun x y => mulHigh x.toNat y.toNat))

/-- ANDN (R109). -/
def execAndn (d a b : BitVec 8) (s : State) : Result :=
  .next (aluR s d a b (fun x y => x &&& ~~~ y))

/-- MIN, signed (R109). -/
def execMin (d a b : BitVec 8) (s : State) : Result :=
  .next (aluR s d a b (fun x y => if x.sle y then x else y))

/-- MAX, signed (R109). -/
def execMax (d a b : BitVec 8) (s : State) : Result :=
  .next (aluR s d a b (fun x y => if x.sle y then y else x))

/-- MINU (R109). -/
def execMinu (d a b : BitVec 8) (s : State) : Result :=
  .next (aluR s d a b (fun x y => if x.ule y then x else y))

/-- MAXU (R109). -/
def execMaxu (d a b : BitVec 8) (s : State) : Result :=
  .next (aluR s d a b (fun x y => if x.ule y then y else x))

/-! ### One operand (R110), SEL (R111) -/

/-- POPC (R110). -/
def execPopc (d a : BitVec 8) (s : State) : Result :=
  .next (aluU s d a (fun x => dw (popcount x)))

/-- CLZ (R110). -/
def execClz (d a : BitVec 8) (s : State) : Result :=
  .next (aluU s d a (fun x => dw (leadingZeros x)))

/-- CTZ (R110). -/
def execCtz (d a : BitVec 8) (s : State) : Result :=
  .next (aluU s d a (fun x => dw (trailingZeros x)))

/-- BREV (R110). -/
def execBrev (d a : BitVec 8) (s : State) : Result :=
  .next (aluU s d a (fun x => bitReverse x))

/-- SEL: sa when c[n] reads 1, sb otherwise (R111). -/
def execSel (d a b : BitVec 8) (n : BitVec 2) (s : State) : Result :=
  .next (aluR s d a b (fun x y => if getC s.w n.toNat then x else y))

/-! ### Immediates (R112 to R114) -/

/-- ADDI (R112). -/
def execAddi (d a : BitVec 8) (i : BitVec 10) (s : State) : Result :=
  .next (aluI s d a i (fun x y => x + y))

/-- ANDI (R112). -/
def execAndi (d a : BitVec 8) (i : BitVec 10) (s : State) : Result :=
  .next (aluI s d a i (fun x y => x &&& y))

/-- ORI (R112). -/
def execOri (d a : BitVec 8) (i : BitVec 10) (s : State) : Result :=
  .next (aluI s d a i (fun x y => x ||| y))

/-- XORI (R112). -/
def execXori (d a : BitVec 8) (i : BitVec 10) (s : State) : Result :=
  .next (aluI s d a i (fun x y => x ^^^ y))

/-- MULI (R112). -/
def execMuli (d a : BitVec 8) (i : BitVec 10) (s : State) : Result :=
  .next (aluI s d a i (fun x y => x * y))

/-- SHLI (R113). -/
def execShli (d a : BitVec 8) (n : BitVec 6) (s : State) : Result :=
  .next (aluU s d a (fun x => x <<< n.toNat))

/-- SHRI (R113). -/
def execShri (d a : BitVec 8) (n : BitVec 6) (s : State) : Result :=
  .next (aluU s d a (fun x => x >>> n.toNat))

/-- SARI (R113). -/
def execSari (d a : BitVec 8) (n : BitVec 6) (s : State) : Result :=
  .next (aluU s d a (fun x => x.sshiftRight n.toNat))

/-- ROTI: a rotation left by n (R113). -/
def execRoti (d a : BitVec 8) (n : BitVec 6) (s : State) : Result :=
  .next (aluU s d a (fun x => x.rotateLeft n.toNat))

/-- MOVZ (R114). -/
def execMovz (d : BitVec 8) (h : BitVec 2) (i : BitVec 16) (s : State) : Result :=
  .next (scalarOp s [] d.toNat (fun s => advance (setS s d.toNat (i.setWidth 64 <<< (16 * h.toNat)))))

/-- MOVK (R114). -/
def execMovk (d : BitVec 8) (h : BitVec 2) (i : BitVec 16) (s : State) : Result :=
  .next (aluU s d d (fun x => movkResult x h i))

/-! ### Comparisons and condition logic (R115, R116) -/

/-- CMP (R115). -/
def execCmp (d : BitVec 3) (c : BitVec 5) (a b : BitVec 8) (s : State) : Result :=
  .next (compareInto s d c [a.toNat, b.toNat] (getS s.w a.toNat) (getS s.w b.toNat))

/-- CMPI (R115). -/
def execCmpi (d : BitVec 3) (c : BitVec 5) (a : BitVec 8) (i : BitVec 10) (s : State) : Result :=
  .next (compareInto s d c [a.toNat] (getS s.w a.toNat) (i.signExtend 64))

/-- CLOG (R116). -/
def execClog (d a b : BitVec 3) (t : BitVec 4) (s : State) : Result :=
  .next (if 5 < d.toNat then illegal s
    else advance (setC s d.toNat (clogBit t (getC s.w a.toNat) (getC s.w b.toNat))))

end Sys2Proof.Machine
end

