-- ==== Sys2Proof/Machine/Dispatch.lean ====
section
/-! DEFINITION. One arm per instruction: a direct call of its meaning. -/

namespace Sys2Proof.Machine

/-- The meaning of an instruction. -/
def exec (i : Instr) (s : State) : Host.Outcome State Fault Refusal :=
  match i with
  | .add d a b => Sys2Proof.Machine.execAdd d a b s
  | .sub d a b => Sys2Proof.Machine.execSub d a b s
  | .and d a b => Sys2Proof.Machine.execAnd d a b s
  | .or d a b => Sys2Proof.Machine.execOr d a b s
  | .xor d a b => Sys2Proof.Machine.execXor d a b s
  | .shl d a b => Sys2Proof.Machine.execShl d a b s
  | .shr d a b => Sys2Proof.Machine.execShr d a b s
  | .sar d a b => Sys2Proof.Machine.execSar d a b s
  | .mul d a b => Sys2Proof.Machine.execMul d a b s
  | .mulh d a b => Sys2Proof.Machine.execMulh d a b s
  | .mulhu d a b => Sys2Proof.Machine.execMulhu d a b s
  | .andn d a b => Sys2Proof.Machine.execAndn d a b s
  | .min d a b => Sys2Proof.Machine.execMin d a b s
  | .max d a b => Sys2Proof.Machine.execMax d a b s
  | .minu d a b => Sys2Proof.Machine.execMinu d a b s
  | .maxu d a b => Sys2Proof.Machine.execMaxu d a b s
  | .popc d a => Sys2Proof.Machine.execPopc d a s
  | .clz d a => Sys2Proof.Machine.execClz d a s
  | .ctz d a => Sys2Proof.Machine.execCtz d a s
  | .brev d a => Sys2Proof.Machine.execBrev d a s
  | .sel d a b n => Sys2Proof.Machine.execSel d a b n s
  | .addi d a imm => Sys2Proof.Machine.execAddi d a imm s
  | .andi d a imm => Sys2Proof.Machine.execAndi d a imm s
  | .ori d a imm => Sys2Proof.Machine.execOri d a imm s
  | .xori d a imm => Sys2Proof.Machine.execXori d a imm s
  | .shli d a n => Sys2Proof.Machine.execShli d a n s
  | .shri d a n => Sys2Proof.Machine.execShri d a n s
  | .sari d a n => Sys2Proof.Machine.execSari d a n s
  | .roti d a n => Sys2Proof.Machine.execRoti d a n s
  | .muli d a imm => Sys2Proof.Machine.execMuli d a imm s
  | .movz d h imm => Sys2Proof.Machine.execMovz d h imm s
  | .movk d h imm => Sys2Proof.Machine.execMovk d h imm s
  | .cmp d c a b => Sys2Proof.Machine.execCmp d c a b s
  | .cmpi d c a imm => Sys2Proof.Machine.execCmpi d c a imm s
  | .clog d a b t => Sys2Proof.Machine.execClog d a b t s
  | .brc n c o => Sys2Proof.Machine.execBrc n c o s
  | .call o => Sys2Proof.Machine.execCall o s
  | .jmpr a => Sys2Proof.Machine.execJmpr a s
  | .callr a => Sys2Proof.Machine.execCallr a s
  | .lrun n imm => Sys2Proof.Machine.execLrun n imm s
  | .lnext n => Sys2Proof.Machine.execLnext n s
  | .mpush p => Sys2Proof.Machine.execMpush p s
  | .msets a => Sys2Proof.Machine.execMsets a s
  | .mget d => Sys2Proof.Machine.execMget d s
  | .ballot d p => Sys2Proof.Machine.execBallot d p s
  | .vpset a p => Sys2Proof.Machine.execVpset a p s
  | .tloop v o => Sys2Proof.Machine.execTloop v o s
  | .srfl d v => Sys2Proof.Machine.execSrfl d v s
  | .slane d v a => Sys2Proof.Machine.execSlane d v a s
  | .sld d a o => Sys2Proof.Machine.execSld d a o s
  | .sldw d a o => Sys2Proof.Machine.execSldw d a o s
  | .sst sr a o => Sys2Proof.Machine.execSst sr a o s
  | .sstw sr a o => Sys2Proof.Machine.execSstw sr a o s
  | .saadd d a b o => Sys2Proof.Machine.execSaadd d a b o s
  | .saswp d a b o => Sys2Proof.Machine.execSaswp d a b o s
  | .sacas d a b o => Sys2Proof.Machine.execSacas d a b o s
  | .samaxu d a b o => Sys2Proof.Machine.execSamaxu d a b o s
  | .fence sr o a b => Sys2Proof.Machine.execFence sr o a b s
  | .srd d r => Sys2Proof.Machine.execSrd d r s
  | .swr sr r => Sys2Proof.Machine.execSwr sr r s
  | .blinktrig sr => Sys2Proof.Machine.execBlinktrig sr s
  | .trap imm => Sys2Proof.Machine.execTrap imm s
  | .bar g a => Sys2Proof.Machine.execBar g a s
  | .bara g a => Sys2Proof.Machine.execBara g a s
  | .barw g => Sys2Proof.Machine.execBarw g s
  | .oresa d a n => Sys2Proof.Machine.execOresa d a n s
  | .oresb d a n => Sys2Proof.Machine.execOresb d a n s
  | .orel n => Sys2Proof.Machine.execOrel n s
  | .orec d n => Sys2Proof.Machine.execOrec d n s
  | .tsubmit d a => Sys2Proof.Machine.execTsubmit d a s
  | .tsignal a => Sys2Proof.Machine.execTsignal a s
  | .rtake d a => Sys2Proof.Machine.execRtake d a s
  | .tcancel a => Sys2Proof.Machine.execTcancel a s
  | .incup d a b => Sys2Proof.Machine.execIncup d a b s
  | .incrd d a => Sys2Proof.Machine.execIncrd d a s
  | .bndchk d a b => Sys2Proof.Machine.execBndchk d a b s
  | .incrst a => Sys2Proof.Machine.execIncrst a s
  | .qbind sr q => Sys2Proof.Machine.execQbind sr q s
  | .qcnt sr q => Sys2Proof.Machine.execQcnt sr q s
  | .qpushs sr q => Sys2Proof.Machine.execQpushs sr q s
  | .qpops sr q => Sys2Proof.Machine.execQpops sr q s
  | .gcfg sr g => Sys2Proof.Machine.execGcfg sr g s
  | .gstart g => Sys2Proof.Machine.execGstart g s
  | .gstop g => Sys2Proof.Machine.execGstop g s
  | .gstat sr g => Sys2Proof.Machine.execGstat sr g s
  | .vadd x => Sys2Proof.Machine.execVadd x s
  | .vsub x => Sys2Proof.Machine.execVsub x s
  | .vmul x => Sys2Proof.Machine.execVmul x s
  | .vmulh x => Sys2Proof.Machine.execVmulh x s
  | .vmulhu x => Sys2Proof.Machine.execVmulhu x s
  | .vmad x => Sys2Proof.Machine.execVmad x s
  | .vand x => Sys2Proof.Machine.execVand x s
  | .vor x => Sys2Proof.Machine.execVor x s
  | .vxor x => Sys2Proof.Machine.execVxor x s
  | .vandn x => Sys2Proof.Machine.execVandn x s
  | .vshl x => Sys2Proof.Machine.execVshl x s
  | .vshr x => Sys2Proof.Machine.execVshr x s
  | .vsar x => Sys2Proof.Machine.execVsar x s
  | .vmin x => Sys2Proof.Machine.execVmin x s
  | .vmax x => Sys2Proof.Machine.execVmax x s
  | .vminu x => Sys2Proof.Machine.execVminu x s
  | .vmaxu x => Sys2Proof.Machine.execVmaxu x s
  | .vpopc x => Sys2Proof.Machine.execVpopc x s
  | .vclz x => Sys2Proof.Machine.execVclz x s
  | .vbrev x => Sys2Proof.Machine.execVbrev x s
  | .vbfe x => Sys2Proof.Machine.execVbfe x s
  | .vbfi x => Sys2Proof.Machine.execVbfi x s
  | .vcmp x => Sys2Proof.Machine.execVcmp x s
  | .vsel x => Sys2Proof.Machine.execVsel x s
  | .vmov x => Sys2Proof.Machine.execVmov x s
  | .vadd64 x => Sys2Proof.Machine.execVadd64 x s
  | .vsub64 x => Sys2Proof.Machine.execVsub64 x s
  | .vmul64 x => Sys2Proof.Machine.execVmul64 x s
  | .vshl64 x => Sys2Proof.Machine.execVshl64 x s
  | .vshr64 x => Sys2Proof.Machine.execVshr64 x s
  | .vlaneid x => Sys2Proof.Machine.execVlaneid x s
  | .vmix x => Sys2Proof.Machine.execVmix x s
  | .vfadd x => Sys2Proof.Machine.execVfadd x s
  | .vfsub x => Sys2Proof.Machine.execVfsub x s
  | .vfmul x => Sys2Proof.Machine.execVfmul x s
  | .vfma x => Sys2Proof.Machine.execVfma x s
  | .vfmin x => Sys2Proof.Machine.execVfmin x s
  | .vfmax x => Sys2Proof.Machine.execVfmax x s
  | .vfcmp x => Sys2Proof.Machine.execVfcmp x s
  | .vfdiv x => Sys2Proof.Machine.execVfdiv x s
  | .vfsqrt x => Sys2Proof.Machine.execVfsqrt x s
  | .vfrcp x => Sys2Proof.Machine.execVfrcp x s
  | .vfrsq x => Sys2Proof.Machine.execVfrsq x s
  | .vexp2 x => Sys2Proof.Machine.execVexp2 x s
  | .vlog2 x => Sys2Proof.Machine.execVlog2 x s
  | .vsinpi x => Sys2Proof.Machine.execVsinpi x s
  | .vcospi x => Sys2Proof.Machine.execVcospi x s
  | .vfrnd x => Sys2Proof.Machine.execVfrnd x s
  | .vfclass x => Sys2Proof.Machine.execVfclass x s
  | .vfldexp x => Sys2Proof.Machine.execVfldexp x s
  | .vfdot2 x => Sys2Proof.Machine.execVfdot2 x s
  | .vfdot4 x => Sys2Proof.Machine.execVfdot4 x s
  | .vcvt x => Sys2Proof.Machine.execVcvt x s
  | .vcvtpk x => Sys2Proof.Machine.execVcvtpk x s
  | .vqblk x => Sys2Proof.Machine.execVqblk x s
  | .vdqblk x => Sys2Proof.Machine.execVdqblk x s
  | .vshfl x => Sys2Proof.Machine.execVshfl x s
  | .vscan x => Sys2Proof.Machine.execVscan x s
  | .vradd x => Sys2Proof.Machine.execVradd x s
  | .vrmin x => Sys2Proof.Machine.execVrmin x s
  | .vrmax x => Sys2Proof.Machine.execVrmax x s
  | .vcompact x => Sys2Proof.Machine.execVcompact x s
  | .vmatch x => Sys2Proof.Machine.execVmatch x s
  | .vprank x => Sys2Proof.Machine.execVprank x s
  | .vld x => Sys2Proof.Machine.execVld x s
  | .vst x => Sys2Proof.Machine.execVst x s
  | .vldc x => Sys2Proof.Machine.execVldc x s
  | .vstc x => Sys2Proof.Machine.execVstc x s
  | .vldro x => Sys2Proof.Machine.execVldro x s
  | .vatom x => Sys2Proof.Machine.execVatom x s
  | .vcas x => Sys2Proof.Machine.execVcas x s
  | .vpref x => Sys2Proof.Machine.execVpref x s
  | .vqpush x => Sys2Proof.Machine.execVqpush x s
  | .vqpop x => Sys2Proof.Machine.execVqpop x s
  | .wemit x => Sys2Proof.Machine.execWemit x s
  | .rspawn x => Sys2Proof.Machine.execRspawn x s
  | .rcont x => Sys2Proof.Machine.execRcont x s
  | .racc x => Sys2Proof.Machine.execRacc x s
  | .mma x => Sys2Proof.Machine.execMma x s
  | .mmas x orm => Sys2Proof.Machine.execMmas x orm s
  | .mrd x => Sys2Proof.Machine.execMrd x s
  | .mwr x => Sys2Proof.Machine.execMwr x s
  | .mzero stall m => Sys2Proof.Machine.execMzero stall m s
  | .mwait stall => Sys2Proof.Machine.execMwait stall s
  | .osto x => Sys2Proof.Machine.execOsto x s
  | .olod x => Sys2Proof.Machine.execOlod x s
  | .mepi x => Sys2Proof.Machine.execMepi x s
  | .vnop stall => Sys2Proof.Machine.execVnop stall s
  | .vtrapif x => Sys2Proof.Machine.execVtrapif x s
  | .nop h => Sys2Proof.Machine.execNop h s
  | .ctxcfg h handler lbase rt spill w6 tmpl => Sys2Proof.Machine.execCtxcfg h handler lbase rt spill w6 tmpl s
  | .launch h desc argb w4 groups => Sys2Proof.Machine.execLaunch h desc argb w4 groups s
  | .graph h desc argb w4 groups nodes w7 => Sys2Proof.Machine.execGraph h desc argb w4 groups nodes w7 s
  | .task h r0 r1 r2 r3 r4 r5 r6 r7 => Sys2Proof.Machine.execTask h r0 r1 r2 r3 r4 r5 r6 r7 s
  | .signal h idx w3 => Sys2Proof.Machine.execSignal h idx w3 s
  | .cancelLaunch h w2 seq => Sys2Proof.Machine.execCancelLaunch h w2 seq s
  | .cancelTask h w2 idx => Sys2Proof.Machine.execCancelTask h w2 idx s
  | .frame h desc w3 => Sys2Proof.Machine.execFrame h desc w3 s
  | .mapSetTableBase h w2 base w4 w5 => Sys2Proof.Machine.execMapSetTableBase h w2 base w4 w5 s
  | .mapWriteEntry h w2 addr entry w5 => Sys2Proof.Machine.execMapWriteEntry h w2 addr entry w5 s
  | .mapMigrate h w2 page pa w5 => Sys2Proof.Machine.execMapMigrate h w2 page pa w5 s
  | .copy h start off => Sys2Proof.Machine.execCopy h start off s
  | .fenceCommand h => Sys2Proof.Machine.execFenceCommand h s
  | .codecwb h page count => Sys2Proof.Machine.execCodecwb h page count s
  | .countrdBound h w2 w3 buf w5 => Sys2Proof.Machine.execCountrdBound h w2 w3 buf w5 s
  | .countrdCodec h w2 page buf w5 => Sys2Proof.Machine.execCountrdCodec h w2 page buf w5 s
  | .countrdMeridian h w2 w3 buf w5 => Sys2Proof.Machine.execCountrdMeridian h w2 w3 buf w5 s
  | .countrdFlush h w2 j buf w5 => Sys2Proof.Machine.execCountrdFlush h w2 j buf w5 s
  | .blink h ctl thr => Sys2Proof.Machine.execBlink h ctl thr s
  | .snapread h buf bytes => Sys2Proof.Machine.execSnapread h buf bytes s
  | .capread h w2 buf => Sys2Proof.Machine.execCapread h w2 buf s
  | .faultansResume h id w3 => Sys2Proof.Machine.execFaultansResume h id w3 s
  | .faultansFail h id w3 => Sys2Proof.Machine.execFaultansFail h id w3 s
  | .switch h area w3 => Sys2Proof.Machine.execSwitch h area w3 s
  | .restore h area w3 => Sys2Proof.Machine.execRestore h area w3 s
  | .ringrst h w2 head seq w5 => Sys2Proof.Machine.execRingrst h w2 head seq w5 s
  | .power h w2 w3 => Sys2Proof.Machine.execPower h w2 w3 s
  | .partcfg h w2 mask w4 w5 => Sys2Proof.Machine.execPartcfg h w2 mask w4 w5 s
  | .image h addr w3 => Sys2Proof.Machine.execImage h addr w3 s
  | .attest h buf w3 n0 n1 n2 n3 n4 n5 n6 n7 => Sys2Proof.Machine.execAttest h buf w3 n0 n1 n2 n3 n4 n5 n6 n7 s
  | .illegalScalarWord w => Sys2Proof.Machine.execIllegalScalarWord w s
  | .routeTableProgram rows anchor => Sys2Proof.Machine.execRouteTableProgram rows anchor s
  | .remoteRequest r => Sys2Proof.Machine.execRemoteRequest r s
  | .copyStart w va value tmpl => Sys2Proof.Machine.execCopyStart w va value tmpl s
  | .kick w va value => Sys2Proof.Machine.execKick w va value s
  | .codecMerge ctx va data => Sys2Proof.Machine.execCodecMerge ctx va data s
  | .powerWindow watts => Sys2Proof.Machine.execPowerWindow watts s
  | .recoveryFetch image => Sys2Proof.Machine.execRecoveryFetch image s
  | .blinkMessage p tag => Sys2Proof.Machine.execBlinkMessage p tag s
  | .unreliablePacketDiscard port => Sys2Proof.Machine.execUnreliablePacketDiscard port s
  | .hostAccess h => Sys2Proof.Machine.execHostAccess h s
  | .doorbell ctx value => Sys2Proof.Machine.execDoorbell ctx value s
  | .ret => Sys2Proof.Machine.execRet s
  | .exit => Sys2Proof.Machine.execExit s
  | .lwait => Sys2Proof.Machine.execLwait s
  | .yield => Sys2Proof.Machine.execYield s
  | .kpoint => Sys2Proof.Machine.execKpoint s
  | .snop => Sys2Proof.Machine.execSnop s
  | .melse => Sys2Proof.Machine.execMelse s
  | .mpop => Sys2Proof.Machine.execMpop s
  | .mrest => Sys2Proof.Machine.execMrest s
  | .laneResultLand => Sys2Proof.Machine.execLaneResultLand s
  | .variableWriteLand => Sys2Proof.Machine.execVariableWriteLand s
  | .loadDataReturn => Sys2Proof.Machine.execLoadDataReturn s
  | .scOperationPerform => Sys2Proof.Machine.execScOperationPerform s
  | .llsDecay => Sys2Proof.Machine.execLlsDecay s
  | .starvation => Sys2Proof.Machine.execStarvation s
  | .yieldWindowEnd => Sys2Proof.Machine.execYieldWindowEnd s
  | .workgroupPlacement => Sys2Proof.Machine.execWorkgroupPlacement s
  | .coopReserve => Sys2Proof.Machine.execCoopReserve s
  | .wavePlace => Sys2Proof.Machine.execWavePlace s
  | .admission => Sys2Proof.Machine.execAdmission s
  | .deal => Sys2Proof.Machine.execDeal s
  | .dispatch => Sys2Proof.Machine.execDispatch s
  | .finderProbe => Sys2Proof.Machine.execFinderProbe s
  | .probeServe => Sys2Proof.Machine.execProbeServe s
  | .sweepVisit => Sys2Proof.Machine.execSweepVisit s
  | .incumbentPropagate => Sys2Proof.Machine.execIncumbentPropagate s
  | .coreGate => Sys2Proof.Machine.execCoreGate s
  | .coreWake => Sys2Proof.Machine.execCoreWake s
  | .corePowerUp => Sys2Proof.Machine.execCorePowerUp s
  | .matrixOpStart => Sys2Proof.Machine.execMatrixOpStart s
  | .matrixStep => Sys2Proof.Machine.execMatrixStep s
  | .subnormalAssist => Sys2Proof.Machine.execSubnormalAssist s
  | .matrixOpFinish => Sys2Proof.Machine.execMatrixOpFinish s
  | .recordRelease => Sys2Proof.Machine.execRecordRelease s
  | .copyJobBegin => Sys2Proof.Machine.execCopyJobBegin s
  | .copyJobComplete => Sys2Proof.Machine.execCopyJobComplete s
  | .cardTake => Sys2Proof.Machine.execCardTake s
  | .cardComplete => Sys2Proof.Machine.execCardComplete s
  | .remotePushServe => Sys2Proof.Machine.execRemotePushServe s
  | .queueWaitServe => Sys2Proof.Machine.execQueueWaitServe s
  | .streamFiring => Sys2Proof.Machine.execStreamFiring s
  | .nodeWaveLaunch => Sys2Proof.Machine.execNodeWaveLaunch s
  | .nodeWaveTimeout => Sys2Proof.Machine.execNodeWaveTimeout s
  | .traversalBatchDeal => Sys2Proof.Machine.execTraversalBatchDeal s
  | .traversalBinTimeout => Sys2Proof.Machine.execTraversalBinTimeout s
  | .prefetchTimeout => Sys2Proof.Machine.execPrefetchTimeout s
  | .traversalDone => Sys2Proof.Machine.execTraversalDone s
  | .shadingWaveForm => Sys2Proof.Machine.execShadingWaveForm s
  | .shadingBinTimeout => Sys2Proof.Machine.execShadingBinTimeout s
  | .jamRule => Sys2Proof.Machine.execJamRule s
  | .spillReturn => Sys2Proof.Machine.execSpillReturn s
  | .frameDrain => Sys2Proof.Machine.execFrameDrain s
  | .codecEncode => Sys2Proof.Machine.execCodecEncode s
  | .migration => Sys2Proof.Machine.execMigration s
  | .waveSave => Sys2Proof.Machine.execWaveSave s
  | .preemptTimeout => Sys2Proof.Machine.execPreemptTimeout s
  | .dieBoot => Sys2Proof.Machine.execDieBoot s
  | .blinkPin => Sys2Proof.Machine.execBlinkPin s
  | .blinkHoldoffEnd => Sys2Proof.Machine.execBlinkHoldoffEnd s
  | .ringHalt => Sys2Proof.Machine.execRingHalt s
  | .commandComplete => Sys2Proof.Machine.execCommandComplete s

end Sys2Proof.Machine
end

