-- ==== Sys2Proof/Machine/Turn.lean ====
section
/-! DEFINITION. One move of the schedule (02, R22, R33, R34; 17, R316 to R318; 20, R358; 21, R366; 22, R376): fetch
and execute, lane issue, a device step, a packet, and what every move ends with. The agenda of the state
names the moves; the policy used when it is empty is the model's own (log 5). -/

namespace Sys2Proof.Machine

/-! ### The throttle (R317, R318) -/

/-- N_mem of a core: how many of its oldest waves may issue a memory instruction. -/
def memWaves (s : State) (core : Nat) : Nat :=
  let sum := (wavesOn s core).foldl (fun n w => n + w.sys.lls.toNat) 0
  Nat.min 64 (Nat.max 8 (64 - sum / 64))

/-- Whether a wave is starved (R318). -/
def isStarved (s : State) (w : Wave) : Bool := w.starved || decide (w.lastIssue + 2048 ≤ s.clock)

/-- Whether a wave may issue no memory instruction now. -/
def throttled (s : State) (w : Wave) : Bool :=
  let older := (wavesOn s w.sys.core.toNat).countP (fun x => decide (x.age < w.age))
  !isStarved s w && decide (memWaves s w.sys.core.toNat ≤ older)

/-- Whether a scalar word is a memory instruction (R316). -/
def scalarMem (x : Nat) : Bool := decide (0x1D ≤ x / 2 ^ 26) && decide (x / 2 ^ 26 ≤ 0x24)

/-- Whether a lane instruction is a memory instruction: opcodes 0x60 to 0x67 (R316). -/
def laneThrottled (i : Instr) : Bool := (memForm i).isSome

/-! ### The order of issue (R165, R316, R318) -/

/-- Whether a wave is in the 64 cycles of its YIELD (R165). -/
def inWindow (s : State) (w : Wave) : Bool := decide (s.clock < w.yieldEnd)

/-- Whether a group scheduler chooses wave x before wave w when both may issue: the oldest starved wave, then waves
outside a YIELD's window, then the oldest. -/
def outranks (s : State) (x w : Wave) : Bool :=
  if isStarved s x != isStarved s w then isStarved s x
  else if !isStarved s w && inWindow s x != inWindow s w then inWindow s w
  else decide (x.age < w.age)

/-- The other waves of the focus wave's group scheduler that it chooses before it. -/
def rivals (s : State) : List Wave :=
  (SMap.vals s.waves).filter (fun x =>
    x.placed && s.w.placed && x.sys.core == s.w.sys.core && decide (x.slotNo % 4 = s.w.slotNo % 4) && outranks s x s.w)

/-! ### The scalar stream -/

/-- Whether a wave's launch has been cancelled (R378). -/
def cancelledWave (s : State) (w : Wave) : Bool :=
  w.launch ≠ 0 && (match SMap.get? s.launches w.launch with | some x => x.cancelled | none => false)

/-- The answer to the focus wave's scalar park taken up: the wave is parked no more, and its instruction replays or raises
PAGE (R33, R34, R215). -/
def takeAnswer (s : State) : State :=
  match s.w.park with
  | some p =>
    if p.lane.isNone && p.st ≠ .await then
      modW s (fun w => { w with park := none, answered := some p, status := if w.status = .parked then .ready else w.status })
    else s
  | none => s

/-- A cancelled wave's parked instruction given up: it has no effect any more, nor have the lane instructions after a
lane one (R378). -/
def dropPark (s : State) : State :=
  match s.w.park with
  | some p =>
    let s := modW s (fun w => { w with park := none, answered := none, status := .waiting })
    if p.lane.isSome then modLane s (fun l => { l with q := [], batch := 0, seq := l.seq + l.q.length }) else s
  | none => modW s (fun w => { w with answered := none })

/-- The move of a wave that is not to fetch: one without a place, cancelled, parked, on its way out, or where it is saved
(R33, R34, R36, R215, R358); none for a wave that goes on. A handler runs on though its wave's launch is cancelled or its
task killed. -/
def heldMove (s : State) : Option State :=
  let w := s.w
  if !w.placed then some s
  else if cancelledWave s w && !(w.sys.handler && w.ended = some .cancelled) then some (leaveWave (dropPark s) .cancelled)
  else
    match w.owed, w.park, w.answered with
    | some c, _, _ => some (enterLane s c)
    | none, some p, _ => some (if p.st = .fail then pageFail s p else s)
    | none, none, some p => if p.st = .fail then some (pageFail s p) else none
    | none, none, none =>
      if w.ended = some .faulted then some (quitWave s .faulted)
      else if w.ended = some .killed && !w.sys.handler then some (killWave s)
      else if standsForSave s w then some s
      else none

/-- The focus wave's scalar stream fetches at SPC and executes the word (R22, R62). -/
def fetchMove (s : State) : Result :=
  match fetchAt s s.w.regs.spc 4 with
  | .error (c, va) => .next (if c = 0x06 then pageAt s 3 va else scalarTrap s c va (fetchAgent s.w c) 3)
  | .ok x => if scalarMem x && throttled s s.w then .next s else exec (decodeScalar (BitVec.ofNat 32 x)) s

/-- Whether the next scalar instruction of a wave may begin: its move does more than wait. -/
def scalarBegins (s : State) (x : Wave) : Bool :=
  let t := takeAnswer (focusOn s x.id)
  (heldMove t).isNone &&
  (match fetchMove t with
   | .next u => decide ({ u with w := { u.w with status := t.w.status } } ≠ t)
   | _ => true)

/-! ### The lane stream -/

/-- Whether the lane stream may issue: not while its wave is parked, unless at a lane instruction that is to replay; nor while
a lane trap is owed, nor at the end of the 100 µs of a request (R24, R34, R215, R358). -/
def laneOpen (s : State) : Bool :=
  let w := s.w
  w.placed && w.owed.isNone && !(w.runningOn && boundPassed s w) &&
  (match w.park with
   | none => true
   | some p => p.st = .replay && p.lane.isSome)

/-- The focus wave's oldest lane entry issues (R70). -/
def issueMove (s : State) : Result :=
  if !laneOpen s then .next s
  else
    match s.w.lane.q with
    | [] => .next s
    | e :: rest => if laneThrottled e.i && throttled s s.w then .next s else exec e.i (popLane s e rest)

/-- Whether the next lane instruction of a wave may issue: its move takes something from the queue. -/
def laneBegins (s : State) (x : Wave) : Bool :=
  let t := focusOn s x.id
  match issueMove t with
  | .next u => decide (u.w.lane.q ≠ t.w.lane.q)
  | _ => true

/-! ### Moves of a wave -/

/-- A scalar move: a wave that is to fetch does so when its group scheduler chooses it (R165, R316, R318). -/
def scalarMove (s : State) : Result :=
  let s := takeAnswer s
  match heldMove s with
  | some t => .next t
  | none =>
    if (rivals s).any (fun x => scalarBegins s x || (inWindow s s.w && laneBegins s x)) then .next s else fetchMove s

/-- A lane move: the oldest entry issues when its group scheduler chooses it (R165, R316, R318). -/
def laneMove (s : State) : Result :=
  if (rivals s).any (fun x => laneBegins s x || (inWindow s s.w && scalarBegins s x)) then .next s else issueMove s

/-- The oldest wave that has not issued for 4,096 cycles and may (R37). -/
def overdue (s : State) : Option Wave :=
  let late := (allWaves s).filter (fun x => x.placed && decide (x.lastIssue + 4096 ≤ s.clock))
  (sortBy (fun a b => decide (a.age ≤ b.age)) late).find? (fun x => scalarBegins s x || laneBegins s x)

/-- Its instruction, before every other's. -/
def overdueMove (s : State) (x : Wave) : Result :=
  let t := focusOn s x.id
  if scalarBegins t t.w then fetchMove (takeAnswer t) else issueMove t

/-! ### Every move -/

/-- Whether the packet at HEAD holds data that ECC cannot correct (R15). -/
def packetEcc (s : State) (ctx : Nat) : Bool :=
  let at_ := rbase s ctx + headOf s ctx % 2 ^ lrsize s ctx
  mayParse s ctx && (homeEcc s (.mem at_) 16 || homeEcc s (.mem at_) (16 * packetLen s ctx))

/-- A ring whose packet ECC cannot correct: the context is told, and the ring halts at it (log 96). -/
def ringEcc (s : State) (ctx : Nat) : State :=
  let g := agentWord 0 s.dieid.toNat 0 0
  let s := postCause s ctx (ctxOf s ctx).part
    { code := 0x14, imp := false, await := false, task := none,
      faddr := dw (rbase s ctx + headOf s ctx % 2 ^ lrsize s ctx), fagent := g, access := 0, agent := g }
  modCtx s ctx (fun c => { c with halted := true })

/-- A packet of an endpoint parsed (R376). -/
def ringMove (s : State) (ctx : Nat) : Result :=
  if packetEcc s ctx then .next (ringEcc s ctx) else
  match ringNext s ctx with
  | .idle => .next s
  | .bad _ => exec .ringHalt { s with target := { n := ctx, k := 0, m := 0 } }
  | .run i => exec i s

/-- Whether an instruction is a device step: one that no stream and no ring holds. -/
def isDevice (i : Instr) : Bool := (encode i).isNone

/-- A move before its end. -/
def move (t : Turn) (s : State) : Result :=
  match t with
  | .scalar => scalarMove s
  | .lane => laneMove s
  | .event i x => if isDevice i then exec i { s with target := x } else .next s
  | .ring ctx => ringMove s ctx
  | .focus id => .next (focusOn s id)
  | .tick => .next s

/-- A cycle ends: CLOCK counts it (R103) and the timer its time (R358), the latch events of the triggers that fired in it
take what it leaves (R366, R368), copies of incumbents that may be behind no longer take their values (R343), and every 256
cycles LLS decays (R317). -/
def tickClock (s : State) : State :=
  let s := { s with clock := s.clock + 1, time := s.time + Config.timerUnits / s.power.mhz }
  let s := (SMap.keys s.parts).foldl latchPart s
  let s := (SMap.keys s.parts).foldl propagateDue s
  if s.clock % 256 = 0 then resultState s (execLlsDecay s) else s

/-- Whether a move takes a cycle. -/
def takesCycle : Turn → Bool
  | .scalar | .lane | .tick => true
  | _ => false

/-- Since when a partition's pool has had no free slot (R333). -/
def notePool (s : State) (p : Nat) : State :=
  let full := freeSlots (partOf s p) = 0
  match (partOf s p).fullSince with
  | some _ => if full then s else modPart s p (fun x => { x with fullSince := none })
  | none => if full then modPart s p (fun x => { x with fullSince := some s.clock }) else s

/-- Since when a node's queue has held a record (R281). -/
def noteNodes (s : State) : State :=
  { s with launches := s.launches.map (fun lx =>
      (lx.1, { lx.2 with nodes := lx.2.nodes.map (fun nd =>
        if nd.pend.isNone && decide (0 < nodeCount s lx.2 nd) then { nd with pend := some s.clock } else nd) })) }

/-- Threshold triggers of what a move has counted (R365). -/
def thresholds (before s : State) : State := (SMap.keys s.parts).foldl (fun s p => thresholdPart before s p) s

/-- What ends every move: threshold triggers; where it takes a cycle, the visit that a sweep still owes it (R345), and the
cycle's end; and the times that later steps count from. -/
def settle (cycle : Bool) (before s : State) : State :=
  let s := if cycle then tickClock (thresholds before ((SMap.keys s.parts).foldl sweepStep s)) else thresholds before s
  noteNodes ((SMap.keys s.parts).foldl notePool s)

/-- A move with its end; a cycle in which a wave is overdue is that wave's (R37). -/
def run (t : Turn) (s : State) : Result :=
  let r := match (if takesCycle t then overdue s else none) with
    | some x => overdueMove s x
    | none => move t s
  match r with
  | .next u => .next (settle (takesCycle t) s u)
  | r => r

/-! ### The policy of an empty agenda (log 5) -/

/-- A device step as a move. -/
def ev (i : Instr) (n : Nat) (k : Nat := 0) (m : Nat := 0) : Turn := .event i { n := n, k := k, m := m }

/-- Device steps of a wave. -/
def waveSteps (w : Wave) : List Turn :=
  [ev .laneResultLand w.id, ev .variableWriteLand w.id, ev .loadDataReturn w.id, ev .waveSave w.id,
   ev .preemptTimeout w.id, ev .starvation w.id, ev .yieldWindowEnd w.id, ev .scOperationPerform w.part w.id 0,
   ev .scOperationPerform w.part w.id 1] ++
  (SMap.keys w.streams).map (fun g => ev .streamFiring w.id g)

/-- Device steps of a cluster. -/
def clusterSteps (c : Nat) : List Turn :=
  (List.range 16).flatMap (fun k => [ev .copyJobBegin c k, ev .copyJobComplete c k]) ++
  [ev .matrixOpStart c, ev .subnormalAssist c, ev .matrixStep c, ev .matrixOpFinish c, ev .recordRelease c]

/-- Device steps of a core. -/
def coreSteps (part c : Nat) : List Turn :=
  [ev .remotePushServe c, ev .wavePlace c, ev .probeServe c, ev .finderProbe c, ev .coreWake c, ev .corePowerUp c,
   ev .coreGate c] ++ (List.range 8).map (fun i => ev .incumbentPropagate part (c + 1) i)

/-- Device steps of a partition. -/
def partSteps (n : Nat) (p : Part) : List Turn :=
  [ev .scOperationPerform n, ev .admission n, ev .deal n, ev .blinkHoldoffEnd n, ev .jamRule n,
   ev .spillReturn n] ++
  (List.range 8).map (fun i => ev .incumbentPropagate n 0 i) ++
  (SMap.keys p.bins).flatMap (fun b =>
    [ev .traversalBatchDeal n b, ev .traversalBinTimeout n b, ev .prefetchTimeout n b, ev .shadingWaveForm n b,
     ev .shadingBinTimeout n b]) ++
  (SMap.keys p.rays).map (fun r => ev .traversalDone n r) ++ (SMap.keys p.frames).map (fun f => ev .frameDrain n f) ++
  p.clusters.flatMap clusterSteps ++ (coresOf p).flatMap (coreSteps n)

/-- Device steps of a launch. -/
def launchSteps (l : Nat) (x : Launch) : List Turn :=
  [ev .workgroupPlacement l, ev .coopReserve l, ev .nodeWaveLaunch l] ++
  (List.range x.nodes.length).map (fun j => ev .nodeWaveTimeout l j)

/-- The moves of devices and rings that the policy tries, in order. -/
def deviceMoves (s : State) : List Turn :=
  (if s.fw.booted || s.fw.recovery then [] else [ev .dieBoot 0]) ++
  (SMap.keys s.contexts).flatMap (fun c => [.ring c, ev .commandComplete c, ev .migration c]) ++
  s.launches.flatMap (fun lx => launchSteps lx.1 lx.2) ++ s.parts.flatMap (fun kp => partSteps kp.1 kp.2) ++
  (List.range 8).flatMap (fun e => [ev .cardTake e, ev .cardComplete e]) ++ (allWaves s).flatMap waveSteps

/-- Whether a move changes the state, but for the target it names. -/
def changes (t : Turn) (s : State) : Bool :=
  match move t s with
  | .next u => decide ({ u with target := s.target } ≠ s)
  | _ => true

/-- The wave whose turn the cycle is. -/
def waveTurn (s : State) : Option Nat :=
  let ids := ((allWaves s).filter (·.placed)).map (·.id)
  if ids.isEmpty then none else (sortBy (fun a b => decide (a ≤ b)) ids)[s.clock % ids.length]?

/-- The move made when the agenda is empty: a device's or a ring's that changes something, else the lane or
the scalar stream of the wave whose turn it is, else a cycle. -/
def auto (s : State) : Turn :=
  match (deviceMoves s).find? (fun t => changes t s) with
  | some t => t
  | none =>
    match waveTurn s with
    | none => .tick
    | some id => if s.w.id ≠ id then .focus id else if changes .lane s then .lane else .scalar

end Sys2Proof.Machine
end

