-- ==== Sys2Proof/Machine/Fetch.lean ====
section
/-! DEFINITION. An instruction put where the next step takes it: a scalar word at SPC, a lane instruction in
the lane-issue queue, a packet in a ring. It stands for the loading of a program, which the machine itself
does not do (log 27). -/

namespace Sys2Proof.Machine

/-- A translation entry of four levels for offset 0's 64 KiB page, in tables from a physical address on. -/
def benchTables (base page : Nat) : Memory :=
  memPutNat (memPutNat (memPutNat (memPutNat [] base 8 (base + 0x1000 + 1)) (base + 0x1000) 8 (base + 0x2000 + 1))
    (base + 0x2000) 8 (base + 0x3000 + 1)) (base + 0x3000) 8 (page + 7)

/-- A partition of cluster 0 with one endpoint. -/
def benchPart (ctx : Nat) : Part := { Part.zero with clusters := [0], p := 4, t := 4, eps := [ctx] }

/-- A placed wave of 32 lanes and 512 vector registers, at offset 0 of its context's space 0. -/
def benchWave (s : State) : Wave :=
  { Wave.empty with
    id := s.nextWave, status := .ready, pop := 32, rows := 512, age := s.nextWave, wg := s.nextWave, kind := .task
    regs := { Regs.zero with em := popMask 32 }, lastIssue := s.clock }

/-- Whether the focus wave fetches at its SPC as it stands. -/
def fetches (s : State) : Bool :=
  (heldMove s).isNone && (match locate s s.w.ctx s.w.part false true s.w.regs.spc with | .ok (.mem _) => true | _ => false)

/-- The state with a wave in focus that fetches: as it is, or with the bench's wave, partition and tables. -/
def withWave (s : State) : State :=
  if fetches s then s
  else
    { s with
      w := benchWave s, nextWave := s.nextWave + 1
      parts := SMap.put s.parts 0 (benchPart 0)
      routes := SMap.put s.routes s.dieid.toNat { chip := s.chip.toNat, addr := 0, flow := 0, ends := [] }
      contexts := SMap.put s.contexts 0
        { Context.zero 0 with
          tables := [(s.dieid.toNat, { base := some (s.chip.toNat * 2 ^ 48 + 0x10000),
                                       view := benchTables (s.chip.toNat * 2 ^ 48 + 0x10000) (s.chip.toNat * 2 ^ 48 + 0x100000) })] } }

/-- A scalar word at the focus wave's SPC, and its scalar move next. -/
def placeScalar (s : State) (w : Nat) : State :=
  let s := withWave s
  match locate s s.w.ctx s.w.part false true s.w.regs.spc with
  | .ok (.mem k) => { s with mem := memPutNat s.mem k 4 w, agenda := [.scalar] }
  | _ => s

/-- A lane instruction alone in the focus wave's queue, and its lane move next. -/
def placeLane (s : State) (i : Instr) : State :=
  let s := withWave s
  { modLane s (fun _ => { LaneStream.empty with q := [captured s.w i s.w.regs.lpc 0] }) with agenda := [.lane] }

/-- A packet at HEAD of its endpoint's ring, described afresh, and the parse of it next. -/
def placePacket (s : State) (q : List DWord) : State :=
  let ctx := bits (q.getD 0 0) 47 32
  let part := (ctxOf s ctx).part
  let top := s.chip.toNat * 2 ^ 48
  let s := { s with
    fw := { s.fw with booted := true }
    parts := if ctx = fmCtx || (SMap.get? s.parts part).isSome then s.parts else SMap.put s.parts part (benchPart ctx)
    contexts := SMap.put s.contexts ctx
      { ctxOf s ctx with
        halted := false, rung := true, resident := true, nextSeq := q.getD 1 0, doneQ := [], cmds := []
        tail := BitVec.ofNat 32 (16 * bits (q.getD 0 0) 23 16) } }
  let s := descWrite (descWrite s ctx 0 8 (top + 0x200000)) ctx 16 1 12
  let s := descWrite (descWrite (descWrite s ctx 8 8 (top + 0x300000)) ctx 17 1 4) ctx 20 4 0
  let s := descWrite (descWrite (descWrite (descWrite s ctx 24 8 0) ctx 32 8 (top + 0x400000)) ctx 40 1 4) ctx 48 8 0
  { s with mem := memPut s.mem (top + 0x200000) (bytesOfQuads q), agenda := [.ring ctx] }

/-- An instruction of `nbits` bits, as `opcode_table.json` numbers them, put where the next step takes it. -/
def placeWord (s : State) (nbits w : Nat) : State :=
  if nbits ≤ 32 then placeScalar s w
  else if nbits ≤ 96 then
    match decodeLane (BitVec.ofNat 96 w) with
    | .ok i => placeLane s i
    | .error _ => s
  else placePacket s (quadsOf (nbits / 64) w)

end Sys2Proof.Machine
end

