-- ==== Sys2Proof/Machine/Step.lean ====
section
/-! DEFINITION. The step of the machine: the next move of its agenda. -/

namespace Sys2Proof.Machine

/-- One step: the move at the head of the agenda, or, when it is empty, the policy's (log 5). -/
def step (s : State) : Host.Outcome State Fault Refusal :=
  match s.agenda with
  | [] => run (auto s) s
  | t :: rest => run t { s with agenda := rest }

/-- The state with an instruction stored where `step` takes its next one (log 27). -/
def State.withFetchWord (s : State) (nbits w : Nat) : State := placeWord s nbits w

end Sys2Proof.Machine
end

