-- ==== Sys2Proof/Safety.lean ====
section
/-! DEFINITION. What the claims are stated in: what a step leaves alone, when an instruction is not held
up, what an entry into the trap handler is, and the invariants of the machine. -/

namespace Sys2Proof.Machine

/-! ### What is left alone -/

/-- Nothing but the focus wave's registers, and that it has issued, changes: no memory, no cache, no
system register, no accumulator, no other wave. -/
def RegsOnly (s t : State) : Prop := t = { s with w := { s.w.run s.clock with regs := t.w.regs } }

/-- Nothing but the focus wave changes. -/
def WaveOnly (s t : State) : Prop := t = { s with w := t.w }

/-- Nothing but a partition's record changes. -/
def PartOnly (s t : State) : Prop := t = { s with parts := t.parts }

/-- Every byte of memory and every cached copy of one is as it was. -/
def SameMemory (s t : State) : Prop :=
  (∀ k, memByte t.mem k = memByte s.mem k) ∧ (∀ c, (coreOf t c).l1 = (coreOf s c).l1) ∧ t.clines = s.clines

/-- A scalar result: s[d] holds a value, SPC is at the next word, nothing else changes. -/
def ScalarTo (s : State) (r : Result) (d : Nat) (x : DWord) : Prop :=
  ∃ t, r = .next t ∧ RegsOnly s t ∧ (∀ n, getS t.w n = if n = d then x else getS s.w n) ∧
    t.w.regs = { s.w.regs with s := t.w.regs.s, spc := s.w.regs.spc + 4 }

/-- A condition result: c[d] holds a bit, SPC is at the next word, nothing else changes. -/
def CondTo (s : State) (r : Result) (d : Nat) (b : Bool) : Prop :=
  ∃ t, r = .next t ∧ RegsOnly s t ∧ (∀ n, n < 6 → getC t.w n = if n = d then b else getC s.w n) ∧
    t.w.regs = { s.w.regs with c := t.w.regs.c, spc := s.w.regs.spc + 4 }

/-- The instruction completes and leaves just these registers. -/
def LeavesRegs (s : State) (r : Result) (g : Regs) : Prop := r = .next { s with w := { s.w.run s.clock with regs := g } }

/-- The instruction waits: the focus wave is waiting, and nothing else changes. -/
def Waits (s : State) (r : Result) : Prop :=
  r = .next { s with w := { s.w with status := if s.w.status = .ready then .waiting else s.w.status } }

/-! ### When an instruction is not held up -/

/-- No enqueued lane instruction still writes a register of `rs`, or touches s[d] (R23, R93). -/
def Settled (w : Wave) (rs : List Nat) (d : Nat) : Prop := (∀ n ∈ rs, writerS w n = false) ∧ busyS w d = false

/-- No enqueued lane instruction still writes a register of `rs`. -/
def Readable (w : Wave) (rs : List Nat) : Prop := ∀ n ∈ rs, writerS w n = false

/-- A well-formed lane instruction reaches its issue: its cycle has come, no result is in flight, the
stall check, if on, finds no hazard, it reads no row whose data ECC cannot correct, and the registers it reads are the wave's,
as they are unless it issued before (R15, R70 to R73, R175). -/
def LaneReady (s : State) (i : Instr) : Prop :=
  i.wf = true ∧ s.w.lane.inflight = [] ∧ s.w.lane.nextIssue ≤ s.clock ∧ stallTrap s.w s.clock i = false ∧ rowBad s.w i = false ∧
    s.w.reading = s.w

/-- The queue operands of a lane instruction, if it has any, are popped: what they leave and give. With
none, the state itself and no pops. -/
def Popped (s : State) (x : LArith) (act : Word) (s' : State) (p : Pops) : Prop :=
  (∀ k : State → Pops → State, popOperands s x act k = k s' p) ∧ s'.w.lane = s.w.lane

/-! ### Lane results -/

/-- Element `e` of a value. -/
def elemAt (width e v : Nat) : Nat := v / 2 ^ (width * e) % 2 ^ width

/-- The least and the greatest value of a type's element. -/
def elemLow (ty : LTy) : Int := if ty.isSigned then -(2 ^ (ty.width - 1)) else 0
/-- The greatest. -/
def elemHigh (ty : LTy) : Int := if ty.isSigned then 2 ^ (ty.width - 1) - 1 else 2 ^ ty.width - 1

/-- An element holds an exact result (R130): modulo 2 to the element's width, or with `.sat` clamped to its range. -/
def HoldsExact (x : LArith) (r : Int) (v : Nat) : Prop :=
  v < 2 ^ x.ty.width ∧ (x.m.sat = false → (v : Int) = r % 2 ^ x.ty.width) ∧
    (x.m.sat = true → elemVal x v = max (elemLow x.ty) (min (elemHigh x.ty) r))

/-- A lane instruction has issued from a state: its results are in flight with its latency, the lane stream holds the next
for its stall, and nothing else but that the wave ran has changed (R70 to R72). -/
def Issued (s : State) (i : Instr) (t : State) : Prop :=
  t = { s with w := { s.w.runLane s.clock with lane := t.w.lane } } ∧ t.w.lane.q = s.w.lane.q ∧
    t.w.lane.nextIssue = s.clock + stallOf i + 1 ∧
    ∀ p ∈ t.w.lane.inflight, p.fixed = (latency i).isSome ∧ p.due + 1 = s.clock + (latency i).getD 1

/-- The results in flight land in these vector registers and nowhere else: lane k of v[r] has the value
`f` gives, every other lane and register what it had; a row that is written may be correct again (R15). -/
def LandsV (s t : State) (f : Nat → Nat → Option Nat) : Prop :=
  (∀ r k, k < 32 → (getV (landAll t).w r k).toNat = (f r k).getD (getV s.w r k).toNat) ∧
    (landAll t).w.regs = { s.w.regs with v := (landAll t).w.regs.v, bad := (landAll t).w.regs.bad } ∧
    ∀ r ∈ (landAll t).w.regs.bad, r ∈ s.w.regs.bad

/-- The results in flight land in the lanes of one predicate, and nowhere else. -/
def LandsVp (s t : State) (n : Nat) (act : Word) (f : Nat → Bool) : Prop :=
  (∀ k, k < 32 → (getVp (landAll t).w n).getLsbD k = if act.getLsbD k then f k else (getVp s.w n).getLsbD k) ∧
    (∀ m, m ≠ n → getVp (landAll t).w m = getVp s.w m) ∧
    (landAll t).w.regs = { s.w.regs with vp := (landAll t).w.regs.vp }

/-- FPSTAT's flags take up the events of the active lanes as the results land (R86), and no other system register
changes. -/
def LandsFlags (s t : State) (act : Word) (f : Nat → FpEv) : Prop :=
  (∀ i, i < 5 → (landAll t).w.sys.fpstat.getLsbD i =
    (s.w.sys.fpstat.getLsbD i || (lanesOf act).any (fun k => (f k).flagBits.getLsbD i))) ∧
    (landAll t).w.sys = { s.w.sys with fpstat := (landAll t).w.sys.fpstat }

/-- FPSTAT's counts CSAT, CFLUSH and CNAN grow by these numbers as the results land, and stop at 0xFFFF (R86). -/
def LandsCounts (s t : State) (sat flush nan : Nat) : Prop :=
  let old := s.w.sys.fpstat
  let new := (landAll t).w.sys.fpstat
  bits new 63 48 = Nat.min (bits old 63 48 + sat) 0xFFFF ∧ bits new 47 32 = Nat.min (bits old 47 32 + flush) 0xFFFF ∧
    bits new 31 16 = Nat.min (bits old 31 16 + nan) 0xFFFF

/-- A value of a type for each active lane, in vd or the pair at vd. -/
def typedAt (act : Word) (wide : Bool) (vd : Nat) (f : Nat → Nat) (r k : Nat) : Option Nat :=
  if !act.getLsbD k then none
  else if r = vd then some (f k % 2 ^ 32)
  else if wide && r == vd + 1 then some (f k / 2 ^ 32 % 2 ^ 32)
  else none

/-- An arithmetic lane instruction completes from a state it may issue in: it issues, and lands `f` in its active lanes,
`f` being as `ok` says. -/
def LaneYields (s : State) (i : Instr) (x : LArith) (ok : State → Pops → (Nat → Nat) → Prop) : Prop :=
  LaneReady s i → ∀ s' p, Popped s x (active s.w i) s' p →
    ∃ t f, exec i s = .next t ∧ Issued s' i t ∧ LandsV s' t (typedAt (active s.w i) x.ty.wide x.vd.toNat f) ∧ ok s' p f

/-- The exact integer operations of Table 07-4: what an element comes to from the elements of a, b and c, read as the type
says; the flag marks the two whose b is one 32-bit word. -/
def exactOps : List ((LArith → Instr) × Bool × (LTy → Int → Int → Int → Int)) :=
  [(.vadd, false, fun _ a b _ => a + b), (.vsub, false, fun _ a b _ => a - b), (.vmul, false, fun _ a b _ => a * b),
   (.vmulh, false, fun _ a b _ => a * b / 2 ^ 32), (.vmulhu, false, fun _ a b _ => a * b / 2 ^ 32),
   (.vmad, false, fun _ a b c => a * b + c),
   (.vand, false, fun _ a b _ => (a.toNat &&& b.toNat : Nat)), (.vor, false, fun _ a b _ => (a.toNat ||| b.toNat : Nat)),
   (.vxor, false, fun _ a b _ => (a.toNat ^^^ b.toNat : Nat)),
   (.vandn, false, fun _ a b _ => (a.toNat ^^^ (a.toNat &&& b.toNat) : Nat)),
   (.vshl, false, fun ty a b _ => a * 2 ^ (b % ty.width).toNat), (.vshr, false, fun ty a b _ => a / 2 ^ (b % ty.width).toNat),
   (.vsar, false, fun ty a b _ => a / 2 ^ (b % ty.width).toNat),
   (.vmin, false, fun _ a b _ => min a b), (.vmax, false, fun _ a b _ => max a b),
   (.vminu, false, fun _ a b _ => min a b), (.vmaxu, false, fun _ a b _ => max a b),
   (.vadd64, false, fun _ a b _ => a + b), (.vsub64, false, fun _ a b _ => a - b), (.vmul64, false, fun _ a b _ => a * b),
   (.vshl64, true, fun _ a b _ => a * 2 ^ (b % 64).toNat), (.vshr64, true, fun _ a b _ => a / 2 ^ (b % 64).toNat)]

/-- The rounded operations of Tables 08-1 and 08-2 with the flags each may raise. -/
def roundedOps : List ((LArith → Instr) × BitVec 5 × FltOp) :=
  [(.vfadd, 0b11101, fun f r a b _ => fpAdd f r a b), (.vfsub, 0b11101, fun f r a b _ => fpAdd f r a b.neg),
   (.vfmul, 0b11101, fun f r a b _ => fpMul f r a b), (.vfma, 0b11101, fun f r a b c => fpDot f r [(a, b)] c),
   (.vfdiv, 0b11111, fun f r a b _ => fpDiv f r a b), (.vfsqrt, 0b10001, fun f r a _ _ => fpSqrt f r a),
   (.vfrcp, 0b11110, fun f r a _ _ => fpDiv f r one a), (.vfrsq, 0b10011, fun f r a _ _ => fpRsqrt f r a),
   (.vexp2, 0b11100, fun f r a _ _ => fpExp2 f r a), (.vlog2, 0b10011, fun f r a _ _ => fpLog2 f r a),
   (.vsinpi, 0b11001, fun f r a _ _ => fpSinPi f r a), (.vcospi, 0b10001, fun f r a _ _ => fpCosPi f r a)]

/-! ### Memory and queues -/

/-- Byte `i` of an aligned access of `n` bytes through a core's L1: the one its line holds, where it holds all of them, or
that one dirty, or else the one the home holds. -/
def cachedByte (s : State) (core ctx : Nat) (va : DWord) (n i : Nat) (home : Byte) : Byte :=
  let o := va.toNat % 64
  match SMap.get? (coreOf s core).l1 (lineKey ctx va) with
  | some l => if (List.range n).all (fun j => l.valid.getLsbD (o + j)) || l.dirty.getLsbD (o + i)
      then l.data.extractLsb' (8 * (o + i)) 8 else home
  | none => home

/-- The byte an agent of a core sees at an address of an ordinary page that lies at a memory key: its L1's, where the
line holds it, else the memory's (R208). -/
def coreByte (s : State) (core ctx : Nat) (va : DWord) (k : Nat) : Byte := cachedByte s core ctx va 1 0 (memByte s.mem k)

/-- A location whose bytes are this die's, ordinary, codec or vault. -/
def heldHere : Loc → Bool
  | .mem _ | .codec .. | .vault _ => true
  | _ => false

/-- Byte `i` from a location on, as its home has it: a codec page's decoded (R257). -/
def homeByte (s : State) (l : Loc) (i : Nat) : Byte :=
  match l with
  | .vault k | .mem k => memByte s.mem (k + i)
  | .codec leaf base budget off =>
    match codecFill s leaf base budget (off / 64) with | some c => c.data.extractLsb' (8 * (off % 64 + i)) 8 | none => 0
  | _ => 0

/-- Byte `i` of an aligned access of `n` bytes at an address of a location, as an agent of a core sees it: a vault's past the
L1 (R207). -/
def seenByte (s : State) (core ctx : Nat) (va : DWord) (l : Loc) (n i : Nat) : Byte :=
  match l with
  | .vault _ => homeByte s l i
  | _ => cachedByte s core ctx va n i (homeByte s l i)

/-- The byte that a store of `b` leaves at a vault key: the OUT bit of a queue control word keeps its value (R3, R266). -/
def storedByte (s : State) (k : Nat) (b : Byte) : Byte :=
  if isOut s k then b ^^^ ((memByte s.mem k ^^^ b) &&& 1) else b

/-- The byte that a store of `b` at the home leaves at byte `i` of a location. -/
def leftByte (s : State) (l : Loc) (i : Nat) (b : Byte) : Byte :=
  match l with
  | .vault k => storedByte s (k + i) b
  | _ => b

/-- Two ranges do not overlap. -/
def Apart (a n b m : Nat) : Prop := a + n ≤ b ∨ b + m ≤ a

/-- Accesses of `n` bytes at two locations do not overlap, and are both of codec pages or neither. -/
def LocsApart (n : Nat) (l m : Loc) : Prop :=
  match l, m with
  | .codec a _ _ i, .codec b _ _ j => a ≠ b ∨ Apart i n j n
  | .vault i, .vault j | .mem i, .mem j | .vault i, .mem j | .mem i, .vault j => Apart i n j n
  | _, _ => False

/-- The L1 line that a load of an ordinary or codec page meets, if any, holds all its bytes; by the read-only path, or before
the invalidation of an acquire, there is none (R208, R209, R239). -/
def LineWhole (s : State) (core ctx : Nat) (ro ordered : Bool) (va : DWord) : Prop :=
  ∀ l, SMap.get? (coreOf s core).l1 (if ro then roKey ctx va else lineKey ctx va) = some l →
    ro = false ∧ ordered = false ∧ l.valid = BitVec.allOnes 64

/-- No line of a core's L1 holds a byte that its home lacks. -/
def CleanL1 (s : State) (core : Nat) : Prop := ∀ kl ∈ (coreOf s core).l1, kl.2.dirty = 0

/-- What an access of the focus wave may change: memory, the caches, the race detector's records and the free-value counter;
of the wave, its registers, which are now `g`, the releases it has met and LLS. -/
def Accessed (s t : State) (g : Regs) : Prop :=
  t = { s with w := t.w, mem := t.mem, cores := t.cores, clines := t.clines, grans := t.grans, free := t.free } ∧
  t.w = { s.w.run s.clock with regs := g, seen := t.w.seen, sys := { s.w.sys with lls := t.w.sys.lls } }

/-- The turn of an SC operation of the wave's lane stream or of its scalar stream has come (R240): no lower ticket waits, or
the anchor die has given it. -/
def ScTurn (s : State) (lane : Bool) (scope : Nat) : Prop :=
  if scHere s scope then
    match scTicket s.w lane with
    | none => (partOf s s.w.part).scq = []
    | some n => ∀ t ∈ (partOf s s.w.part).scq, n ≤ t.n
  else scPod s.w lane = some true

/-- The elements in a queue's ring, oldest first. -/
def queueElems (s : State) (own part : Nat) (q : DWord) : List (List Byte) :=
  let c := qcwOf s own part q
  (List.range c.count).map (fun i => memBytes s.mem (vaultRaw s own part (c.slot (c.head + i))) (elemBytes c.esize))

/-- A queue laid out as R266 and R267 ask, without an overflow area: its control word and its ring lie in allocations,
slot after slot, apart from each other, with data that ECC can correct, and it holds no more than it can. -/
def QueueLaid (s : State) (own part : Nat) (q : DWord) : Prop :=
  let c := qcwOf s own part q
  let n := elemBytes c.esize
  let k := vaultRaw s own part q
  let b := vaultRaw s own part c.base
  c.ovdepth = 0 ∧ c.ldepth ≤ 20 ∧ c.count ≤ c.depth ∧ slotAt s own part true q 32 = .ok ∧
  (∀ i, vaultRaw s own part (c.slot i) = b + n * (i % c.depth) ∧ slotAt s own part true (c.slot i) n = .ok) ∧
  (k + 32 ≤ b ∨ b + n * c.depth ≤ k)

/-- The accesses of a lane memory instruction's active lanes are aligned, lane k's at the address `va k`, which is at the
location `loc k`; `packed` addresses follow the lanes' number among those active at first issue (R218, R227). -/
def LanesLie (s : State) (x : LMem) (packed : Prop) (act : Word) (write : Bool) (va : Nat → DWord) (loc : Nat → Loc) : Prop :=
  ∀ k, k < 32 → act.getLsbD k = true →
    (∃ base : DWord,
      (match x.base with
       | .vec r => base = dw ((getV s.w r.toNat k).toNat + 2 ^ 32 * (getV s.w (r.toNat + 1) k).toNat)
       | .scal r => base = getS s.w r.toNat) ∧
      (packed → va k = base + dwI (x.off.toInt + x.size.bytes * ((lanesOf (s.w.lane.issue.act.getD act)).countP (fun j => decide (j < k)) : Nat))) ∧
      (¬ packed → va k = base + dwI x.off.toInt)) ∧
    (va k).toNat % x.size.bytes = 0 ∧ locate s s.w.ctx s.w.part false write (va k) = .ok (loc k)

/-- What an operation of Table 12-5 leaves in memory of `n` bytes, by its number, from the old value and the operand. -/
def atomicValue (aop n old v : Nat) : Nat :=
  let sv (y : Nat) : Int := (BitVec.ofNat (8 * n) y).toInt
  let nan (y : Nat) : Bool := decide (0x7F800000 < y % 2 ^ 31)
  match aop with
  | 0 => (old + v) % 2 ^ (8 * n)
  | 1 => (fpAdd .f32 .rne (FFmt.f32.dec old) (FFmt.f32.dec v)).code
  | 2 => (fpAdd .f64 .rne (FFmt.f64.dec old) (FFmt.f64.dec v)).code
  | 3 => if sv old ≤ sv v then old else v
  | 4 => if sv old ≤ sv v then v else old
  | 5 => min old v
  | 6 => max old v
  | 7 => old &&& v
  | 8 => old ||| v
  | 9 => old ^^^ v
  | 10 => v
  | 11 => if nan old then v % 2 ^ 31 else fpMinMax .f32 true (old % 2 ^ 31) (v % 2 ^ 31)
  | _ => if v ≤ old then 0 else old + 1

/-- A matrix instruction reaches the engine, whose records stand as in `u`: an operation with what it read at issue joins the
tail of the engine's queue, and the instruction has issued; while the queue is full it waits. Nothing else changes (R185). -/
def Accepts (s u : State) (i : Instr) (m : Nat) (tiles : List Nat) (kind : MKind) : Prop :=
  let e := engineOf u s.w.engine
  let o : MOp :=
    { uid := s.nextWave, num := s.w.lane.issue.num, wave := s.w.id, ctx := s.w.ctx, part := s.w.part, m := m, tiles := tiles,
      f64 := s.w.accF64, elpc := s.w.lane.issue.elpc, acq := s.w.startAcq, race := s.w.lane.issue.fpmode.getLsbD 1, kind := kind }
  (e.queue.length < 16 → exec i s = .next { u with
    w := { s.w.runLane s.clock with
      lane := { s.w.lane with seq := s.w.lane.seq + 1, nextIssue := s.clock + stallOf i + 1 } }
    engines := SMap.put u.engines s.w.engine { e with queue := e.queue ++ [o] }
    nextWave := s.nextWave + 1 }) ∧
  (16 ≤ e.queue.length → exec i s = .next { u with
    w := { s.w with
      lane := { s.w.lane with q := s.w.lane.issue :: s.w.lane.q }
      status := if s.w.status = .ready then .waiting else s.w.status } })

/-- A lane instruction waits at the head of the lane queue, and nothing else changes. -/
def LaneWaits (s : State) (i : Instr) : Prop :=
  exec i s = .next { s with
    w := { s.w with
      lane := { s.w.lane with q := s.w.lane.issue :: s.w.lane.q }
      status := if s.w.status = .ready then .waiting else s.w.status } }

/-! ### Traps -/

/-- The focus wave has entered the trap handler (R353): the saved registers, the frame, em, the lane
counters and SPC, and an SC operation that has not begun given up (log 104); the frame notes the kind of access that met the cause; nothing else but Blink's record of the cause changes. -/
def Enters (s t : State) (cause epc elpc faddr fagent resume : DWord) : Prop :=
  t = { s with parts := t.parts, w := t.w } ∧
  ∃ access, t.w = { s.w.run s.clock with
    sys := { s.w.sys with cause := cause, epc := epc, elpc := elpc, faddr := faddr, fagent := fagent, handler := true }
    frame := some { resume := resume, em := s.w.regs.em, lpc := s.w.regs.lpc, lbase := s.w.regs.lbase,
                    depth := s.w.regs.rstack.length + 8 * s.w.regs.rsc, access := access }
    lane := { s.w.lane with q := [], batch := 0, ticket := none, pod := none }
    ticket := none, pod := none
    regs := { s.w.regs with em := s.w.populated, lpc := (ctxOf s s.w.ctx).hlbase, lbase := (ctxOf s s.w.ctx).hlbase,
                            spc := (ctxOf s s.w.ctx).handler } }

/-- The focus wave may enter its handler: it is not in it, its context has one, and its lane stream is
idle, with no push of it on the way (R108, R164). -/
def MayTrap (s : State) : Prop :=
  s.w.sys.handler = false ∧ (ctxOf s s.w.ctx).handler ≠ 0 ∧ laneComplete s = true

/-! ### Commands and devices -/

/-- The front end may apply a command: its header's reserved bits are 0, and the firmware has verified (R376, R382). -/
def Commanded (s : State) (h : Hdr) : Prop := h.r0 = 0 ∧ h.r1 = 0 ∧ s.fw.booted = true

/-- How a command stands after its packet: its SEQ and opcode, and that it is under way, or has completed with a status and
a VALUE, behind those that completed before it (R377). -/
def CommandIs (s t : State) (h : Hdr) (opc : Nat) (out : Option (Nat × Nat)) : Prop :=
  let a := ctxOf s h.ctx.toNat
  let b := ctxOf t h.ctx.toNat
  b.nextCmd = a.nextCmd + 1 ∧ ∃ c, SMap.get? b.cmds a.nextCmd = some c ∧ c.seq = h.seq ∧ c.opc.toNat = opc ∧
    match out with
    | none => c.done = false ∧ b.doneQ = a.doneQ
    | some x => c.done = true ∧ c.status.toNat = x.1 ∧ c.value.toNat = x.2 ∧ b.doneQ = a.doneQ ++ [a.nextCmd]

/-- The state a command's effect starts from: its packet is passed (R376). -/
def passed (s : State) (h : Hdr) (opc : Nat) : State := (startCmd s h opc false).1

/-- The `n` bytes from an address lie one after another in ordinary memory from key `k` on, for an agent's access. -/
def PlainAt (s : State) (ctx part : Nat) (exempt write : Bool) (va : DWord) (n k : Nat) : Prop :=
  ∀ i < n, locate s ctx part exempt write (va + dw i) = .ok (.mem (k + i))

/-- The dirty bytes of every context's L1 lines are home (R213). -/
def allFlushed (s : State) : State := (SMap.keys s.contexts).foldl flushCtx s

/-- How many codec leaves the contexts have under these tables (R252). -/
def leavesUnder (s : State) (f : Nat → Tables) : Nat :=
  (SMap.keys s.contexts).foldl (fun n c => n + (codecLeaves s (f c)).length) 0

/-- An operation's tiles are as its binding has them (R178). -/
def OpTiles (o : MOp) : Prop := o.tiles.Nodup ∧ o.tiles.length = if o.f64 then 2 else 1

/-- A command completes with status 0 and puts these quadwords in a buffer. -/
def Reports (s : State) (i : Instr) (h : Hdr) (opc k : Nat) (q : List DWord) : Prop :=
  ∃ t, exec i s = .next t ∧ CommandIs s t h opc (some (0, 0)) ∧ memBytes t.mem k (8 * q.length) = bytesOfQuads q ∧
    ∀ m, (m < k ∨ k + 8 * q.length ≤ m) → (m < pageOf s h.ctx.toNat + 20 ∨ pageOf s h.ctx.toNat + 24 ≤ m) →
      memByte t.mem m = memByte s.mem m

/-! ### Walks of the copy and transform engines (R287 to R290, R296) -/

/-- What a step of a walk gives from its source elements (R288): the bits unchanged between equal formats, else each value
converted, or eight of them quantised to an FP4 block. -/
def converted (sf df : Nat) (rnd : Rnd) (sat : Bool) (src : List (List Byte)) : List (List Byte) :=
  if sf = df then src
  else if df = 7 then
    let q := quantBlock (sourceVals sf src)
    [packBlock q.1 q.2.1]
  else match copyFmt df with
    | none => []
    | some f =>
      let narrow := match copyFmt sf with | some g => fmtNarrows g f | none => true
      (sourceVals sf src).map (fun v => bytesOf (copyBytes df) (cvtFloat f rnd sat narrow v).code)

/-- A template's conversion. -/
def jobConv (t : List DWord) (src : List (List Byte)) : List (List Byte) :=
  converted (Tmpl.sfmt t) (Tmpl.dfmt t) (Tmpl.rnd t) (Tmpl.sat t) src

/-- A step of a walk: the addresses of its source elements, and that of its first destination byte. -/
abbrev Move := List DWord × DWord

/-- The steps of a template's walk to memory, in the order of R287. -/
def jobMoves (t : List DWord) (p : Int) : List Move :=
  (Tmpl.points t).map (fun q => (Tmpl.srcAt t p q.1 q.2.1 q.2.2,
    dwI ((Tmpl.dbase t).toNat + p * signed32 (fieldOf t 607 576) + copySpan (Tmpl.dfmt t) q.1 +
      q.2.1 * signed32 (fieldOf t 511 480) + q.2.2 * signed32 (fieldOf t 543 512))))

/-- The steps of a card's walk (R296, Table 16-8): CONVERT, TRANSPOSE and FILL. -/
def cardMoves (c : List DWord) : List Move :=
  let op := fieldOf c 387 384
  let sf := fieldOf c 391 388
  let df := fieldOf c 395 392
  let nx := fieldOf c 223 192
  let src (off : Int) (y : Nat) : DWord := dwI ((c.getD 0 0).toNat + off + y * signed32 (fieldOf c 287 256))
  let dst (off : Int) (row : Nat) : DWord := dwI ((c.getD 1 0).toNat + off + row * signed32 (fieldOf c 319 288))
  (List.range (fieldOf c 255 224)).flatMap (fun y =>
    if op = 1 then
      let w := copyWidth sf df
      (List.range (nx / w)).map (fun i =>
        ((List.range (if sf = 7 then 1 else w)).map (fun k => src (copySpan sf (w * i + k)) y), dst (copySpan df (w * i)) y))
    else if op = 2 then (List.range nx).map (fun (x : Nat) => ([src (x * copyBytes sf) y], dst (y * copyBytes sf) x))
    else if op = 3 then (List.range (nx / 8)).map (fun i => ([], dst (8 * i : Nat) y))
    else [])

/-- What a step of a card's walk writes. -/
def cardConv (c : List DWord) (src : List (List Byte)) : List (List Byte) :=
  match fieldOf c 387 384 with
  | 1 =>
    converted (fieldOf c 391 388) (fieldOf c 395 392)
      (match fieldOf c 397 396 with | 0 => .rne | 1 => .rtz | 2 => .rup | _ => .rdn) (fieldOf c 398 398 == 1) src
  | 3 => [bytesOf 8 (c.getD 5 0).toNat]
  | _ => src

/-- How many bytes a step of a card's walk reads of each source element. -/
def cardRead (c : List DWord) : Nat := copyBytes (fieldOf c 391 388)

/-- How many bytes it writes. -/
def cardWrite (c : List DWord) : Nat :=
  match fieldOf c 387 384 with
  | 1 => copySpan (fieldOf c 395 392) (copyWidth (fieldOf c 391 388) (fieldOf c 395 392))
  | 3 => 8
  | _ => copyBytes (fieldOf c 391 388)

/-- The source elements, of `n` bytes, of the steps of a walk lie in ordinary memory, at the keys `src`. -/
def SourcesAt (s : State) (ctx part n : Nat) (ms : List Move) (src : Nat → Nat → Nat) : Prop :=
  ∀ (i : Nat) (mv : Move), ms[i]? = some mv → ∀ (k : Nat) (va : DWord), mv.1[k]? = some va → PlainAt s ctx part true false va n (src i k)

/-- Their destinations, of `len` bytes, lie there at the keys `dst`, apart from each other. -/
def TargetsAt (s : State) (ctx part len : Nat) (ms : List Move) (dst : Nat → Nat) : Prop :=
  (∀ (i : Nat) (mv : Move), ms[i]? = some mv → PlainAt s ctx part true true mv.2 len (dst i)) ∧
  ∀ i j, i < ms.length → j < ms.length → i ≠ j → Apart (dst i) len (dst j) len

/-- No destination overlaps a range. -/
def TargetsOff (len : Nat) (ms : List Move) (dst : Nat → Nat) (k n : Nat) : Prop := ∀ i, i < ms.length → Apart (dst i) len k n

/-- Every step of a walk that converts with `conv` has been made. -/
def Moved (s u : State) (n len : Nat) (conv : List (List Byte) → List (List Byte)) (ms : List Move) (src : Nat → Nat → Nat)
    (dst : Nat → Nat) : Prop :=
  ∀ (i : Nat) (mv : Move), ms[i]? = some mv →
    memBytes u.mem (dst i) len = (conv ((List.range mv.1.length).map (fun k => memBytes s.mem (src i k) n))).flatten

/-- An unsigned LEB128 value of at most five bytes (R289). -/
def leb : Nat → Nat → List Byte
  | 0, n => [BitVec.ofNat 8 n]
  | k + 1, n => if n < 128 then [BitVec.ofNat 8 n] else BitVec.ofNat 8 (n % 128 + 128) :: leb k (n / 128)

/-- `m` bytes copied one at a time from `d` before the end of the output. -/
def copyBack (d : Nat) : Nat → List Byte → List Byte
  | 0, out => out
  | m + 1, out => copyBack d m (out ++ [out.getD (out.length - d) 0])

/-- An item of a dictionary stream: literal bytes, match length and distance. -/
abbrev DictItem := List Byte × Nat × Nat

/-- The output of items after some output. -/
def dictOut : List DictItem → List Byte → List Byte
  | [], out => out
  | (l, m, d) :: is, out => dictOut is (copyBack d m (out ++ l))

/-- Whether items are good ones after `n` bytes of output: no match is empty or reaches back past it, and every length has a
code. -/
def dictGood : List DictItem → Nat → Bool
  | [], _ => true
  | (l, m, d) :: is, n =>
    decide (0 < m ∧ 0 < d ∧ d ≤ n + l.length ∧ l.length < 2 ^ 32 ∧ m < 2 ^ 32 ∧ d < 2 ^ 32) && dictGood is (n + l.length + m)

/-- The stream of items, with its last literals. -/
def dictBytes (is : List DictItem) (last : List Byte) : List Byte :=
  is.flatMap (fun i => leb 4 i.1.length ++ i.1 ++ leb 4 i.2.1 ++ leb 4 i.2.2) ++ leb 4 last.length ++ last ++ [0]

/-- Whether an element of a format is nonzero: −0 counts as zero (R290). -/
def elemNonzero (df : Nat) (b : List Byte) : Bool :=
  if df = 7 then (List.range 8).any (fun j => match blockElem b j with | .fin _ m _ => m != 0 | _ => true)
  else natOfBytes b % 2 ^ (8 * b.length - 1) != 0

/-- A placed task: its wave, in the first free number, starts at its entry with its argument registers, and its entry runs. -/
def StartsTask (s u : State) (part e : Nat) (t : Task) (k : KDesc) : Prop :=
  ∃ w x, SMap.get? u.waves s.nextWave = some w ∧ w.status = .ready ∧ w.rows = k.v ∧ w.task = some e ∧
    w.regs.spc = k.entry ∧ w.regs.lbase = k.lbase ∧ w.regs.em = popMask (TaskRec.lanes t.r + 1) ∧
    getS w 0 = dw e ∧ getS w 1 = TaskRec.arg t.r ∧ getS w 2 = TaskRec.argb t.r ∧
    SMap.get? (partOf u part).tasks e = some x ∧ x.st = .running ∧ x.wave = some s.nextWave

/-- A batch of a traversal bin is dealt (R329): its rays, up to 64 of the oldest, are at the unit with the fewest, and no other
ray moves. -/
def DealsBatch (s : State) (r : Result) (n b : Nat) : Prop :=
  let p := partOf s n
  let batch := (raysIn p b).take 64
  ∃ t, r = .next t ∧ PartOnly s t ∧
    (∀ sr ∈ batch, SMap.get? (partOf t n).rays sr.1 =
      some { sr.2 with loc := .traversal (leastUnit p) b p.raySeq, since := s.clock }) ∧
    ∀ k, (∀ sr ∈ batch, sr.1 ≠ k) → SMap.get? (partOf t n).rays k = SMap.get? p.rays k

/-! ### The relations of R115 -/

/-- The comparison codes 0 to 11, in order: equality, the signed orders, the unsigned orders, and whether the
AND is nonzero or zero. -/
def comparisons : List (DWord → DWord → Bool) :=
  [fun x y => decide (x = y), fun x y => decide (x ≠ y),
   fun x y => decide (x.toInt < y.toInt), fun x y => decide (x.toInt ≤ y.toInt),
   fun x y => decide (y.toInt < x.toInt), fun x y => decide (y.toInt ≤ x.toInt),
   fun x y => decide (x.toNat < y.toNat), fun x y => decide (x.toNat ≤ y.toNat),
   fun x y => decide (y.toNat < x.toNat), fun x y => decide (y.toNat ≤ x.toNat),
   fun x y => decide (x &&& y ≠ 0), fun x y => decide (x &&& y = 0)]

/-- The same of 32-bit words. -/
def narrowComparisons : List (Word → Word → Bool) :=
  [fun x y => decide (x = y), fun x y => decide (x ≠ y),
   fun x y => decide (x.toInt < y.toInt), fun x y => decide (x.toInt ≤ y.toInt),
   fun x y => decide (y.toInt < x.toInt), fun x y => decide (y.toInt ≤ x.toInt),
   fun x y => decide (x.toNat < y.toNat), fun x y => decide (x.toNat ≤ y.toNat),
   fun x y => decide (y.toNat < x.toNat), fun x y => decide (y.toNat ≤ x.toNat),
   fun x y => decide (x &&& y ≠ 0), fun x y => decide (x &&& y = 0)]

/-! ### System registers as words -/

/-- The system registers that a wave holds, with what SRD reads of each (Table 06-2). -/
def systemWords : List (BitVec 18 × (Sys → DWord)) :=
  [(0x002, fun x => x.cause), (0x003, fun x => x.epc), (0x004, fun x => x.elpc), (0x005, fun x => x.faddr),
   (0x006, fun x => x.fagent), (0x008, fun x => x.spillbase), (0x009, fun x => x.spilllim), (0x00A, fun x => x.stallchk),
   (0x00B, fun x => x.fpmode), (0x00C, fun x => x.fpstat), (0x011, fun x => dw x.partid.toNat),
   (0x012, fun x => dw x.dieid.toNat), (0x013, fun x => dw x.cluster.toNat), (0x014, fun x => dw x.core.toNat),
   (0x015, fun x => dw x.slot.toNat), (0x020, fun x => x.tmplbase), (0x021, fun x => dw x.taskid.toNat),
   (0x022, fun x => dw x.frameid.toNat)]

/-- The registers that SWR writes, FPSTAT apart, with the mask of their writable fields (Tables 06-5 to 06-8). -/
def systemMasks : List (BitVec 18 × DWord) :=
  [(0x002, 0x00000003FFFF03FF), (0x003, 0xFFFFFFFFFFFFFFFC), (0x004, 0x00000000000FFFFF), (0x005, 0xFFFFFFFFFFFFFFFF),
   (0x006, 0x0000FFFFFFFFF00F), (0x008, 0xFFFFFFFFFFFFFFC0), (0x009, 0xFFFFFFFFFFFFFFC0), (0x00A, 1), (0x00B, 3),
   (0x020, 0xFFFFFFFFFFFFFF80)]

/-! ### Invariants -/

/-- The canonical form of memory: rising keys, no entry of 0. -/
def MemoryForm (s : State) : Prop := Memory.wf s.mem = true

/-- The power cap and the clock are values that R16 allows: within the limits, in tens of watts. -/
def PowerLegal (s : State) : Prop :=
  (if s.power.card then 300 else 600) ≤ s.power.cap ∧ s.power.cap ≤ (if s.power.card then 450 else 1400) ∧
    s.power.cap % 10 = 0 ∧ 400 ≤ s.power.mhz ∧ s.power.mhz ≤ nominalClock s.power

end Sys2Proof.Machine
end

