-- ==== Sys2Proof/Certificates/Slice0/Obligations.lean ====
section
/-! DEFINITION. The statements for the provers: what the numbered rules of the spec say the machine does. -/

open Sys2Proof Sys2Proof.Machine

/-! ### Reset and the step -/

/-- What the spec gives for die reset: CLOCK 0 (R103), the cap and clock (R16), no partition and the
fabric manager's endpoint alone (R374), firmware not yet booted (R382).
The invariants hold at reset: memory in its form, and the power limits.
The empty memory, the empty focus slot and that the die is a module's are the model's (logs 1, 2 and 97). -/
def Obligations.ResetState : Prop :=
  (State.reset.clock = 0 ∧ State.reset.power.cap = 1400 ∧ State.reset.power.mhz = 1300 ∧ State.reset.parts = [] ∧
    SMap.keys State.reset.contexts = [0xFFFF] ∧ State.reset.waves = [] ∧ State.reset.fw.booted = false) ∧
  (MemoryForm State.reset ∧ PowerLegal State.reset)

/-- Every step keeps the canonical form of memory, in whatever state it is taken.
The form, rising keys and no listed 0, is the model's (log 1). -/
def Obligations.StepKeepsMemoryForm : Prop := ∀ s t : State, MemoryForm s → step s = .next t → MemoryForm t

/-- No step leaves the power limits the spec gives: whatever runs, the cap stays a multiple of 10 W within the
limits, and the clock between its floor and its nominal value. -/
def Obligations.StepKeepsPowerLegal : Prop := ∀ s t : State, PowerLegal s → step s = .next t → PowerLegal t

/-- A scalar move executes the word at SPC: when no wave that may issue is overdue, the focus wave, its answered park taken up,
is to fetch, its group scheduler prefers no other wave that may issue, and its bytes at SPC are a word that the throttle
lets issue, the step is that word's instruction, and the move's and the cycle's end after it.
A lane move issues the oldest entry of the focus wave's lane-issue queue, on the same terms.
A ring move executes the command that the endpoint's next packet decodes to; a device move executes its
device step on the agent the agenda names.
The agenda that names the move is the model's (log 5). -/
def Obligations.StepRunsDecoded : Prop :=
  (∀ (s : State) (rest : List Turn) (x : Nat),
      let u : State := { s with agenda := rest }
      let v := takeAnswer u
      s.agenda = .scalar :: rest → overdue u = none → heldMove v = none →
      (∀ y ∈ rivals v, scalarBegins v y = false ∧ laneBegins v y = false) →
      fetchAt v v.w.regs.spc 4 = .ok x → (scalarMem x && throttled v v.w) = false →
      ∀ t, exec (decodeScalar (BitVec.ofNat 32 x)) v = .next t → step s = .next (settle true u t)) ∧
  (∀ (s : State) (rest : List Turn) (e : LEntry) (q : List LEntry),
      let u : State := { s with agenda := rest }
      s.agenda = .lane :: rest → overdue u = none → laneOpen u = true → s.w.lane.q = e :: q →
      (∀ y ∈ rivals u, scalarBegins u y = false ∧ laneBegins u y = false) →
      (laneThrottled e.i && throttled u s.w) = false →
      ∀ t, exec e.i (popLane u e q) = .next t → step s = .next (settle true u t)) ∧
  (∀ (s : State) (rest : List Turn) (i : Instr),
      let u : State := { s with agenda := rest }
      (∀ ctx t, s.agenda = .ring ctx :: rest → packetEcc u ctx = false → ringNext u ctx = .run i →
        exec i u = .next t → step s = .next (settle false u t)) ∧
      (∀ x t, s.agenda = .event i x :: rest → encode i = none →
        exec i { u with target := x } = .next t → step s = .next (settle false u t)))

/-! ### Encodings -/

/-- Words written out from the tables of chapter 04, 10 and 22 decode to what they stand for. -/
def Obligations.DecodeWords : Prop :=
  decodeScalar 0b000001_00000011_00000001_00000010_00 = .add 3 1 2 ∧
  decodeScalar 0b000111_00000101_00000100_1111111111 = .addi 5 4 0x3FF ∧
  decodeScalar 0b010010_1_000_0000000000000000000010 = .brc 1 0 2 ∧
  decodeScalar 0b011101_00000110_00000111_0000000001 = .sld 6 7 1 ∧
  decodeScalar 0b101000_00000000_000000000000000101 = .trap 5 ∧
  decodeScalar 0xFFFFFFFF = .illegalScalarWord 0xFFFFFFFF ∧
  (decodeLane 0xF0).toOption = some (.vnop 0) ∧
  (decodePacket [0x000000000001000A, 7]).toOption = some (.fenceCommand { r1 := 0, ctx := 0, r0 := 0, len := 1, seq := 7 })

/-- Every scalar instruction that the encoding admits decodes from its own word, with every operand at every
value of its field.
Every scalar word that has a row is the word of the instruction it decodes to: no bit of it is dropped. -/
def Obligations.ScalarRoundTrip : Prop :=
  (∀ (i : Instr) (w : BitVec 32), i.wf = true → encodeScalar i = some w → decodeScalar w = i) ∧
  (∀ (w : BitVec 32) (i : Instr), scalarRow w = some i → encodeScalar i = some w)

/-- Every well-formed lane instruction decodes from its own word. -/
def Obligations.LaneRoundTrip : Prop :=
  ∀ (i : Instr) (w : BitVec 96), i.wf = true → encodeLane i = some w → (decodeLane w).toOption = some i

/-- Every well-formed command decodes from its own packet. -/
def Obligations.PacketRoundTrip : Prop :=
  ∀ (i : Instr) (qs : List (BitVec 64)), i.wf = true → encodePacket i = some qs → (decodePacket qs).toOption = some i

/-! ### Scalar arithmetic, conditions and system registers -/

/-- Register-register arithmetic (R109, R111): the words of format SR with the majors and fn of Table 06-9, the value
in s[d], as an exact result modulo 2^64, and nothing else, no condition among it; SEL by its condition, fn = N. -/
def Obligations.ScalarTwoSources : Prop :=
  ∀ (s : State) (d a b : BitVec 8), Settled s.w [a.toNat, b.toNat] d.toNat →
    let x := getS s.w a.toNat
    let y := getS s.w b.toNat
    ScalarTo s (exec (.add d a b) s) d.toNat (dw (x.toNat + y.toNat)) ∧
    ScalarTo s (exec (.sub d a b) s) d.toNat (dwI ((x.toNat : Int) - y.toNat)) ∧
    ScalarTo s (exec (.and d a b) s) d.toNat (x &&& y) ∧
    ScalarTo s (exec (.or d a b) s) d.toNat (x ||| y) ∧
    ScalarTo s (exec (.xor d a b) s) d.toNat (x ^^^ y) ∧
    ScalarTo s (exec (.andn d a b) s) d.toNat (x &&& ~~~ y) ∧
    ScalarTo s (exec (.shl d a b) s) d.toNat (dw (x.toNat * 2 ^ (y.toNat % 64))) ∧
    ScalarTo s (exec (.shr d a b) s) d.toNat (dw (x.toNat / 2 ^ (y.toNat % 64))) ∧
    ScalarTo s (exec (.sar d a b) s) d.toNat (dwI (x.toInt / 2 ^ (y.toNat % 64))) ∧
    ScalarTo s (exec (.mul d a b) s) d.toNat (dw (x.toNat * y.toNat)) ∧
    ScalarTo s (exec (.mulh d a b) s) d.toNat (dwI (x.toInt * y.toInt / 2 ^ 64)) ∧
    ScalarTo s (exec (.mulhu d a b) s) d.toNat (dw (x.toNat * y.toNat / 2 ^ 64)) ∧
    ScalarTo s (exec (.min d a b) s) d.toNat (if x.toInt ≤ y.toInt then x else y) ∧
    ScalarTo s (exec (.max d a b) s) d.toNat (if x.toInt ≤ y.toInt then y else x) ∧
    ScalarTo s (exec (.minu d a b) s) d.toNat (if x.toNat ≤ y.toNat then x else y) ∧
    ScalarTo s (exec (.maxu d a b) s) d.toNat (if x.toNat ≤ y.toNat then y else x) ∧
    (∀ n : BitVec 2, decodeScalar (0x06#6 ++ d ++ a ++ b ++ n) = .sel d a b n ∧
      ScalarTo s (exec (.sel d a b n) s) d.toNat (if getC s.w n.toNat then x else y)) ∧
    ∀ mfi ∈ [(1#6, 0#2, Instr.add d a b), (1, 1, .sub d a b), (1, 2, .and d a b), (1, 3, .or d a b),
        (2, 0, .xor d a b), (2, 1, .shl d a b), (2, 2, .shr d a b), (2, 3, .sar d a b),
        (3, 0, .mul d a b), (3, 1, .mulh d a b), (3, 2, .mulhu d a b), (3, 3, .andn d a b),
        (4, 0, .min d a b), (4, 1, .max d a b), (4, 2, .minu d a b), (4, 3, .maxu d a b)],
      decodeScalar (mfi.1 ++ d ++ a ++ b ++ mfi.2.1) = mfi.2.2

/-- One-source arithmetic (R110): the counts are what they count, and BREV mirrors every bit; a nonzero sb is a word
outside every row.
Immediate arithmetic (R112 to R114): ten-bit immediates are sign-extended; MOVK replaces one halfword; a shift by an
immediate whose bits 7 and 6 are not 0 is a word outside every row. -/
def Obligations.ScalarOneSourceAndImmediates : Prop :=
  (∀ (s : State) (d a : BitVec 8), Settled s.w [a.toNat] d.toNat →
      let x := getS s.w a.toNat
      ScalarTo s (exec (.popc d a) s) d.toNat (dw ((List.range 64).countP (fun i => x.getLsbD i))) ∧
      (∃ n, n ≤ 64 ∧ (∀ i < n, x.getLsbD (63 - i) = false) ∧ (n < 64 → x.getLsbD (63 - n) = true) ∧
        ScalarTo s (exec (.clz d a) s) d.toNat (dw n)) ∧
      (∃ n, n ≤ 64 ∧ (∀ i < n, x.getLsbD i = false) ∧ (n < 64 → x.getLsbD n = true) ∧
        ScalarTo s (exec (.ctz d a) s) d.toNat (dw n)) ∧
      (∃ y : DWord, (∀ i < 64, y.getLsbD i = x.getLsbD (63 - i)) ∧ ScalarTo s (exec (.brev d a) s) d.toNat y) ∧
      decodeScalar (5#6 ++ d ++ a ++ 0#8 ++ 0#2) = .popc d a ∧ decodeScalar (5#6 ++ d ++ a ++ 0#8 ++ 1#2) = .clz d a ∧
      decodeScalar (5#6 ++ d ++ a ++ 0#8 ++ 2#2) = .ctz d a ∧ decodeScalar (5#6 ++ d ++ a ++ 0#8 ++ 3#2) = .brev d a ∧
      ∀ (b : BitVec 8) (f : BitVec 2), b ≠ 0 →
        decodeScalar (5#6 ++ d ++ a ++ b ++ f) = .illegalScalarWord (5#6 ++ d ++ a ++ b ++ f)) ∧
  (∀ (s : State) (d a : BitVec 8) (i : BitVec 10) (n : BitVec 6) (h : BitVec 2) (k : BitVec 16),
      Settled s.w [a.toNat] d.toNat →
      let x := getS s.w a.toNat
      ScalarTo s (exec (.addi d a i) s) d.toNat (dwI (x.toInt + i.toInt)) ∧
      ScalarTo s (exec (.muli d a i) s) d.toNat (dwI (x.toInt * i.toInt)) ∧
      ScalarTo s (exec (.andi d a i) s) d.toNat (x &&& dwI i.toInt) ∧
      ScalarTo s (exec (.ori d a i) s) d.toNat (x ||| dwI i.toInt) ∧
      ScalarTo s (exec (.xori d a i) s) d.toNat (x ^^^ dwI i.toInt) ∧
      ScalarTo s (exec (.shli d a n) s) d.toNat (dw (x.toNat * 2 ^ n.toNat)) ∧
      ScalarTo s (exec (.shri d a n) s) d.toNat (dw (x.toNat / 2 ^ n.toNat)) ∧
      ScalarTo s (exec (.sari d a n) s) d.toNat (dwI (x.toInt / 2 ^ n.toNat)) ∧
      ScalarTo s (exec (.roti d a n) s) d.toNat (dw (x.toNat * 2 ^ n.toNat + x.toNat * 2 ^ n.toNat / 2 ^ 64)) ∧
      ScalarTo s (exec (.movz d h k) s) d.toNat (dw (k.toNat * 2 ^ (16 * h.toNat))) ∧
      ∃ y : DWord, (∀ j < 4, y.toNat / 2 ^ (16 * j) % 2 ^ 16 =
          if j = h.toNat then k.toNat else (getS s.w d.toNat).toNat / 2 ^ (16 * j) % 2 ^ 16) ∧
        ScalarTo s (exec (.movk d h k) s) d.toNat y ∧
      decodeScalar (7#6 ++ d ++ a ++ i) = .addi d a i ∧ decodeScalar (8#6 ++ d ++ a ++ i) = .andi d a i ∧
      decodeScalar (9#6 ++ d ++ a ++ i) = .ori d a i ∧ decodeScalar (10#6 ++ d ++ a ++ i) = .xori d a i ∧
      decodeScalar (12#6 ++ d ++ a ++ i) = .muli d a i ∧
      decodeScalar (13#6 ++ d ++ h ++ k) = .movz d h k ∧ decodeScalar (14#6 ++ d ++ h ++ k) = .movk d h k ∧
      decodeScalar (11#6 ++ d ++ a ++ 0#2 ++ 0#2 ++ n) = .shli d a n ∧
      decodeScalar (11#6 ++ d ++ a ++ 1#2 ++ 0#2 ++ n) = .shri d a n ∧
      decodeScalar (11#6 ++ d ++ a ++ 2#2 ++ 0#2 ++ n) = .sari d a n ∧
      decodeScalar (11#6 ++ d ++ a ++ 3#2 ++ 0#2 ++ n) = .roti d a n ∧
      ∀ f z : BitVec 2, z ≠ 0 →
        decodeScalar (11#6 ++ d ++ a ++ f ++ z ++ n) = .illegalScalarWord (11#6 ++ d ++ a ++ f ++ z ++ n))

/-- Comparisons and condition logic (R115, R116): the words, the code's relation into c[d], or the bit of the truth table
that the two conditions select; a c[d] above 5 or a code above 11 raises ILLEGAL, and a word with a low field
not 0 is outside every row. -/
def Obligations.ScalarConditions : Prop :=
  ∀ (s : State) (d : BitVec 3) (cc : BitVec 5) (a b : BitVec 8) (i : BitVec 10),
    let bad (x : Instr) : Prop := MayTrap s → ∃ u, exec x s = .next u ∧
      Enters s u 1 (s.w.regs.spc &&& 0xFFFFFFFFFFFFFFFC) 0 0 0 s.w.regs.spc
    (decodeScalar (15#6 ++ d ++ cc ++ a ++ b ++ 0#2) = .cmp d cc a b ∧
      decodeScalar (16#6 ++ d ++ cc ++ a ++ i) = .cmpi d cc a i ∧
      (5 < d.toNat ∨ 11 < cc.toNat → bad (.cmp d cc a b) ∧ bad (.cmpi d cc a i)) ∧
      ∀ z : BitVec 2, z ≠ 0 →
        decodeScalar (15#6 ++ d ++ cc ++ a ++ b ++ z) = .illegalScalarWord (15#6 ++ d ++ cc ++ a ++ b ++ z)) ∧
    (∀ (p q : BitVec 3) (t : BitVec 4),
      decodeScalar (17#6 ++ d ++ p ++ q ++ t ++ 0#13) = .clog d p q t ∧ (5 < d.toNat → bad (.clog d p q t)) ∧
      ∀ z : BitVec 13, z ≠ 0 →
        decodeScalar (17#6 ++ d ++ p ++ q ++ t ++ z) = .illegalScalarWord (17#6 ++ d ++ p ++ q ++ t ++ z)) ∧
    (d.toNat ≤ 5 → Readable s.w [a.toNat, b.toNat] →
    (∀ r : DWord → DWord → Bool, comparisons[cc.toNat]? = some r →
      CondTo s (exec (.cmp d cc a b) s) d.toNat (r (getS s.w a.toNat) (getS s.w b.toNat)) ∧
      CondTo s (exec (.cmpi d cc a i) s) d.toNat (r (getS s.w a.toNat) (dwI i.toInt))) ∧
    ∀ (p q : BitVec 3) (t : BitVec 4),
      CondTo s (exec (.clog d p q t) s) d.toNat
        (t.getLsbD (2 * (if getC s.w p.toNat then 1 else 0) + (if getC s.w q.toNat then 1 else 0))))

/-- SRD (R96, R117): every system register that a wave holds as a word reads what it holds, CLOCK reads the cycle
count, and a reserved number reads 0; STATUS reads its fields.
SWR (R96, R117): the writable fields of the register take the value, every other system register keeps its own,
and nothing else changes; a register that is read-only keeps its value; FPSTAT's flags clear where a 1 is written (R86); BLINKTRIG fires the software trigger
where it is armed, no hold-off runs and no snapshot read copies (R106, R365, R366). -/
def Obligations.SystemRegisters : Prop :=
  (∀ (s : State) (d : BitVec 8), Settled s.w [] d.toNat →
      (∀ rf ∈ systemWords, ScalarTo s (exec (.srd d rf.1) s) d.toNat (rf.2 s.w.sys)) ∧
      ScalarTo s (exec (.srd d 0x010) s) d.toNat (dw s.clock) ∧
      (∀ r : BitVec 18, sysKnown r.toNat = false → ScalarTo s (exec (.srd d r) s) d.toNat 0) ∧
      ∃ x : DWord, ScalarTo s (exec (.srd d 0x000) s) d.toNat x ∧ bits x 15 8 = s.w.sys.lls.toNat ∧
        x.getLsbD 5 = s.w.preq ∧ x.getLsbD 4 = s.w.bound ∧ x.getLsbD 3 = s.w.coop ∧ x.getLsbD 2 = s.w.sys.handler ∧
        bits x 1 0 = (match s.w.kind with | .grid => 0 | .task => 1 | .node => 2 | .episode => 3)) ∧
  (∀ (s : State) (d : BitVec 8), Readable s.w [d.toNat] →
      let v := getS s.w d.toNat
      let done (t : State) := t = { s with w := { s.w.run s.clock with
          sys := t.w.sys, regs := { s.w.regs with spc := s.w.regs.spc + 4 } } }
      (∀ rm ∈ systemMasks, ∃ t, exec (.swr d rm.1) s = .next t ∧ done t ∧ sysRead t rm.1.toNat = v &&& rm.2 ∧
        ∀ r, r ≠ rm.1.toNat → sysRead t r = sysRead s r) ∧
      (∀ r ∈ [0x000#18, 0x010, 0x011, 0x012, 0x013, 0x014, 0x015, 0x021, 0x022],
        LeavesRegs s (exec (.swr d r) s) { s.w.regs with spc := s.w.regs.spc + 4 }) ∧
      (∃ t, exec (.swr d 0x00C) s = .next t ∧ done t ∧ (∀ r, r ≠ 0x00C → sysRead t r = sysRead s r) ∧
        (∀ i < 5, t.w.sys.fpstat.getLsbD i = (s.w.sys.fpstat.getLsbD i && !v.getLsbD i)) ∧
        (∀ i, 5 ≤ i → i < 16 → t.w.sys.fpstat.getLsbD i = false) ∧
        (∀ i, 16 ≤ i → t.w.sys.fpstat.getLsbD i = v.getLsbD i)) ∧
      ∃ t, exec (.blinktrig d) s = .next t ∧
        t = { s with parts := t.parts, w := { s.w.run s.clock with regs := { s.w.regs with spc := s.w.regs.spc + 4 } } } ∧
        ((partOf s s.w.part).blink.ctl.getLsbD 0 = true → (partOf s s.w.part).blink.holdUntil = none →
          (partOf s s.w.part).blink.copying ≤ s.clock → (partOf t s.w.part).blink.fired.getLsbD 0 = true))


/-! ### Control flow -/

/-- Branches, calls and returns (R159, R160): where SPC goes, what the return stack holds, and nothing else; a branch
that is no kill point, a stack that needs no spill or refill (those are `StacksSpillAndRefill` and `ExitAndKill`). -/
def Obligations.BranchesAndCalls : Prop :=
  ∀ (s : State) (n : BitVec 1) (c : BitVec 3) (o : BitVec 22) (a : BitVec 8),
    let pc := s.w.regs.spc
    let there := dwI (pc.toNat + 4 * o.toInt)
    let sa := getS s.w a.toNat
    (¬ (c = 7 ∧ n = 1) → (killsBack s = false ∨ killNow s = false) →
      LeavesRegs s (exec (.brc n c o) s)
        { s.w.regs with spc := if getC s.w c.toNat = (n == 1) then pc + 4 else there }) ∧
    (s.w.regs.rstack.length < 16 →
      LeavesRegs s (exec (.call o) s) { s.w.regs with rstack := (pc + 4) :: s.w.regs.rstack, spc := there }) ∧
    (Readable s.w [a.toNat] → sa.toNat % 4 = 0 → (killsBack s = false ∨ killNow s = false) →
      LeavesRegs s (exec (.jmpr a) s) { s.w.regs with spc := sa }) ∧
    (Readable s.w [a.toNat] → sa.toNat % 4 = 0 → s.w.regs.rstack.length < 16 →
      LeavesRegs s (exec (.callr a) s) { s.w.regs with rstack := (pc + 4) :: s.w.regs.rstack, spc := sa }) ∧
    (∀ t l, s.w.regs.rstack = t :: l → (s.w.frame = none ∨ s.w.sys.handler = false) →
      LeavesRegs s (exec .ret s) { s.w.regs with rstack := l, spc := t })

/-- Jumps to an address that is no word address raise ALIGN, precise, with the address in FADDR (R62, R160); JMPR where it
is no kill point that kills.
Words that have a row but a refused field value (R61) raise ILLEGAL, precise at the word. -/
def Obligations.JumpsAndIllegalFields : Prop :=
  (∀ (s : State) (a : BitVec 8), MayTrap s → (getS s.w a.toNat).toNat % 4 ≠ 0 →
      (killsBack s = false ∨ killNow s = false → ∃ t, exec (.jmpr a) s = .next t ∧
        Enters s t 0x05 (s.w.regs.spc &&& 0xFFFFFFFFFFFFFFFC) 0 (getS s.w a.toNat) 0 s.w.regs.spc) ∧
      ∃ t, exec (.callr a) s = .next t ∧
        Enters s t 0x05 (s.w.regs.spc &&& 0xFFFFFFFFFFFFFFFC) 0 (getS s.w a.toNat) 0 s.w.regs.spc) ∧
  (∀ (s : State) (a b : BitVec 8) (o : BitVec 22) (r : BitVec 18), MayTrap s →
      let bad (x : Instr) : Prop := ∃ u, exec x s = .next u ∧
        Enters s u 1 (s.w.regs.spc &&& 0xFFFFFFFFFFFFFFFC) 0 0 0 s.w.regs.spc
      bad (.brc 1 7 o) ∧
      (15 < b.toNat → bad (.mpush b) ∧ bad (.ballot a b) ∧ bad (.vpset a b)) ∧
      (sysKnown r.toNat = false → bad (.swr a r)))

/-- TRAP and words outside every format (R118, R59, R353): the cause with its immediate, EPC at the word, the resume
point, ELPC, FADDR and FAGENT 0, and the handler entered; until the lane stream is idle, TRAP waits.
A trap return (R354): RET in the handler at the frame's depth puts back em, LPC and the lane section base,
leaves the handler, and resumes where CAUSE.CODE says: at EPC for code 0, at the frame's point for 0x01 to 0x14; an MWAIT that
reported a cause is enqueued again unless it resumes at EPC (R352).
That such an MWAIT executes again is the model's (log 86), and so is that a trap gives up an SC operation not begun (log 104). -/
def Obligations.TrapEntryAndReturn : Prop :=
  (∀ (s : State), MayTrap s →
      (∀ i : BitVec 18, ∃ t, exec (.trap i) s = .next t ∧
        Enters s t (dw (3 + i.toNat * 2 ^ 16)) (s.w.regs.spc &&& 0xFFFFFFFFFFFFFFFC) 0 0 0 (s.w.regs.spc + 4)) ∧
      (∀ i : BitVec 18, decodeScalar (0x28#6 ++ 0#8 ++ i) = .trap i) ∧ decodeScalar 0xA0001234 = .trap 0x1234 ∧
      ∀ w : BitVec 32, ∃ t, exec (.illegalScalarWord w) s = .next t ∧
        Enters s t 1 (s.w.regs.spc &&& 0xFFFFFFFFFFFFFFFC) 0 0 0 s.w.regs.spc) ∧
  (∀ (s : State) (i : BitVec 18), laneIdle s.w = false → Waits s (exec (.trap i) s)) ∧
  (∀ (s : State) (f : Frame), s.w.frame = some f → s.w.sys.handler = true →
      f.depth = s.w.regs.rstack.length + 8 * s.w.regs.rsc → bits s.w.sys.cause 7 0 ≤ 0x14 →
      exec .ret s = .next { s with w := { s.w.run s.clock with
        frame := none, sys := { s.w.sys with handler := false }
        lane := (match f.again with
          | some e => if bits s.w.sys.cause 7 0 = 0 then s.w.lane
              else
                let e := { e with num := s.w.lane.seq - 1 }
                { s.w.lane with q := e :: s.w.lane.q, issue := e, seq := s.w.lane.seq - 1 }
          | none => s.w.lane)
        regs := { s.w.regs with em := f.em, lpc := f.lpc, lbase := f.lbase,
                                spc := if bits s.w.sys.cause 7 0 = 0 then s.w.sys.epc else f.resume } } })

/-- LRUN and LNEXT (R163): a batch whose words can be fetched and are legal enters the queue in order, each word with
what it captured, and LPC goes past it; a field of 0 stands for 64 words. Where the queue has no room for all of them, those
that it has room for enter it, and the instruction waits.
A word that is not legal raises ILLEGAL, precise at the word, once the instructions before it have completed: LANE is 1, ELPC
is the word's index, and LPC is left at the batch's start (R74, R163); the words before it have entered the queue.
How many of a batch's words have entered the queue is the model's own record (log 104). -/
def Obligations.BatchEnqueue : Prop :=
  ∀ (s : State) (f : BitVec 6) (x : BitVec 20),
    let n := if f = 0 then 64 else f.toNat
    let word (start : DWord) (j : Nat) (i : Option Instr) : Prop :=
      ∃ w, fetchAt s (start + dw (12 * j)) 12 = .ok w ∧
        (decodeLane (BitVec.ofNat 96 w)).toOption.filter (fun i => laneLegal s.w i) = i
    let runs (r : Result) (start : DWord) : Prop :=
      (∀ l : List Instr, l.length = n → s.w.lane.batch = 0 → (∀ j i, l[j]? = some i → word start j (some i)) →
        let entry (ij : Instr × Nat) : LEntry :=
          captured s.w ij.1 (start + dw (12 * ij.2)) (s.w.lane.seq + s.w.lane.q.length + ij.2)
        let room := 64 - s.w.lane.q.length
        (s.w.lane.q.length + n ≤ 64 → r = .next { s with w := { s.w.run s.clock with
          lane := { s.w.lane with q := s.w.lane.q ++ l.zipIdx.map entry }
          regs := { s.w.regs with lpc := start + dw (12 * n), spc := s.w.regs.spc + 4 } } }) ∧
        (64 < s.w.lane.q.length + n → s.w.lane.q.length ≤ 64 → r = .next { s with w := { s.w with
          lane := { s.w.lane with q := s.w.lane.q ++ (l.zipIdx.map entry).take room, batch := room }
          status := if s.w.status = .ready then .waiting else s.w.status } })) ∧
      (s.w.lane.batch < n → word start s.w.lane.batch none → MayTrap s →
        ∃ t, r = .next t ∧ Enters { s with w := { s.w with regs := { s.w.regs with lpc := start } } } t (dw 0x201)
          (s.w.regs.spc &&& 0xFFFFFFFFFFFFFFFC)
          (dw ((start + dw (12 * s.w.lane.batch) - s.w.regs.lbase).toNat / 12 % 2 ^ 20)) 0 0 s.w.regs.spc)
    runs (exec (.lrun f x) s) (s.w.regs.lbase + dw (12 * x.toNat)) ∧ runs (exec (.lnext f) s) s.w.regs.lpc

/-- The mask and predicate instructions (Table 09-2): em, the mask stack, the predicate or the scalar register, and
nothing else. -/
def Obligations.MaskInstructions : Prop :=
  ∀ (s : State) (p a d : BitVec 8),
    let g := s.w.regs
    let pc := s.w.regs.spc + 4
    let P := s.w.populated
    (p.toNat < 16 → writerVp s.w p.toNat = false → g.mstack.length < 16 →
      LeavesRegs s (exec (.mpush p) s) { g with mstack := g.em :: g.mstack, em := g.em &&& getVp s.w p.toNat &&& P, spc := pc }) ∧
    (∀ m l, g.mstack = m :: l →
      LeavesRegs s (exec .melse s) { g with em := m &&& ~~~ g.em &&& P, spc := pc } ∧
      LeavesRegs s (exec .mpop s) { g with em := m &&& P, mstack := l, spc := pc } ∧
      LeavesRegs s (exec .mrest s) { g with em := m &&& P, spc := pc }) ∧
    (Readable s.w [a.toNat] →
      LeavesRegs s (exec (.msets a) s) { g with em := BitVec.ofNat 32 (getS s.w a.toNat).toNat &&& P, spc := pc }) ∧
    (Settled s.w [] d.toNat → ScalarTo s (exec (.mget d) s) d.toNat (dw g.em.toNat)) ∧
    (Settled s.w [] d.toNat → p.toNat < 16 → writerVp s.w p.toNat = false →
      ScalarTo s (exec (.ballot d p) s) d.toNat (dw (getVp s.w p.toNat &&& g.em).toNat)) ∧
    (Readable s.w [a.toNat] → p.toNat < 16 → busyVp s.w p.toNat = false →
      ∃ t, exec (.vpset a p) s = .next t ∧ RegsOnly s t ∧ t.w.regs = { g with vp := t.w.regs.vp, spc := pc } ∧
        ∀ n, getVp t.w n = if n = p.toNat then BitVec.ofNat 32 (getS s.w a.toNat).toNat &&& P else getVp s.w n)

/-- TLOOP (R169), where it is no kill point that kills: the count falls by 1 in each lane of em, lanes that reach 0 leave em, and the branch is taken while
a lane is left; no other lane, register or byte changes.
A register at or above V is ILLEGAL for each, and each waits while a lane instruction still has the register to write
(TLOOP: to read).
SRFL and SLANE (R170): the lane they read, zero-extended; 0 with em = 0, and 0 of an unpopulated lane.
Each on a row whose data ECC can correct; one that cannot raises ECC with the wave as the failing agent (R15).
That a row at or above V is ILLEGAL for SRFL and SLANE, which rows ECC cannot correct, and that such an ECC's FADDR is 0 are
the model's (log 81). -/
def Obligations.LoopCountsAndLaneReads : Prop :=
  (∀ (s : State) (v : BitVec 10) (o : BitVec 16), v.toNat < s.w.rows → busyV s.w v.toNat = false →
      v.toNat ∉ s.w.regs.bad → (killsBack s = false ∨ killNow s = false) →
      let goes (k : Nat) : Bool := s.w.regs.em.getLsbD k && getV s.w v.toNat k - 1 != 0
      ∃ t, exec (.tloop v o) s = .next t ∧ RegsOnly s t ∧
        (∀ r k, k < 32 → getV t.w r k =
          if r = v.toNat ∧ s.w.regs.em.getLsbD k = true then getV s.w r k - 1 else getV s.w r k) ∧
        (∀ k, k < 32 → t.w.regs.em.getLsbD k = (goes k && s.w.populated.getLsbD k)) ∧
        t.w.regs = { s.w.regs with
          v := t.w.regs.v, em := t.w.regs.em
          spc := if (List.range 32).any goes then dwI (s.w.regs.spc.toNat + 4 * o.toInt) else s.w.regs.spc + 4 }) ∧
  (∀ (s : State) (d a : BitVec 8) (v : BitVec 10) (o : BitVec 16),
      decodeScalar (0x1A#6 ++ v ++ o) = .tloop v o ∧ decodeScalar (0x1B#6 ++ d ++ v ++ 0#8) = .srfl d v ∧
      decodeScalar (0x1C#6 ++ d ++ v ++ a) = .slane d v a ∧
      (v.toNat < s.w.rows → busyV s.w v.toNat = true → Waits s (exec (.tloop v o) s)) ∧
      (v.toNat < s.w.rows → writerV s.w v.toNat = true → Waits s (exec (.srfl d v) s) ∧ Waits s (exec (.slane d v a) s)) ∧
      (∀ i ∈ [Instr.tloop v o, .srfl d v, .slane d v a], s.w.rows ≤ v.toNat → MayTrap s →
        ∃ t, exec i s = .next t ∧ Enters s t 1 (s.w.regs.spc &&& 0xFFFFFFFFFFFFFFFC) 0 0 0 s.w.regs.spc) ∧
      ∀ i ∈ [Instr.tloop v o, .srfl d v, .slane d v a], v.toNat < s.w.rows → v.toNat ∈ s.w.regs.bad → MayTrap s →
        ∃ t, exec i s = .next t ∧ Enters s t 0x14 (s.w.regs.spc &&& 0xFFFFFFFFFFFFFFFC) 0 0 s.w.word s.w.regs.spc) ∧
  (∀ (s : State) (d a : BitVec 8) (v : BitVec 10), v.toNat < s.w.rows → writerV s.w v.toNat = false →
      v.toNat ∉ s.w.regs.bad → Settled s.w [a.toNat] d.toNat →
      (s.w.regs.em = 0 → ScalarTo s (exec (.srfl d v) s) d.toNat 0) ∧
      (∀ k, k < 32 → s.w.regs.em.getLsbD k = true → (∀ j < k, s.w.regs.em.getLsbD j = false) →
        ScalarTo s (exec (.srfl d v) s) d.toNat (dw (getV s.w v.toNat k).toNat)) ∧
      ScalarTo s (exec (.slane d v a) s) d.toNat
        (if s.w.populated.getLsbD ((getS s.w a.toNat).toNat % 32) then
          dw (getV s.w v.toNat ((getS s.w a.toNat).toNat % 32)).toNat else 0))

/-- ADD, MUL and SAR wait, and change nothing, while an enqueued lane instruction still writes a register they read or
touches the one they write (R93).
The word of SNOP, 0x5C000003, and no other with a field not 0 beside it (R119).
LWAIT, YIELD, SNOP and KPOINT outside a prunable task (R119, R164 to R166): the next word, and no architected state;
LWAIT waits while a lane instruction is queued, its result in flight, or a push of one not served;
YIELD's window is the 64 cycles after its own.
That a cycle is a move is the model's (log 9). -/
def Obligations.WaitsAndHints : Prop :=
  (∀ (s : State) (d a b : BitVec 8),
      (writerS s.w a.toNat = true ∨ writerS s.w b.toNat = true ∨ busyS s.w d.toNat = true) →
      Waits s (exec (.add d a b) s) ∧ Waits s (exec (.mul d a b) s) ∧ Waits s (exec (.sar d a b) s)) ∧
  (∀ s : State,
      let next := { s.w.regs with spc := s.w.regs.spc + 4 }
      (s.w.lane.q = [] → s.w.lane.inflight = [] → lanePushesOut s s.w.id = false → LeavesRegs s (exec .lwait s) next) ∧
      (s.w.lane.q ≠ [] ∨ s.w.lane.inflight ≠ [] ∨ lanePushesOut s s.w.id = true → Waits s (exec .lwait s)) ∧
      (exec .yield s = .next { s with w := { s.w.run s.clock with yieldEnd := s.clock + 65, regs := next } }) ∧
      LeavesRegs s (exec .snop s) next ∧ decodeScalar 0x5C000003 = .snop ∧
      (∀ z : BitVec 24, z ≠ 0 → decodeScalar (0x17#6 ++ z ++ 3#2) = .illegalScalarWord (0x17#6 ++ z ++ 3#2)) ∧
      (killNow s = false → LeavesRegs s (exec .kpoint s) next))

/-- EXIT and a kill point that kills (R36, R161, R162, R346): with nothing outstanding and no cause pending, the wave
retires with the kind of its end; a kill counts in KILLR, and the killing instruction has no effect of its own. KPOINT is a
kill point of every bound task; where the task's record asks for it, so are a BRC and a TLOOP that are taken, and a JMPR to
its own address or below. -/
def Obligations.ExitAndKill : Prop :=
  ∀ s : State, laneIdle s.w = true → pushesOut s s.w.id = false → matrixOps s s.w.id = [] →
    s.w.sys.handler = false → s.w.pend = [] → maskdisGroups s s.w = [] →
    let gone (k : RetireKind) : Wave :=
      { s.w with
        status := .retired, ended := some k, preq := false, park := none, answered := none, ticket := none, pod := none
        lane := { s.w.lane with ticket := none, pod := none } }
    (∃ t, exec .exit s = .next t ∧ t.w = gone .exit) ∧
    (killNow s = true → s.w.ended = none →
      let kills (r : Result) : Prop :=
        ∃ t, r = .next t ∧ t.w = gone .killed ∧ (partOf t s.w.part).killr = (partOf s s.w.part).killr + 1
      kills (exec .kpoint s) ∧
      (killsBack s = true → ∀ (n : BitVec 1) (c : BitVec 3) (o : BitVec 22) (a : BitVec 8) (v : BitVec 10) (z : BitVec 16),
        (¬ (c = 7 ∧ n = 1) → getC s.w c.toNat ≠ (n == 1) → kills (exec (.brc n c o) s)) ∧
        (v.toNat < s.w.rows → busyV s.w v.toNat = false → v.toNat ∉ s.w.regs.bad →
          (∃ k, k < 32 ∧ s.w.regs.em.getLsbD k = true ∧ getV s.w v.toNat k ≠ 1) → kills (exec (.tloop v z) s)) ∧
        (Readable s.w [a.toNat] → (getS s.w a.toNat).toNat ≤ s.w.regs.spc.toNat → kills (exec (.jmpr a) s))))

/-- Spills and refills of records that lie in a vault (R155 to R157, R160, R167): a push on a full stack first writes its eight
oldest entries as the next record, oldest at the lowest address; an empty stack is first read back from its newest
record; then the instruction acts, and nothing else of the wave or of memory changes. Where the area has no room for
the record, and on an empty stack with no record spilled, STACK is raised. -/
def Obligations.StacksSpillAndRefill : Prop :=
  ∀ (s : State) (o : BitVec 22) (p a : BitVec 8),
    let g := s.w.regs
    let P := s.w.populated
    let there := dwI (g.spc.toNat + 4 * o.toInt)
    let maskAt (n : Nat) : DWord := s.w.sys.spillbase + dw (32 * n)
    let returnAt (n : Nat) : DWord := s.w.sys.spilllim - dw (64 * (n + 1))
    let lies (write : Bool) (va : DWord) (n k : Nat) : Prop := va.toNat % n = 0 ∧
      (∀ i < 8, locate s s.w.ctx s.w.part false write (va + dw (n * i)) = .ok (.vault (k + n * i))) ∧
      (write = false → ∀ b ∈ s.bad, ¬ (k ≤ b ∧ b < k + 8 * n))
    let fits (m r : Nat) : Prop := s.w.sys.spillbase.toNat < s.w.sys.spilllim.toNat ∧
      s.w.sys.spillbase.toNat + 32 * m + 64 * r ≤ s.w.sys.spilllim.toNat
    let spills (r : Result) (h : Regs) (n k : Nat) (entry : Nat → Nat) : Prop := ∃ t, r = .next t ∧ Accessed s t h ∧
      t.cores = s.cores ∧
      (∀ i < 8 * n, memByte t.mem (k + i) = storedByte s (k + i) (BitVec.ofNat 8 (entry (i / n) / 256 ^ (i % n)))) ∧
      ∀ m, (m < k ∨ k + 8 * n ≤ m) → memByte t.mem m = memByte s.mem m
    let refills (r : Result) (h : Regs) : Prop := ∃ t, r = .next t ∧ Accessed s t h ∧ t.cores = s.cores ∧ t.mem = s.mem
    let noRoom (r : Result) : Prop := ∃ t, r = .next t ∧ Enters s t 0x13 (g.spc &&& 0xFFFFFFFFFFFFFFFC) 0 0 0 g.spc
    (∀ k, g.rstack.length = 16 → fits g.msc (g.rsc + 1) → lies true (returnAt g.rsc) 8 k →
      let left (pc : DWord) : Regs := { g with rstack := (g.spc + 4) :: g.rstack.take 8, rsc := g.rsc + 1, spc := pc }
      let entry (i : Nat) : Nat := (g.rstack.getD (15 - i) 0).toNat
      spills (exec (.call o) s) (left there) 8 k entry ∧
      (Readable s.w [a.toNat] → (getS s.w a.toNat).toNat % 4 = 0 →
        spills (exec (.callr a) s) (left (getS s.w a.toNat)) 8 k entry)) ∧
    (∀ k, p.toNat < 16 → writerVp s.w p.toNat = false → g.mstack.length = 16 → fits (g.msc + 1) g.rsc →
      lies true (maskAt g.msc) 4 k →
      spills (exec (.mpush p) s)
        { g with mstack := g.em :: g.mstack.take 8, msc := g.msc + 1, em := g.em &&& getVp s.w p.toNat &&& P, spc := g.spc + 4 }
        4 k (fun i => (g.mstack.getD (15 - i) 0).toNat)) ∧
    (∀ k, g.mstack = [] → g.msc ≠ 0 → lies false (maskAt (g.msc - 1)) 4 k →
      let word (i : Nat) : Word := BitVec.ofNat 32 (memNat s.mem (k + 4 * i) 4)
      let all := (List.range 8).map (fun i => word (7 - i))
      let left (l : List Word) (em : Word) : Regs := { g with mstack := l, msc := g.msc - 1, em := em &&& P, spc := g.spc + 4 }
      refills (exec .mpop s) (left all.tail (word 7)) ∧ refills (exec .mrest s) (left all (word 7)) ∧
      refills (exec .melse s) (left all (word 7 &&& ~~~ g.em))) ∧
    (∀ k, g.rstack = [] → g.rsc ≠ 0 → (s.w.frame = none ∨ s.w.sys.handler = false) → lies false (returnAt (g.rsc - 1)) 8 k →
      let word (i : Nat) : DWord := dw (memNat s.mem (k + 8 * i) 8)
      refills (exec .ret s) { g with rstack := (List.range 7).map (fun i => word (6 - i)), rsc := g.rsc - 1, spc := word 7 }) ∧
    (MayTrap s →
      (g.rstack.length = 16 → ¬ fits g.msc (g.rsc + 1) → noRoom (exec (.call o) s) ∧
        (Readable s.w [a.toNat] → (getS s.w a.toNat).toNat % 4 = 0 → noRoom (exec (.callr a) s))) ∧
      (p.toNat < 16 → writerVp s.w p.toNat = false → g.mstack.length = 16 → ¬ fits (g.msc + 1) g.rsc →
        noRoom (exec (.mpush p) s)) ∧
      (g.mstack = [] → g.msc = 0 → noRoom (exec .mpop s) ∧ noRoom (exec .mrest s) ∧ noRoom (exec .melse s)) ∧
      (g.rstack = [] → g.rsc = 0 → (s.w.frame = none ∨ s.w.sys.handler = false) → noRoom (exec .ret s)))

/-- Barriers (R32, R171, R172): the arrival that completes the instance goes on past a BAR, one that does not waits at
it; BARA goes on; BARW returns at once where no BARA is open or its instance has completed with masks that agree, and
waits while it has not; a group that is not the wave's raises GROUPMEM. -/
def Obligations.Barriers : Prop :=
  ∀ (s : State) (g a : BitVec 8), laneIdle s.w = true → pushesOut s s.w.id = false → s.w.pend = [] →
    s.w.inBar = none → Readable s.w [a.toNat] →
    let b := barOf s s.w g.toNat
    let m : Word := BitVec.ofNat 32 (getS s.w a.toNat).toNat
    let others : List Nat :=
      (if s.w.kind = .grid then (groupOf s s.w).members g.toNat else [s.w.widx]).filter (fun k => k ≠ s.w.widx)
    let next := { s.w.regs with spc := s.w.regs.spc + 4 }
    (isMember s s.w g.toNat = true → openBara s g.toNat = none → (b.mask = none ∨ b.mask = some m) → b.mismatch = false →
      (∀ k ∈ others, k ∈ b.arrived ∨ k ∈ (groupOf s s.w).gone) →
      ∃ t, exec (.bar g a) s = .next t ∧ t.w.regs = next ∧ t.w.inBar = none ∧ t.w.status = .ready ∧
        (barOf t s.w g.toNat).inst = b.inst + 1) ∧
    (isMember s s.w g.toNat = true → openBara s g.toNat = none → s.w.status = .ready → (∃ k ∈ others, k ∉ b.arrived ∧ k ∉ (groupOf s s.w).gone) →
      ∃ t, exec (.bar g a) s = .next t ∧ t.w.regs = s.w.regs ∧ t.w.inBar = some (g, b.inst) ∧ t.w.status = .waiting ∧
        (barOf t s.w g.toNat).arrived = s.w.widx :: b.arrived) ∧
    (isMember s s.w g.toNat = true → openBara s g.toNat = none →
      ∃ t, exec (.bara g a) s = .next t ∧ t.w.regs = next ∧
        SMap.get? t.w.bara g.toNat =
          some { inst := b.inst, maskdis := ((SMap.get? s.w.bara g.toNat).map (·.maskdis)).getD false, open_ := true }) ∧
    (isMember s s.w g.toNat = true → openBara s g.toNat = none → LeavesRegs s (exec (.barw g) s) next) ∧
    (isMember s s.w g.toNat = true → openBara s g.toNat = some true → (maskdisGroups s s.w).contains g.toNat = false →
      ∃ t, exec (.barw g) s = .next t ∧ t.w.regs = next ∧ openBara t g.toNat = none) ∧
    (isMember s s.w g.toNat = true → openBara s g.toNat = some false → Waits s (exec (.barw g) s)) ∧
    (isMember s s.w g.toNat = false → openBara s g.toNat = none → MayTrap s →
      ∃ t, exec (.bar g a) s = .next t ∧
        Enters s t 0x0F (s.w.regs.spc &&& 0xFFFFFFFFFFFFFFFC) 0 0 0 s.w.regs.spc)

/-! ### Scalar memory -/

/-- Scalar loads (R223): the datum that the core sees at an aligned address, little-endian and zero-extended, in s[d]: from an
ordinary page through the L1 (R208), from a codec page as it is decoded (R257), from a vault past the L1 (R207). With
data that ECC can correct, and no race where the detector is on. A line that lacks a byte of the access is filled anew but for
its dirty bytes (R239). A load changes nothing else than the core's L1 and victim
tags, a codec line's being held, the detector's record and the wave's LLS, and what a full L1 evicts for it. -/
def Obligations.ScalarLoads : Prop :=
  ∀ (s : State) (d a : BitVec 8) (o : BitVec 10), Settled s.w [a.toNat] d.toNat →
    let core := s.w.sys.core.toNat
    ∀ n ∈ ([(8, exec (.sld d a o) s), (4, exec (.sldw d a o) s)] : List (Nat × Result)),
      let va := dwI ((getS s.w a.toNat).toNat + n.1 * o.toInt)
      ∀ l, va.toNat % n.1 = 0 → locate s s.w.ctx s.w.part false false va = .ok l → heldHere l = true →
        (s.w.sys.fpmode.getLsbD 1 = true → raceAt s (s.w.agent true) l false = none) → homeEcc s l n.1 = false →
        ∃ t, n.2 = .next t ∧
          Accessed s t { s.w.regs with s := t.w.regs.s, spc := s.w.regs.spc + 4 } ∧
          (∀ m, getS t.w m = if m = d.toNat then
            dw (natOfBytes ((List.range n.1).map (seenByte s core s.w.ctx va l n.1))) else getS s.w m) ∧
          (∀ k, l = .vault k → t.mem = s.mem ∧ t.cores = s.cores ∧ t.clines = s.clines) ∧
          ((coreOf s core).l1.length < 4096 → t.mem = s.mem ∧ (∀ c, c ≠ core → coreOf t c = coreOf s c) ∧
            ∀ c ua k,
              (lineKey c ua ≠ lineKey s.w.ctx va → coreByte t core c ua k = coreByte s core c ua k) ∧
              ((∃ i, l = .mem i ∧ k = i / 64 * 64 + ua.toNat % 64) →
                coreByte t core c ua k = coreByte s core c ua k ∨ coreByte t core c ua k = memByte s.mem k))

/-- Scalar stores (R223): the low bytes of the register, little-endian, at an aligned address: as the core sees it (ordinary page,
merged into the L1, R208) or in the vault, where the OUT bit of a queue control word keeps its value (R3); every other byte
of memory, and every other register, stays. With no race where the detector is on. -/
def Obligations.ScalarStores : Prop :=
  ∀ (s : State) (v a : BitVec 8) (o : BitVec 10), Readable s.w [v.toNat, a.toNat] →
    ∀ n ∈ ([(8, exec (.sst v a o) s), (4, exec (.sstw v a o) s)] : List (Nat × Result)),
      let va := dwI ((getS s.w a.toNat).toNat + n.1 * o.toInt)
      let core := s.w.sys.core.toNat
      let byte (i : Nat) : Byte := BitVec.ofNat 8 ((getS s.w v.toNat).toNat / 256 ^ i)
      let quiet (l : Loc) : Prop := s.w.sys.fpmode.getLsbD 1 = true → raceAt s (s.w.agent true) l true = none
      va.toNat % n.1 = 0 →
      (∀ k, locate s s.w.ctx s.w.part false true va = .ok (.mem k) → quiet (.mem k) → (coreOf s core).l1.length < 4096 →
        ∃ t, n.2 = .next t ∧ Accessed s t { s.w.regs with spc := s.w.regs.spc + 4 } ∧ t.mem = s.mem ∧
          (∀ c, c ≠ core → coreOf t c = coreOf s c) ∧
          (∀ i < n.1, coreByte t core s.w.ctx (va + dw i) (k + i) = byte i) ∧
          ∀ c ua m, (c = s.w.ctx → ∀ i < n.1, ua ≠ va + dw i) →
            coreByte t core c ua m = coreByte s core c ua m) ∧
      ∀ k, locate s s.w.ctx s.w.part false true va = .ok (.vault k) → quiet (.vault k) →
        ∃ t, n.2 = .next t ∧ Accessed s t { s.w.regs with spc := s.w.regs.spc + 4 } ∧ t.cores = s.cores ∧
          (∀ i < n.1, memByte t.mem (k + i) = storedByte s (k + i) (byte i)) ∧
          ∀ m, (m < k ∨ k + n.1 ≤ m) → memByte t.mem m = memByte s.mem m

/-- The faults of a scalar access, in their order (R219, R202, R244): ALIGN, PROT and RACE, precise, with the address in
FADDR, and nothing stored.
An access to a page that is not there parks the wave at the instruction (R34, R215): a fault record that awaits an
answer is posted under a new ID, and the instruction has no effect. -/
def Obligations.ScalarAccessFaultsAndParks : Prop :=
  (∀ (s : State) (v a : BitVec 8) (o : BitVec 10), MayTrap s →
      let va := dwI ((getS s.w a.toNat).toNat + 8 * o.toInt)
      let pc := s.w.regs.spc &&& 0xFFFFFFFFFFFFFFFC
      (va.toNat % 8 ≠ 0 →
        (∃ t, exec (.sld v a o) s = .next t ∧ Enters s t 0x05 pc 0 va 0 s.w.regs.spc) ∧
        ∃ t, exec (.sst v a o) s = .next t ∧ Enters s t 0x05 pc 0 va 0 s.w.regs.spc) ∧
      (va.toNat % 8 = 0 → locate s s.w.ctx s.w.part false true va = .trap 0x07 →
        ∃ t, exec (.sst v a o) s = .next t ∧ Enters s t 0x07 pc 0 va 0 s.w.regs.spc) ∧
      (∀ k word uid, va.toNat % 8 = 0 → locate s s.w.ctx s.w.part false true va = .ok (.mem k) →
        s.w.sys.fpmode.getLsbD 1 = true → (granOf s (k / 16)).w = some (word, uid) → uid ≠ s.w.id →
        (granOf s (k / 16)).p = none →
        ∃ t, exec (.sst v a o) s = .next t ∧ Enters s t 0x09 pc 0 va word s.w.regs.spc)) ∧
  (∀ (s : State) (d a : BitVec 8) (o : BitVec 10), Settled s.w [a.toNat] d.toNat →
      let va := dwI ((getS s.w a.toNat).toNat + 8 * o.toInt)
      va.toNat % 8 = 0 → locate s s.w.ctx s.w.part false false va = .page →
      ∃ t p, exec (.sld d a o) s = .next t ∧ t.w.status = .parked ∧ t.w.park = some p ∧ p.st = .await ∧ p.faddr = va ∧
        t.w.regs = s.w.regs ∧ p.id = (ctxOf s s.w.ctx).nextFault ∧
        (SMap.get? (ctxOf t s.w.ctx).awaits p.id) = some va)

/-- Scalar atomics (R224, Table 12-5) at a vault, ordinary or codec location, of every order, with an L1 that holds nothing and
no SC operation before them: the old value in s[d], the new one at the home, where the OUT bit of a queue control word keeps
its value (R3), every other byte as it was; SACAS writes only on a match, and one that fails is a load to the race
detector. With data that ECC can correct, and on a codec page a new value that is finite (R258). -/
def Obligations.ScalarAtomics : Prop :=
  ∀ (s : State) (d a b : BitVec 8) (o : BitVec 2) (l : Loc), Settled s.w [a.toNat, b.toNat, d.toNat] d.toNat →
    let va := getS s.w a.toNat
    let old := natOfBytes (homeRead s l 8)
    let x := (getS s.w b.toNat).toNat
    va.toNat % 8 = 0 → locate s s.w.ctx s.w.part false true va = .ok l → heldHere l = true → homeEcc s l 8 = false →
    (coreOf s s.w.sys.core.toNat).l1 = [] → (o = 3 → ScTurn s false 3) →
    let does (r : Result) (new : Nat) : Prop :=
      (∀ leaf base budget off, l = .codec leaf base budget off → f64NonFinite (new % 2 ^ 64) = false) →
      ∃ t, r = .next t ∧ (∀ m, getS t.w m = if m = d.toNat then dw old else getS s.w m) ∧
        t.w.regs = { s.w.regs with s := t.w.regs.s, spc := s.w.regs.spc + 4 } ∧
        (∀ i < 8, homeByte t l i = leftByte s l i (BitVec.ofNat 8 (new / 256 ^ i))) ∧
        (∀ k, l = .vault k ∨ l = .mem k → ∀ m, (m < k ∨ k + 8 ≤ m) → memByte t.mem m = memByte s.mem m) ∧
        ∀ leaf base budget off, l = .codec leaf base budget off →
          t.mem = s.mem ∧ ∀ m, m ≠ clineKey leaf (off / 64) → SMap.get? t.clines m = SMap.get? s.clines m
    does (exec (.saadd d a b o) s) ((old + x) % 2 ^ 64) ∧ does (exec (.saswp d a b o) s) x ∧
    does (exec (.samaxu d a b o) s) (if old ≤ x then x else old) ∧
    ((s.w.sys.fpmode.getLsbD 1 = true → o = 0 → old ≠ (getS s.w d.toNat).toNat →
        raceAt s (s.w.agent true) l false = none) →
      does (exec (.sacas d a b o) s) (if old = (getS s.w d.toNat).toNat then x else old))

/-- FENCE (R241, R208, R240, R242): of every scope and order. It goes on when, for a release, the accesses of the classes in A
are performed and, for an acquire, the reads before it, and, for SC, its turn has come. A release takes a publication
number, once, and at core scope or above leaves no dirty byte in the core's L1; an acquire raises Acq to what it takes
up, and at core scope or above leaves only read-only lines. Of the wave nothing else changes but what it knows of its own
releases. Until then it waits, an SC
one with its ticket, or having asked the anchor die. Fields outside their range are ILLEGAL.
That an acquire waits for the reads before it is the model's (log 49), and so is what the wave knows of its own releases
(log 103). -/
def Obligations.FenceOrders : Prop :=
  ∀ (s : State) (sc : BitVec 3) (o : BitVec 2) (a b : BitVec 6),
    let core := s.w.sys.core.toNat
    let p := partOf s s.w.part
    let ready : Prop := (o ≠ 1 → fenceDone s a = true) ∧ (o ≠ 2 → fenceReads s.w a = true)
    let publishes : Prop := o ≠ 1 ∧ s.w.ticket = none ∧ s.w.pod = none
    let pubs (t : State) : Prop := (publishes → (partOf t s.w.part).pubs = p.pubs + 1) ∧
      (¬ publishes → (partOf t s.w.part).pubs = p.pubs)
    (sc.toNat ≤ 4 → o ≠ 0 → a ≠ 0 → b ≠ 0 →
      (ready → (o = 3 → ScTurn s false sc.toNat) → SMap.wf (coreOf s core).l1 = true →
        ∃ t, exec (.fence sc o a b) s = .next t ∧ pubs t ∧
          t.w = { s.w.run s.clock with
            regs := { s.w.regs with spc := s.w.regs.spc + 4 }
            acq := if o = 2 then s.w.acq else Nat.max s.w.acq (fenceSeen s.w sc.toNat a)
            ticket := t.w.ticket, pod := t.w.pod, rel := t.w.rel } ∧
          (publishes → 1 ≤ sc.toNat → ∀ k l, SMap.get? (coreOf t core).l1 k = some l → l.dirty = 0) ∧
          (o ≠ 2 → 1 ≤ sc.toNat → ∀ kl ∈ (coreOf t core).l1, kl.2.ro.isSome = true)) ∧
      (ready → o = 3 → ¬ ScTurn s false sc.toNat →
        ∃ t, exec (.fence sc o a b) s = .next t ∧ pubs t ∧ t.w.regs = s.w.regs ∧ t.w.acq = s.w.acq ∧
          (s.w.status = .ready → t.w.status = .waiting) ∧
          (scHere s sc.toNat = true → t.w.ticket = some (s.w.ticket.getD (p.tickets + 1))) ∧
          (scHere s sc.toNat = false → t.w.pod = some false)) ∧
      (¬ ready → Waits s (exec (.fence sc o a b) s))) ∧
    (MayTrap s → (4 < sc.toNat ∨ o = 0 ∨ a = 0 ∨ b = 0) →
      ∃ t, exec (.fence sc o a b) s = .next t ∧
        Enters s t 1 (s.w.regs.spc &&& 0xFFFFFFFFFFFFFFFC) 0 0 0 s.w.regs.spc)

/-! ### Records, tasks, incumbents -/

/-- Operand records (R181 to R183), the releases that may take effect being made (R182). ORESA and ORESB of a size from 1 byte to
1 MiB take a record that is Free, in their role, for the wave, while granules are left, and answer 1; else they
answer 0 and change nothing; a size out of range, or a record that the wave holds with no release pending, raises ORES.
OREL frees a held record that no unfinished matrix instruction enqueued before it names, and else leaves its release
pending; of a record that the wave does not hold, or whose release is pending, it raises ORES.
OREC reads the record's fields of Table 10-3. -/
def Obligations.OperandRecords : Prop :=
  ∀ (s : State) (d a : BitVec 8) (n : BitVec 4),
    let u := settleRecords s s.w.engine
    let en := engineOf u s.w.engine
    let size := (getS s.w a.toNat).toNat
    let gran := (size + 4095) / 4096
    let held (r : Rec) : Prop := r.heldBy u s.w = true
    let ores (r : Result) : Prop := ∃ t, r = .next t ∧ Enters u t 0x10 (s.w.regs.spc &&& 0xFFFFFFFFFFFFFFFC) 0 0 0 s.w.regs.spc
    let others (t : State) : Prop := t = { u with w := t.w, engines := t.engines } ∧ ∀ m, m ≠ n.toNat → recordOf t m = recordOf u m
    (Settled s.w [a.toNat] d.toNat → ∀ rb ∈ [(false, exec (.oresa d a n) s), (true, exec (.oresb d a n) s)],
      (0 < size → size ≤ 0x100000 → recordOf u n.toNat = none → gran ≤ en.freeGran →
        ∃ t, rb.2 = .next t ∧ others t ∧ (∀ m, getS t.w m = if m = d.toNat then 1 else getS s.w m) ∧
          t.w = { s.w.run s.clock with regs := { s.w.regs with s := t.w.regs.s, spc := s.w.regs.spc + 4 } } ∧
          recordOf t n.toNat =
            some { holder := some s.w.id, task := none, roleB := rb.1, gran := gran, bytes := [], relp := none }) ∧
      (0 < size → size ≤ 0x100000 → (∀ r, recordOf u n.toNat = some r → held r → r.relp ≠ none) →
        (recordOf u n.toNat ≠ none ∨ en.freeGran < gran) → ScalarTo u rb.2 d.toNat 0) ∧
      (MayTrap s → (size = 0 ∨ 0x100000 < size ∨ ∃ r, recordOf u n.toNat = some r ∧ held r ∧ r.relp = none) → ores rb.2)) ∧
    (∀ r, recordOf u n.toNat = some r → held r → r.relp = none → SMap.wf en.recs = true →
      let mark := s.w.lane.seq + s.w.lane.q.length
      let named : Prop :=
        (∃ e ∈ s.w.lane.issue :: s.w.lane.q, s.w.lane.seq ≤ e.num ∧ e.num < mark ∧ n.toNat ∈ recordsOf e.i) ∨
        ∃ x ∈ en.ops, x.wave = s.w.id ∧ x.num < mark ∧ n.toNat ∈ x.records
      ∃ t, exec (.orel n) s = .next t ∧ others t ∧
        t.w = { s.w.run s.clock with regs := { s.w.regs with spc := s.w.regs.spc + 4 } } ∧
        (¬ named → recordOf t n.toNat = none) ∧
        (named → recordOf t n.toNat = some { r with relp := some mark, holder := some s.w.id, task := none })) ∧
    (MayTrap s → (∀ r, recordOf u n.toNat = some r → held r → r.relp ≠ none) → ores (exec (.orel n) s)) ∧
    (Settled s.w [] d.toNat → ∃ x, ScalarTo u (exec (.orec d n) s) d.toNat x ∧
      x.getLsbD 3 = copyInto u s.w.engine n.toNat ∧
      (recordOf u n.toNat = none → x &&& 0xFFFFFFFFFFFFFFF7 = 0) ∧
      ∀ r, recordOf u n.toNat = some r → r.gran < 2 ^ 16 → bits x 23 8 = r.gran ∧
        x.getLsbD 0 = r.heldBy u s.w ∧ x.getLsbD 1 = (r.holder.isSome && !r.heldBy u s.w) ∧ x.getLsbD 2 = r.roleB ∧
        x.getLsbD 4 = r.relp.isSome ∧
        bits x 31 24 = Nat.min (en.ops.countP (fun y => decide (y.wave = s.w.id ∧ n.toNat ∈ y.records))) 255)

/-- TSUBMIT (R304 to R306) of a record in a vault, outside a kill: it publishes; a valid record goes into the lowest Free entry, in
state Admitting, with DEPS as its count and its interval, and the entry's number is the result; with no Free entry the
result is all ones; an invalid record raises PROT and a misaligned address ALIGN, with the address in FADDR; until the
accesses before it are performed it waits.
TSIGNAL (R307): it lowers the count of an entry that is not running and readies a waiting one at 0, and else is discarded.
TCANCEL (R309): an entry that does not run becomes Free, or Cancelling while jobs of it are in flight; another is left alone.
That ALIGN comes before the release, so that nothing is then written through, is the model's (log 50).
RTAKE (R308): the wave of a range task takes up to s[a][31:0] of what is left: the start and the number taken in
s[d], and CUR moves past them; any other wave's RTAKE is ILLEGAL. -/
def Obligations.TaskInstructions : Prop :=
  (∀ (s : State) (d a : BitVec 8), Settled s.w [a.toNat] d.toNat →
      let va := getS s.w a.toNat
      let p := partOf s s.w.part
      let tasks (t : State) : SMap Task := (partOf t s.w.part).tasks
      let pc := s.w.regs.spc
      let answers (t : State) (x : DWord) : Prop := (∀ m, getS t.w m = if m = d.toNat then x else getS s.w m) ∧
        t.w.regs = { s.w.regs with s := t.w.regs.s, spc := pc + 4 } ∧ t.mem = s.mem ∧
        (partOf t s.w.part).pubs = p.pubs + 1
      (killNow s = true → exec (.tsubmit d a) s = exec .kpoint s) ∧
      (killNow s = false → va.toNat % 64 ≠ 0 → MayTrap s →
        ∃ t, exec (.tsubmit d a) s = .next t ∧ Enters s t 0x05 (pc &&& 0xFFFFFFFFFFFFFFFC) 0 va 0 pc) ∧
      (killNow s = false → va.toNat % 64 = 0 → fenceDone s 0x3F = false → Waits s (exec (.tsubmit d a) s)) ∧
      (∀ k r, killNow s = false → va.toNat % 64 = 0 → fenceDone s 0x3F = true → CleanL1 s s.w.sys.core.toNat →
        (∀ j < 8, locate s s.w.ctx s.w.part false false (va + dw (8 * j)) = .ok (.vault (k + 8 * j))) →
        (∀ b ∈ s.bad, ¬ (k ≤ b ∧ b < k + 64)) → r = (List.range 8).map (fun j => dw (memNat s.mem (k + 8 * j) 8)) →
        (∀ i, TaskRec.invalid r = false → freeEntry p = some i →
          ∃ t x, exec (.tsubmit d a) s = .next t ∧ answers t (dw i) ∧ SMap.get? (tasks t) i = some x ∧
            x.st = .admitting ∧ x.r = r ∧ x.ctx = s.w.ctx ∧ x.count = TaskRec.deps r ∧ x.cur = TaskRec.lo r ∧
            x.hi = TaskRec.hi r ∧ x.acq = p.pubs + 1 ∧ ∀ j, j ≠ i → SMap.get? (tasks t) j = SMap.get? p.tasks j) ∧
        (TaskRec.invalid r = false → freeEntry p = none →
          ∃ t, exec (.tsubmit d a) s = .next t ∧ answers t 0xFFFFFFFFFFFFFFFF ∧ tasks t = p.tasks) ∧
        (TaskRec.invalid r = true → MayTrap s → ∃ u t, exec (.tsubmit d a) s = .next t ∧
          u = { s with w := { s.w with seen := u.w.seen, rel := u.w.rel }, parts := u.parts, grans := u.grans } ∧
          tasks u = p.tasks ∧ tasks t = p.tasks ∧ Enters u t 0x07 (pc &&& 0xFFFFFFFFFFFFFFFC) 0 va 0 pc))) ∧
  (∀ (s : State) (a : BitVec 8), Readable s.w [a.toNat] →
      let p := partOf s s.w.part
      let e := (getS s.w a.toNat).toNat % 2 ^ 16
      let pc := s.w.regs.spc + 4
      let gives (r : Result) (x : Option Task) : Prop := ∃ t, r = .next t ∧ t.w.regs = { s.w.regs with spc := pc } ∧
        SMap.get? (partOf t s.w.part).tasks e = x ∧
        ∀ j, j ≠ e → SMap.get? (partOf t s.w.part).tasks j = SMap.get? p.tasks j
      (fenceDone s 0x3F = false → Waits s (exec (.tsignal a) s)) ∧
      (fenceDone s 0x3F = true →
        (SMap.get? p.tasks e = none → gives (exec (.tsignal a) s) none) ∧
        ∀ x, SMap.get? p.tasks e = some x →
          (x.st = .running ∨ x.st = .cancelling ∨ x.count = 0 → gives (exec (.tsignal a) s) (some x)) ∧
          (x.st ≠ .running → x.st ≠ .cancelling → x.count ≠ 0 →
            let y : Task := { x with count := x.count - 1, acq := Nat.max x.acq (p.pubs + 1) }
            gives (exec (.tsignal a) s)
              (some (if x.count = 1 ∧ x.st = .waiting then { y with st := .ready, seq := p.seq } else y)))) ∧
      (SMap.get? p.tasks e = none → LeavesRegs s (exec (.tcancel a) s) { s.w.regs with spc := pc }) ∧
      ∀ x, SMap.get? p.tasks e = some x →
        (x.st = .running ∨ x.st = .cancelling → LeavesRegs s (exec (.tcancel a) s) { s.w.regs with spc := pc }) ∧
        (x.st ≠ .running → x.st ≠ .cancelling →
          (x.jobs = 0 → gives (exec (.tcancel a) s) none) ∧
          (x.jobs ≠ 0 → gives (exec (.tcancel a) s) (some { x with st := .cancelling, core := none })))) ∧
  (∀ (s : State) (d a : BitVec 8),
      (∀ e x, s.w.task = some e → SMap.get? (partOf s s.w.part).tasks e = some x → TaskRec.kind x.r = 1 →
        Settled s.w [a.toNat] d.toNat → x.cur ≤ x.hi → x.hi < 2 ^ 32 →
        let n := Nat.min ((getS s.w a.toNat).toNat % 2 ^ 32) (x.hi - x.cur)
        ∃ t, exec (.rtake d a) s = .next t ∧ t = { s with w := t.w, parts := t.parts } ∧
          t.w = { s.w.run s.clock with regs := { s.w.regs with s := t.w.regs.s, spc := s.w.regs.spc + 4 } } ∧
          (∀ m, getS t.w m = if m = d.toNat then dw (x.cur + n * 2 ^ 32) else getS s.w m) ∧
          SMap.get? (partOf t s.w.part).tasks e = some { x with cur := x.cur + n } ∧
          ∀ j, j ≠ e → SMap.get? (partOf t s.w.part).tasks j = SMap.get? (partOf s s.w.part).tasks j) ∧
      ((∀ e x, s.w.task = some e → SMap.get? (partOf s s.w.part).tasks e = some x → TaskRec.kind x.r ≠ 1) → MayTrap s →
        ∃ t, exec (.rtake d a) s = .next t ∧ Enters s t 1 (s.w.regs.spc &&& 0xFFFFFFFFFFFFFFFC) 0 0 0 s.w.regs.spc))

/-- INCUP (R340, R342, R348): when the loads and stores and pushes before it are done and its SC turn has come, it takes a Better
value with its tag, counts in INCUPS and sets the core's own copy, and answers 1; of any other it answers 0 and leaves the
incumbent; it publishes in either case.
INCRD (R348): at its SC turn, tag and value; it acquires, so that the L1 keeps only read-only lines.
BNDCHK (R341, R348): whether the value is Prunable against the core's copy.
INCRST (R348): at its SC turn, the incumbent and every copy of it, the Orrery's and each core's, hold the reset value.
An SC instruction whose turn has not come waits with its ticket (R240). -/
def Obligations.Incumbents : Prop :=
  ∀ (s : State) (d a b : BitVec 8),
    let p := partOf s s.w.part
    let core := s.w.sys.core.toNat
    let v : Word := BitVec.ofNat 32 (getS s.w a.toNat).toNat
    let i := (getS s.w d.toNat).toNat % 8
    let j := (getS s.w a.toNat).toNat % 8
    let pc := s.w.regs.spc + 4
    let gives (t : State) (x : DWord) : Prop := (∀ m, getS t.w m = if m = d.toNat then x else getS s.w m) ∧
      t.w.regs = { s.w.regs with s := t.w.regs.s, spc := pc }
    let holds (r : Result) : Prop := ∃ t, r = .next t ∧ t.w.regs = s.w.regs ∧ (s.w.status = .ready → t.w.status = .waiting) ∧
      t.w.ticket = some (s.w.ticket.getD (p.tickets + 1)) ∧ (partOf t s.w.part).inc = p.inc
    (Settled s.w [d.toNat, a.toNat, b.toNat] d.toNat →
      (fenceDone s 0x11 = false → Waits s (exec (.incup d a b) s)) ∧
      (fenceDone s 0x11 = true → ¬ ScTurn s false 3 → holds (exec (.incup d a b) s)) ∧
      (fenceDone s 0x11 = true → ScTurn s false 3 →
        let x := incOf p i
        let up := incBetter x.ty v x.value
        let y : Inc := if up then { x with value := v, tag := BitVec.ofNat 32 (getS s.w b.toNat).toNat } else x
        ∃ t, exec (.incup d a b) s = .next t ∧ gives t (if up then 1 else 0) ∧
          incOf (partOf t s.w.part) i = y ∧ (∀ n, n < 8 → n ≠ i → incOf (partOf t s.w.part) n = incOf p n) ∧
          (partOf t s.w.part).incups = p.incups + (if up then 1 else 0) ∧
          (partOf t s.w.part).pubs = p.pubs + 1 ∧
          (up = true → incCoreOf (partOf t s.w.part) core i = y) ∧
          (up = false → (partOf t s.w.part).incCore = p.incCore))) ∧
    (Settled s.w [a.toNat] d.toNat →
      (¬ ScTurn s false 3 → holds (exec (.incrd d a) s)) ∧
      (ScTurn s false 3 → ∃ t, exec (.incrd d a) s = .next t ∧ gives t ((incOf p j).tag ++ (incOf p j).value) ∧
        (partOf t s.w.part).inc = p.inc ∧ t.w.acq = Nat.max s.w.acq (SMap.getD p.incPub j 0) ∧
        ∀ kl ∈ (coreOf t core).l1, kl.2.ro.isSome = true)) ∧
    (Settled s.w [a.toNat, b.toNat] d.toNat →
      ScalarTo s (exec (.bndchk d a b) s) d.toNat
        (let x := incCoreOf p core ((getS s.w b.toNat).toNat % 8)
         if incOrd x.ty x.value < incOrd x.ty v ∨ ((getS s.w b.toNat).getLsbD 3 = false ∧ incOrd x.ty x.value = incOrd x.ty v)
         then 1 else 0)) ∧
    (Readable s.w [a.toNat] →
      (¬ ScTurn s false 3 → holds (exec (.incrst a) s)) ∧
      (ScTurn s false 3 → ∃ t, exec (.incrst a) s = .next t ∧ t.w.regs = { s.w.regs with spc := pc } ∧
        let x : Inc := { ty := (getS s.w a.toNat).getLsbD 3, tag := 0, value := 0x7FFFFFFF }
        incOf (partOf t s.w.part) j = x ∧ incOrreryOf (partOf t s.w.part) j = x ∧
        (∀ c, c ∈ coresOf p → incCoreOf (partOf t s.w.part) c j = x) ∧
        ∀ n, n < 8 → n ≠ j → incOf (partOf t s.w.part) n = incOf p n ∧ incOrreryOf (partOf t s.w.part) n = incOrreryOf p n ∧
          ∀ c, incCoreOf (partOf t s.w.part) c n = incCoreOf p c n))

/-! ### Queues and streams -/

/-- QBIND (R269, R274): 0 unbinds the handle; an aligned control word in an allocation of the wave's partition that passes the
checks is bound with what it holds; a misaligned one raises ALIGN, and PROT one in no allocation, one that fails the
checks, an address outside the vault window, and a die that has no route. QCNT reads the elements in the ring, of a
queue without an overflow area. An unbound handle raises PROT, and so does a pop through one that only pushes.
Queues are first in, first out (R268, R271, R274): a local push of QPUSHS puts one element, padded with zeros, behind
those in the ring, and QPOPS takes the oldest, zero-extended; nothing but TAIL or HEAD and the slot changes in memory; a
full ring makes the push wait, an empty one the pop; with another generation than the handle's nothing is moved and
QGEN becomes pending. A remote push takes an entry of the core's buffer (R270), and waits where none is free. -/
def Obligations.TaskQueues : Prop :=
  (∀ (s : State) (r : BitVec 8) (q : BitVec 5), Readable s.w [r.toNat] →
      let va := getS s.w r.toNat
      let next := { s.w.regs with spc := s.w.regs.spc + 4 }
      let traps (u : State) (code : DWord) : Prop := ∃ t, exec (.qbind r q) s = .next t ∧
        Enters u t code (s.w.regs.spc &&& 0xFFFFFFFFFFFFFFFC) 0 va 0 s.w.regs.spc
      (va = 0 → ∃ t, exec (.qbind r q) s = .next t ∧ t.w.regs = next ∧ t.mem = s.mem ∧
        ∀ n, handleOf t.w n = if n = q.toNat then none else handleOf s.w n) ∧
      (MayTrap s → va ≠ 0 →
        (va.toNat % 32 ≠ 0 → traps s 0x05) ∧
        (va.toNat % 32 = 0 → (vaSpace va ≠ 0xE ∨ (dieOf s va ≠ s.dieid.toNat ∧ SMap.get? s.routes (vaDie va) = none) ∨
          (dieOf s va = s.dieid.toNat ∧ inAlloc s s.w.part va 32 = false)) → traps s 0x07)) ∧
      ∀ k l, va ≠ 0 → va.toNat % 32 = 0 → vaSpace va = 0xE → dieOf s va = s.dieid.toNat → inAlloc s s.w.part va 32 = true →
        (∀ b ∈ s.bad, ¬ (k ≤ b ∧ b < k + 32)) →
        (∀ j < 4, locate s s.w.ctx s.w.part false false (va + dw (8 * j)) = .ok (.vault (k + 8 * j)) ∧
          (s.w.sys.fpmode.getLsbD 1 = true → raceAt s (s.w.agent true) (.vault (k + 8 * j)) false = none)) →
        l = (List.range 4).map (fun j => dw (memNat s.mem (k + 8 * j) 8)) →
        (qcwOk s s.w.part va l = true →
          ∃ t h, exec (.qbind r q) s = .next t ∧ t.w.regs = next ∧ SameMemory s t ∧
            (∀ n, handleOf t.w n = if n = q.toNat then some h else handleOf s.w n) ∧
            h.qcw = va ∧ h.gen = (Qcw.ofQuads l).gen ∧ h.esize = (Qcw.ofQuads l).esize ∧ h.ldepth = (Qcw.ofQuads l).ldepth ∧
            h.home = (Qcw.ofQuads l).home ∧ h.pushOnly = false) ∧
        (qcwOk s s.w.part va l = false → MayTrap s →
          ∃ u, u = { s with w := { s.w with seen := u.w.seen }, grans := u.grans } ∧ traps u 0x07)) ∧
  (∀ (s : State) (r : BitVec 8) (q : BitVec 5), Settled s.w [r.toNat] r.toNat →
      let prot (i : Result) : Prop := ∃ t, i = .next t ∧
        Enters s t 0x07 (s.w.regs.spc &&& 0xFFFFFFFFFFFFFFFC) 0 0 0 s.w.regs.spc
      (MayTrap s → handleOf s.w q.toNat = none →
        prot (exec (.qcnt r q) s) ∧ prot (exec (.qpushs r q) s) ∧ prot (exec (.qpops r q) s)) ∧
      ∀ h, handleOf s.w q.toNat = some h →
        let c := qcwOf s h.owner s.w.part h.qcw
        (MayTrap s → h.pushOnly = true → prot (exec (.qpops r q) s)) ∧
        (c.ovdepth = 0 → slotAt s h.owner s.w.part true h.qcw 32 = .ok →
          ScalarTo s (exec (.qcnt r q) s) r.toNat (dw ((c.tail + 2 ^ 32 - c.head) % 2 ^ 32))) ∧
        (h.near s s.w.sys.core.toNat = false →
          let core := coreOf s s.w.sys.core.toNat
          (64 ≤ core.pushes.length → Waits s (exec (.qpushs r q) s)) ∧
          (core.pushes.length < 64 → ∃ t x, exec (.qpushs r q) s = .next t ∧
            t.w.regs = { s.w.regs with spc := s.w.regs.spc + 4 } ∧
            (coreOf t s.w.sys.core.toNat).pushes = core.pushes ++ [x] ∧ x.qcw = h.qcw ∧ x.gen = h.gen ∧ x.wave = s.w.id ∧
            x.home = h.home ∧ x.data = padTo (elemBytes h.esize) (bytesOf 8 (getS s.w r.toNat).toNat)))) ∧
  (∀ (s : State) (r : BitVec 8) (q : BitVec 5) (h : Handle), Settled s.w [r.toNat] r.toNat →
      handleOf s.w q.toNat = some h → h.esize = (qcwOf s h.owner s.w.part h.qcw).esize →
      QueueLaid s h.owner s.w.part h.qcw → CleanL1 s s.w.sys.core.toNat →
      let c := qcwOf s h.owner s.w.part h.qcw
      let n := elemBytes c.esize
      let k := vaultRaw s h.owner s.w.part h.qcw
      let elems (t : State) : List (List Byte) := queueElems t h.owner s.w.part h.qcw
      let next := { s.w.regs with spc := s.w.regs.spc + 4 }
      let only (t : State) (at_ e : Nat) : Prop := ∀ m, (m < at_ ∨ at_ + 4 ≤ m) → (m < e ∨ e + n ≤ m) →
        memByte t.mem m = memByte s.mem m
      let answers (t : State) (x : DWord) : Prop := (∀ m, getS t.w m = if m = r.toNat then x else getS s.w m) ∧
        t.w.regs = { s.w.regs with s := t.w.regs.s, spc := s.w.regs.spc + 4 }
      let stale (t : State) : Prop := elems t = elems s ∧ (SMap.get? s.w.pend 0x0C = none →
        ∃ x, SMap.get? t.w.pend 0x0C = some x ∧ x.faddr = h.qcw)
      (h.near s s.w.sys.core.toNat = true →
        (h.gen = c.gen → c.count < c.depth →
          ∃ t, exec (.qpushs r q) s = .next t ∧ t.w.regs = next ∧
            elems t = elems s ++ [padTo n (bytesOf 8 (getS s.w r.toNat).toNat)] ∧
            only t (k + 12) (vaultRaw s h.owner s.w.part (c.slot c.tail))) ∧
        (h.gen = c.gen → c.depth ≤ c.count → Waits s (exec (.qpushs r q) s)) ∧
        (h.gen ≠ c.gen → ∃ t, exec (.qpushs r q) s = .next t ∧ t.w.regs = next ∧ stale t)) ∧
      (h.pushOnly = false →
        (∀ e l, h.gen = c.gen → elems s = e :: l →
          ∃ t, exec (.qpops r q) s = .next t ∧ answers t (dw (natOfBytes (e.take 8))) ∧ elems t = l ∧
            ∀ m, (m < k + 8 ∨ k + 12 ≤ m) → memByte t.mem m = memByte s.mem m) ∧
        (h.gen = c.gen → elems s = [] → Waits s (exec (.qpops r q) s)) ∧
        (h.gen ≠ c.gen → ∃ t, exec (.qpops r q) s = .next t ∧ answers t 0 ∧ stale t)))

/-- The stream instructions (R277). GCFG of a valid descriptor in a vault stops the register and configures it anew, with COUNT to
go; a misaligned address raises ALIGN and a bad descriptor PROT, and then nothing is stopped. GSTART starts a register
that neither runs nor is done, and else does nothing; GSTOP stops it and publishes what it wrote; GSTAT reads it. While a
firing is under way GCFG of a valid descriptor and GSTOP wait, and no further firing begins. An unconfigured register raises PROT.
That a GCFG that traps stops nothing is the model's (log 100), and so are that a GSTART after FLT runs on with FLT kept
(log 51) and that it begins with the wave's own releases (log 103). -/
def Obligations.StreamInstructions : Prop :=
  ∀ (s : State) (r : BitVec 8) (g : BitVec 3),
    let va := getS s.w r.toNat
    let old := SMap.get? s.w.streams g.toNat
    let next := { s.w.regs with spc := s.w.regs.spc + 4 }
    let busy : Prop := ∃ x, old = some x ∧ x.midway ≠ none
    let traps (u : State) (i : Result) (code fa : DWord) : Prop := ∃ t, i = .next t ∧
      Enters u t code (s.w.regs.spc &&& 0xFFFFFFFFFFFFFFFC) 0 fa 0 s.w.regs.spc
    let leaves (i : Result) (x : Stream) : Prop := ∃ t, i = .next t ∧ t.w.regs = next ∧ SameMemory s t ∧
      ∀ n, SMap.get? t.w.streams n = if n = g.toNat then some x else SMap.get? s.w.streams n
    let halts (i : Result) (x : Stream) : Prop := ∃ t, i = .next t ∧ t.w.regs = s.w.regs ∧ SameMemory s t ∧
      (s.w.status = .ready → t.w.status = .waiting) ∧
      ∀ n, SMap.get? t.w.streams n = if n = g.toNat then some { x with run := false } else SMap.get? s.w.streams n
    (Readable s.w [r.toNat] →
      (va.toNat % 8 ≠ 0 → MayTrap s → traps s (exec (.gcfg r g) s) 0x05 va) ∧
      ∀ k l, va.toNat % 8 = 0 → (∀ b ∈ s.bad, ¬ (k ≤ b ∧ b < k + 32)) →
        (∀ j < 4, locate s s.w.ctx s.w.part false false (va + dw (8 * j)) = .ok (.vault (k + 8 * j)) ∧
          (s.w.sys.fpmode.getLsbD 1 = true → raceAt s (s.w.agent true) (.vault (k + 8 * j)) false = none)) →
        l = (List.range 4).map (fun j => dw (memNat s.mem (k + 8 * j) 8)) →
        (∀ x y, streamOf s.w s.nextWave l = some x → old = some y → y.midway ≠ none → halts (exec (.gcfg r g) s) y) ∧
        (∀ x, streamOf s.w s.nextWave l = some x → ¬ busy → leaves (exec (.gcfg r g) s) x ∧
          x.remaining = (l.getD 2 0).toNat % 2 ^ 32 ∧ x.run = false ∧ x.done = false ∧ x.flt = false ∧
          x.d0 = l.getD 0 0 ∧ x.d1 = l.getD 1 0 ∧ x.d2 = l.getD 2 0 ∧ x.d3 = l.getD 3 0) ∧
        (streamOf s.w s.nextWave l = none → MayTrap s →
          ∃ u, u = { s with w := { s.w with seen := u.w.seen }, grans := u.grans } ∧ traps u (exec (.gcfg r g) s) 0x07 va)) ∧
    (∀ x, old = some x →
      (x.run = false → x.done = false →
        leaves (exec (.gstart g) s) { x with run := true, acq := Nat.max s.w.acq s.w.rel, race := s.w.sys.fpmode.getLsbD 1 }) ∧
      (x.run = true ∨ x.done = true → LeavesRegs s (exec (.gstart g) s) next) ∧
      (x.midway = none → leaves (exec (.gstop g) s) { x with run := false } ∧
        ∀ t, exec (.gstop g) s = .next t → (partOf t s.w.part).pubs = (partOf s s.w.part).pubs + 1) ∧
      (x.midway ≠ none → halts (exec (.gstop g) s) x) ∧
      (Settled s.w [] r.toNat → x.remaining < 2 ^ 32 → ∃ v, ScalarTo s (exec (.gstat r g) s) r.toNat v ∧
        v.toNat % 2 ^ 32 = x.remaining ∧ v.getLsbD 32 = x.run ∧ v.getLsbD 33 = x.done ∧ v.getLsbD 34 = x.flt ∧
        v.toNat < 2 ^ 35)) ∧
    (old = none → MayTrap s → traps s (exec (.gstart g) s) 0x07 0 ∧ traps s (exec (.gstop g) s) 0x07 0 ∧
      (Settled s.w [] r.toNat → traps s (exec (.gstat r g) s) 0x07 0))

/-! ### Lane arithmetic -/

/-- Integer lane arithmetic (R130 to R132): every active lane's elements hold the exact result, wrapped or clamped, in the
destination; inactive lanes, other registers and all of memory stay; the result lands with the instruction's latency. -/
def Obligations.LaneExactArithmetic : Prop :=
  ∀ op ∈ exactOps, ∀ (s : State) (x : LArith), LaneYields s (op.1 x) x (fun s' p f =>
    ∀ k e, k < 32 → e < x.ty.elems →
      HoldsExact x (op.2.2 x.ty (elemVal x ((elemsA s'.w x k).getD e 0))
        (if op.2.1 then (wordB s'.w x p k : Int) else elemVal x ((elemsB s'.w x p k).getD e 0))
        (elemVal x ((elemsC s'.w x p k).getD e 0))) (elemAt x.ty.width e (f k)))

/-- Bit counts, mirrors and fields (R131, R133, R137) on the 32-bit word of each lane.
Moves, selection and comparison (R134 to R136): VMOV's source is a, or b where b is no vector register; VSEL takes a where
the selecting predicate is 1 and b elsewhere; VCMP writes the relation of its code into the predicate's active lanes. -/
def Obligations.LaneBitsMovesCompares : Prop :=
  (∀ (s : State) (x : LArith), x.ty.elems = 1 → x.ty.width = 32 → x.ty.wide = false → x.m.sat = false →
      let a (w : Wave) (k : Nat) : Nat := (elemsA w x k).getD 0 0 % 2 ^ 32
      let b (w : Wave) (p : Pops) (k : Nat) : Nat := (elemsB w x p k).getD 0 0 % 2 ^ 32
      LaneYields s (.vpopc x) x (fun s' _ f => ∀ k < 32, f k = (List.range 32).countP (fun i => (a s'.w k).testBit i)) ∧
      LaneYields s (.vclz x) x (fun s' _ f => ∀ k < 32, f k ≤ 32 ∧ (∀ i < f k, (a s'.w k).testBit (31 - i) = false) ∧
        (f k < 32 → (a s'.w k).testBit (31 - f k) = true)) ∧
      LaneYields s (.vbrev x) x (fun s' _ f => ∀ k < 32, ∀ i < 32, (f k).testBit i = (a s'.w k).testBit (31 - i)) ∧
      LaneYields s (.vbfe x) x (fun s' p f => ∀ k < 32,
        let off := b s'.w p k % 32
        let n := min (b s'.w p k / 256 % 64) (32 - off)
        ∀ i < 32, (f k).testBit i = if i < n then (a s'.w k).testBit (off + i)
          else x.ty.isSigned && decide (0 < n) && (a s'.w k).testBit (off + n - 1)) ∧
      LaneYields s (.vbfi x) x (fun s' p f => ∀ k < 32,
        let off := b s'.w p k % 32
        let n := min (b s'.w p k / 256 % 64) (32 - off)
        ∀ i < 32, (f k).testBit i = if off ≤ i ∧ i < off + n then (a s'.w k).testBit (i - off)
          else ((elemsC s'.w x p k).getD 0 0).testBit i) ∧
      LaneYields s (.vmix x) x (fun s' p f => ∀ k < 32,
        let h0 := a s'.w k ^^^ b s'.w p k
        let h1 := (h0 ^^^ h0 / 2 ^ 16) * 0x2C1B3C6D % 2 ^ 32
        let h2 := (h1 ^^^ h1 / 2 ^ 12) * 0x297A2D39 % 2 ^ 32
        f k = h2 ^^^ h2 / 2 ^ 15) ∧
      LaneYields s (.vlaneid x) x (fun _ _ f => ∀ k < 32, f k = k)) ∧
  (∀ (s : State) (x : LArith),
      LaneYields s (.vmov x) x (fun s' p f => ∀ k < 32,
        f k = (match x.b with | .vec _ => fetchA s'.w x k | _ => fetchB s'.w x false p k)) ∧
      LaneYields s (.vsel x) x (fun s' p f => ∀ k < 32,
        ∀ r, x.c = .vec r → f k = if (getVp s'.w (r.toNat % 16)).getLsbD k then fetchA s'.w x k else fetchB s'.w x false p k) ∧
      (LaneReady s (.vcmp x) → ∀ s' p, Popped s x (active s.w (.vcmp x)) s' p →
        ∀ c, comparisons[x.m.aux4.toNat]? = some c → x.ty = .b64 →
        ∃ t, exec (.vcmp x) s = .next t ∧ Issued s' (.vcmp x) t ∧
          LandsVp s' t (x.vd.toNat % 16) (active s.w (.vcmp x))
            (fun k => c (dw ((elemsA s'.w x k).headD 0)) (dw ((elemsB s'.w x p k).headD 0)))) ∧
      (LaneReady s (.vcmp x) → ∀ s' p, Popped s x (active s.w (.vcmp x)) s' p →
        ∀ c, narrowComparisons[x.m.aux4.toNat]? = some c → x.ty = .b32 →
        ∃ t, exec (.vcmp x) s = .next t ∧ Issued s' (.vcmp x) t ∧
          LandsVp s' t (x.vd.toNat % 16) (active s.w (.vcmp x))
            (fun k => c (BitVec.ofNat 32 ((elemsA s'.w x k).headD 0)) (BitVec.ofNat 32 ((elemsB s'.w x p k).headD 0)))))

/-- Rounded lane arithmetic (R139, R145, R85, R86): each element of an active lane is the operation's rounded result on
the decoded operands, clamped to [0, 1] with `.sat`; FPSTAT takes up just the flags the instruction may raise, and its counts
stay (R140). -/
def Obligations.LaneRoundedArithmetic : Prop :=
  ∀ op ∈ roundedOps, ∀ (s : State) (x : LArith), LaneReady s (op.1 x) →
    ∀ s' p, Popped s x (active s.w (op.1 x)) s' p →
    let fmt := ltyFmt x.ty
    let res (k e : Nat) : FRes := op.2.2 fmt x.m.rnd (fmt.dec ((elemsA s'.w x k).getD e 0))
      (fmt.dec ((elemsB s'.w x p k).getD e 0)) (fmt.dec ((elemsC s'.w x p k).getD e 0))
    ∃ t f g, exec (op.1 x) s = .next t ∧ Issued s' (op.1 x) t ∧
      LandsV s' t (typedAt (active s.w (op.1 x)) x.ty.wide x.vd.toNat f) ∧ LandsFlags s' t (active s.w (op.1 x)) g ∧
      LandsCounts s' t 0 0 0 ∧
      (∀ k e, k < 32 → e < x.ty.elems → elemAt x.ty.width e (f k) =
        (if x.m.sat then clamp01 fmt (res k e).code else (res k e).code) % 2 ^ x.ty.width) ∧
      ∀ k i, k < 32 → i < 5 → (g k).flagBits.getLsbD i =
        (op.2.1.getLsbD i && (List.range x.ty.elems).any (fun e => (res k e).ev.flagBits.getLsbD i))

/-- Minimum, maximum, rounding to an integral value, classification, scaling, dot products (R141, R143, R144) and the
floating-point comparison (R142). -/
def Obligations.LaneFloatFunctions : Prop :=
  ∀ (s : State) (x : LArith),
    let fmt := ltyFmt x.ty
    LaneYields s (.vfmin x) x (fun s' p f => ∀ k e, k < 32 → e < x.ty.elems → elemAt x.ty.width e (f k) =
      fpMinMax fmt false ((elemsA s'.w x k).getD e 0) ((elemsB s'.w x p k).getD e 0) % 2 ^ x.ty.width) ∧
    LaneYields s (.vfmax x) x (fun s' p f => ∀ k e, k < 32 → e < x.ty.elems → elemAt x.ty.width e (f k) =
      fpMinMax fmt true ((elemsA s'.w x k).getD e 0) ((elemsB s'.w x p k).getD e 0) % 2 ^ x.ty.width) ∧
    LaneYields s (.vfrnd x) x (fun s' _ f => ∀ k e, k < 32 → e < x.ty.elems → elemAt x.ty.width e (f k) =
      fpRound fmt x.m.rnd ((elemsA s'.w x k).getD e 0) % 2 ^ x.ty.width) ∧
    (LaneReady s (.vfclass x) → ∀ s' p, Popped s x (active s.w (.vfclass x)) s' p →
      ∃ t, exec (.vfclass x) s = .next t ∧ Issued s' (.vfclass x) t ∧
        LandsV s' t (typedAt (active s.w (.vfclass x)) false x.vd.toNat (fun k => fpClass fmt ((elemsA s'.w x k).headD 0)))) ∧
    LaneYields s (.vfldexp x) x (fun s' p f => ∀ k < 32,
      f k = (fpLdexp fmt x.m.rnd (fmt.dec ((elemsA s'.w x k).headD 0)) (BitVec.ofNat 32 (wordB s'.w x p k)).toInt).code) ∧
    (∀ i ∈ [Instr.vfdot2 x, Instr.vfdot4 x], LaneYields s i x (fun s' p f => ∀ k < 32,
      let r := fpDot .f32 x.m.rnd (((elemsA s'.w x k).zip (elemsB s'.w x p k)).map (fun q => (fmt.dec q.1, fmt.dec q.2)))
        (FFmt.f32.dec (signElem true 32 false x.m.negc (fetchC s'.w x true p k)))
      f k = if x.m.sat then clamp01 .f32 r.code else r.code)) ∧
    (LaneReady s (.vfcmp x) → ∀ s' p, Popped s x (active s.w (.vfcmp x)) s' p →
      ∃ t, exec (.vfcmp x) s = .next t ∧ Issued s' (.vfcmp x) t ∧
        LandsVp s' t (x.vd.toNat % 16) (active s.w (.vfcmp x)) (fun k =>
          let a := fmt.dec ((elemsA s'.w x k).headD 0)
          let b := fmt.dec ((elemsB s'.w x p k).headD 0)
          let un := a.isNan || b.isNan
          match x.m.aux4.toNat with
          | 0 => !un && decide (a.cmp b = 0)
          | 1 => un || decide (a.cmp b ≠ 0)
          | 2 => !un && decide (a.cmp b < 0)
          | 3 => !un && decide (a.cmp b ≤ 0)
          | 4 => !un && decide (0 < a.cmp b)
          | 5 => !un && decide (0 ≤ a.cmp b)
          | 6 => un
          | _ => !un))

/-- Conversions (R146 to R148): each element of the source converted to the destination type, in the destination's
registers; VCVTPK's two elements with what c keeps above them. FPSTAT takes up the flags of the conversions, and CSAT,
CFLUSH and CNAN each grow by the number of active lanes in which an element has the event (R86). -/
def Obligations.LaneConversions : Prop :=
  ∀ (s : State) (x : LArith) (dst : LTy), LTy.ofCode x.m.aux4.toNat = some dst →
    let draw (w : Wave) (p : Pops) (k e : Nat) : Option Nat :=
      if x.m.aux10 = 0 then none
      else some (drawOf (BitVec.ofNat 32 (fetchC w x true p k)) x.ty.elems e)
    let counts (i : Instr) (s' t : State) (ev : Nat → List FpEv) : Prop :=
      let lanes (f : FpEv → Bool) : Nat := (lanesOf (active s.w i)).countP (fun k => (ev k).any f)
      LandsCounts s' t (lanes (·.sat)) (lanes (·.flush)) (lanes (·.nan)) ∧
      ∃ g, LandsFlags s' t (active s.w i) g ∧
        ∀ k i, k < 32 → i < 5 → (g k).flagBits.getLsbD i = (ev k).any (fun e => e.flagBits.getLsbD i)
    (LaneReady s (.vcvt x) → ∀ s' p, Popped s x (active s.w (.vcvt x)) s' p →
      ∃ t, exec (.vcvt x) s = .next t ∧ Issued s' (.vcvt x) t ∧
        counts (.vcvt x) s' t (fun k => (List.range x.ty.elems).map (fun e =>
          (cvtElem x dst (draw s'.w p k e) ((elemsA s'.w x k).getD e 0)).2)) ∧
        (x.ty.elems = 1 ∨ dst.elems ≠ 1 → ∃ f, LandsV s' t (typedAt (active s.w (.vcvt x)) dst.wide x.vd.toNat f) ∧
          ∀ k e, k < 32 → e < x.ty.elems → e < dst.elems → elemAt dst.width e (f k) =
            (cvtElem x dst (draw s'.w p k e) ((elemsA s'.w x k).getD e 0)).1 % 2 ^ dst.width) ∧
        (x.ty.elems ≠ 1 → dst.elems = 1 → ∀ r k, k < 32 → (getV (landAll t).w r k).toNat =
          if (active s.w (.vcvt x)).getLsbD k ∧ x.vd.toNat ≤ r ∧ r < x.vd.toNat + x.ty.elems then
            (cvtElem x dst (draw s'.w p k (r - x.vd.toNat)) ((elemsA s'.w x k).getD (r - x.vd.toNat) 0)).1 % 2 ^ 32
          else (getV s'.w r k).toNat)) ∧
    (x.ty = .f32 → LaneReady s (.vcvtpk x) → ∀ s' p, Popped s x (active s.w (.vcvtpk x)) s' p →
      ∃ t f, exec (.vcvtpk x) s = .next t ∧ Issued s' (.vcvtpk x) t ∧
        LandsV s' t (typedAt (active s.w (.vcvtpk x)) false x.vd.toNat f) ∧
        counts (.vcvtpk x) s' t (fun k => [(cvtElem x dst none ((elemsA s'.w x k).headD 0)).2,
          (cvtElem x dst none ((elemsB s'.w x p k).headD 0)).2]) ∧
        ∀ k, k < 32 → (dst.elems = 2 ∨ dst.elems = 4) →
          elemAt dst.width 0 (f k) = (cvtElem x dst none ((elemsA s'.w x k).headD 0)).1 % 2 ^ dst.width ∧
          elemAt dst.width 1 (f k) = (cvtElem x dst none ((elemsB s'.w x p k).headD 0)).1 % 2 ^ dst.width ∧
          (dst.elems = 4 → f k / 2 ^ 16 = fetchC s'.w x true p k % 2 ^ 16))

/-- FP4 blocks (R149, R150): VQBLK gives, in the lowest lane of each group of eight whose lowest lane is active, the eight codes
and the scale of the group's block; CSAT and CNAN grow by the number of those groups whose scale saturates, or that hold a NaN,
and CFLUSH by the number of their elements that are flushed (R86, R89). VDQBLK gives each active lane its element of the group's block, in FP32. -/
def Obligations.LaneBlocks : Prop :=
  ∀ (s : State) (x : LArith), x.ty = .f32 →
    (LaneReady s (.vqblk x) → ∀ s' p, Popped s x (active s.w (.vqblk x)) s' p →
      let act := active s.w (.vqblk x)
      let block (j : Nat) := quantBlock ((List.range 8).map (fun k =>
        if act.getLsbD (8 * j + k) then FFmt.f32.dec (getV s'.w x.va.toNat (8 * j + k)).toNat else .fin false 0 0))
      let sum (f : Nat → Nat) : Nat := (((List.range 4).filter (fun j => act.getLsbD (8 * j))).map f).sum
      ∃ t, exec (.vqblk x) s = .next t ∧ Issued s' (.vqblk x) t ∧
        LandsCounts s' t (sum (fun j => (block j).2.2.1)) (sum (fun j => (block j).2.2.2.1)) (sum (fun j => (block j).2.2.2.2)) ∧
        ∀ r k, k < 32 → (getV (landAll t).w r k).toNat =
          if k % 8 = 0 ∧ act.getLsbD k = true ∧ r = x.vd.toNat then
            natOfBytes ((packBlock (block (k / 8)).1 (block (k / 8)).2.1).take 4)
          else if k % 8 = 0 ∧ act.getLsbD k = true ∧ r = x.vd.toNat + 1 then (block (k / 8)).2.1 % 2 ^ 32
          else (getV s'.w r k).toNat) ∧
    LaneYields s (.vdqblk x) x (fun s' p f => ∀ k < 32,
      let g := k / 8 * 8
      let scale := match x.b with
        | .vec r => (getV s'.w r.toNat g).toNat
        | _ => wordB s'.w x p k
      f k = (roundVal .f32 .rne (blockElem (bytesOf 4 (getV s'.w x.va.toNat g).toNat ++ [BitVec.ofNat 8 scale]) (k - g))).code)

/-- Cross-lane instructions (R151, R152, Table 08-3): the lane VSHFL names; the j-th selected lane for the j-th active one;
the lanes that hold the same value; how many selected lanes lie below.
Scans and reductions (R152, Table 08-3) over the active lanes: for integers, the sum modulo 2 to the width of those up to the
lane, or of all, and the least or greatest value; of floating-point types, VSCAN adds in ascending order and VRADD in the
fixed tree, each sum rounded in the mode, and VRMIN and VRMAX apply R141's minimum or maximum in ascending order. -/
def Obligations.CrossLane : Prop :=
  (∀ (s : State) (x : LArith),
      let act (i : Instr) : List Nat := lanesOf (active s.w i)
      LaneYields s (.vshfl x) x (fun s' p f => ∀ k < 32,
        f k = if s'.w.populated.getLsbD (wordB s'.w x p k % 32) then regVal s'.w x.ty x.va.toNat (wordB s'.w x p k % 32) else 0) ∧
      LaneYields s (.vcompact x) x (fun s' _ f => ∀ j k : Nat, (act (.vcompact x))[j]? = some k →
        f k = match ((act (.vcompact x)).filter (selC s'.w x))[j]? with
          | some m => regVal s'.w x.ty x.va.toNat m
          | none => 0) ∧
      LaneYields s (.vprank x) x (fun s' _ f => ∀ k < 32,
        f k = (act (.vprank x)).countP (fun j => decide (j < k) && selC s'.w x j)) ∧
      (LaneReady s (.vmatch x) → ∀ s' p, Popped s x (active s.w (.vmatch x)) s' p →
        ∃ t f, exec (.vmatch x) s = .next t ∧ Issued s' (.vmatch x) t ∧
          LandsV s' t (typedAt (active s.w (.vmatch x)) false x.vd.toNat f) ∧
          ∀ k j, k < 32 → j < 32 → (f k).testBit j =
            ((active s.w (.vmatch x)).getLsbD j && decide (regVal s'.w x.ty x.va.toNat j = regVal s'.w x.ty x.va.toNat k)))) ∧
  (∀ (s : State) (x : LArith),
      let act (i : Instr) : List Nat := lanesOf (active s.w i)
      let int := x.ty.isFloat = false ∧ x.ty.elems = 1
      let flt := x.ty.isFloat = true ∧ x.ty.elems = 1
      let fmt := ltyFmt x.ty
      let plus (a b : Nat) : Nat := (fpAdd fmt x.m.rnd (fmt.dec a) (fmt.dec b)).code
      let best (big : Bool) (l : List Nat) : Nat :=
        l.tail.foldl (fpMinMax fmt big) (if (fmt.dec (l.headD 0)).isNan then fmt.qnan else l.headD 0)
      LaneYields s (.vscan x) x (fun s' _ f =>
        let v (k : Nat) : Nat := crossVal s'.w x k
        (int → ∀ k ∈ act (.vscan x), f k =
          (((act (.vscan x)).filter (fun j => decide (j ≤ k))).map v).sum % 2 ^ x.ty.width) ∧
        (flt → (∀ k l, act (.vscan x) = k :: l → f k = v k) ∧
          ∀ n j k, (act (.vscan x))[n]? = some j → (act (.vscan x))[n + 1]? = some k → f k = plus (f j) (v k))) ∧
      LaneYields s (.vradd x) x (fun s' _ f =>
        (int → ∀ k ∈ act (.vradd x), f k = ((act (.vradd x)).map (crossVal s'.w x)).sum % 2 ^ x.ty.width) ∧
        (flt → ∃ tree : Nat → Nat → Option Nat,
          (∀ k < 32, tree 0 k = if k ∈ act (.vradd x) then some (crossVal s'.w x k) else none) ∧
          (∀ n < 5, ∀ k, k < 2 ^ (4 - n) → tree (n + 1) k = (match tree n (2 * k), tree n (2 * k + 1) with
            | some a, some b => some (plus a b)
            | some a, none => some a
            | none, b => b)) ∧
          ∀ k ∈ act (.vradd x), tree 5 0 = some (f k))) ∧
      LaneYields s (.vrmin x) x (fun s' _ f =>
        (int → ∀ k ∈ act (.vrmin x), f k ∈ (act (.vrmin x)).map (crossVal s'.w x) ∧
          ∀ j ∈ act (.vrmin x), elemVal x (f k) ≤ elemVal x (crossVal s'.w x j)) ∧
        (flt → ∀ k ∈ act (.vrmin x), f k = best false ((act (.vrmin x)).map (crossVal s'.w x)))) ∧
      LaneYields s (.vrmax x) x (fun s' _ f =>
        (int → ∀ k ∈ act (.vrmax x), f k ∈ (act (.vrmax x)).map (crossVal s'.w x) ∧
          ∀ j ∈ act (.vrmax x), elemVal x (crossVal s'.w x j) ≤ elemVal x (f k)) ∧
        (flt → ∀ k ∈ act (.vrmax x), f k = best true ((act (.vrmax x)).map (crossVal s'.w x)))))

/-- VNOP and VTRAPIF (R173, R174, R24): VNOP only stalls; VTRAPIF does nothing when no active lane has a AND b nonzero, and
otherwise raises VTRAP at the lane instruction: the lane instructions enqueued after it are discarded, and the wave
resumes where the control thread stands; while a push of an earlier one is on its way the trap is owed. Of a wave that is
not in its handler and has one. -/
def Obligations.LaneControl : Prop :=
  ∀ (s : State) (st : BitVec 4) (x : LArith),
    (LaneReady s (.vnop st) → ∃ t, exec (.vnop st) s = .next t ∧ Issued s (.vnop st) t ∧ t.w.lane.inflight = []) ∧
    (LaneReady s (.vtrapif x) → ∀ s' p, Popped s x (active s.w (.vtrapif x)) s' p →
      let hit := (lanesOf (active s.w (.vtrapif x))).any (fun k =>
        (BitVec.ofNat 32 (fetchA s'.w x k) &&& BitVec.ofNat 32 (wordB s'.w x p k)) != 0)
      let l := s'.w.lane
      let ended : LaneStream := { l with q := [], batch := 0, writers := [], seq := l.seq + 1 + l.q.length }
      (hit = false → ∃ t, exec (.vtrapif x) s = .next t ∧ Issued s' (.vtrapif x) t ∧ t.w.lane.inflight = []) ∧
      (hit = true → lanePushesOut s' s'.w.id = false → s'.w.sys.handler = false → (ctxOf s' s'.w.ctx).handler ≠ 0 →
        ∃ t, exec (.vtrapif x) s = .next t ∧
          Enters { s' with w := { s'.w with owed := none, lane := ended } } t (4 + 2 ^ 9) (l.issue.epc &&& 0xFFFFFFFFFFFFFFFC)
            (dw (l.issue.elpc.toNat % 2 ^ 20)) 0 0 s'.w.regs.spc) ∧
      (hit = true → lanePushesOut s' s'.w.id = true →
        ∃ t c, exec (.vtrapif x) s = .next t ∧ t = { s' with w := t.w } ∧
          t.w = { s'.w with owed := some c, park := none, answered := none, lane := ended, status := t.w.status } ∧ c.code = 4 ∧
          c.epc = l.issue.epc ∧ c.elpc = l.issue.elpc ∧ c.resume = s'.w.regs.spc))

/-- The landing steps (R71), of a vector register's result that is alone in flight: one past its landing cycle is written to its
lanes and is in flight no longer, a variable one may land in any cycle, and data of a load likewise; nothing else changes,
but that a row that is written may be correct again (R15). -/
def Obligations.ResultsLand : Prop :=
  ∀ (s : State) (p : PendWrite) (r : Nat), s.target = { n := s.w.id, k := 0, m := 0 } → s.w.lane.inflight = [p] →
    p.dest = .v r → (∀ kv ∈ p.data, kv.1 < 32) → SMap.wf p.data = true →
    let lands (res : Result) : Prop := ∃ t, res = .next t ∧
      t = { s with w := { s.w with
        regs := { s.w.regs with v := t.w.regs.v, bad := s.w.regs.bad.erase r }, lane := { s.w.lane with inflight := [] } } } ∧
      (∀ k, k < 32 → getV t.w r k = ((SMap.get? p.data k).map (fun v => BitVec.ofNat 32 v.toNat)).getD (getV s.w r k)) ∧
      ∀ m k, m ≠ r → k < 32 → getV t.w m k = getV s.w m k
    (p.fixed = true → p.due < s.clock → lands (exec .laneResultLand s)) ∧
    (p.fixed = false → p.load = false → lands (exec .variableWriteLand s)) ∧
    (p.fixed = false → p.load = true → lands (exec .loadDataReturn s))

/-! ### Lane memory, queues and rays -/

/-- Lane loads (R218, R225 to R228) of vault, ordinary and codec locations, of every order: each active lane's datum, as the core
sees it, through the L1 (R208), or by the read-only path as the home has it (R209), extended to whole registers, lands
in its lane of the destination registers, at the address its base, offset and (VLDC) its number among the lanes active at
first issue give; no byte of memory changes, and with relaxed loads of vaults no cache. With data that ECC can correct, no
race where the detector is on, for an ordered load an L1 without dirty bytes and, for SC, its turn, and outside vaults
lines in the L1 that are whole and room for more. -/
def Obligations.LaneLoads : Prop :=
  ∀ (s : State) (x : LMem) (va : Nat → DWord) (loc : Nat → Loc), ∀ i ∈ [Instr.vld x, Instr.vldc x, Instr.vldro x], LaneReady s i →
    let act := active s.w i
    let n := x.size.bytes
    let core := s.w.sys.core.toNat
    let race := s.w.lane.issue.fpmode.getLsbD 1
    let ro := decide (i = .vldro x)
    let on (k : Nat) : Prop := k < 32 ∧ act.getLsbD k = true
    let vaults : Prop := ∀ k, on k → ∃ j, loc k = .vault j
    (x.order = .sc → ScTurn s true x.scope.code.toNat) → (x.order ≠ .rlx → CleanL1 s core) →
    LanesLie s x (i = .vldc x) act false va loc →
    (∀ k, on k → heldHere (loc k) = true ∧ homeEcc s (loc k) n = false ∧
      (race = true → raceAt s (s.w.agent true) (loc k) false = none) ∧
      ((∃ j, loc k = .vault j) ∨ LineWhole s core s.w.ctx ro (decide (x.order ≠ .rlx)) (va k))) →
    (¬ vaults → (coreOf s core).l1.length + 32 ≤ 4096) →
    ∃ t, exec i s = .next t ∧ t.mem = s.mem ∧
      (vaults → t.clines = s.clines ∧ t.w.sys = s.w.sys ∧ (x.order = .rlx → t.cores = s.cores)) ∧
      t.w = { s.w.runLane s.clock with
        lane := t.w.lane, seen := t.w.seen, acq := t.w.acq, rel := t.w.rel, sys := { s.w.sys with lls := t.w.sys.lls } } ∧
      t.w.lane.q = s.w.lane.q ∧ t.w.lane.nextIssue = s.clock + stallOf i + 1 ∧
      LandsV s t (fun r k =>
        if act.getLsbD k ∧ x.vd.toNat ≤ r ∧ r < x.vd.toNat + x.size.regs then
          some (extendDatum x.size (natOfBytes ((List.range n).map (fun j =>
            if ro then homeByte s (loc k) j else seenByte s core s.w.ctx (va k) (loc k) n j))) /
              2 ^ (32 * (r - x.vd.toNat)) % 2 ^ 32)
        else none)

/-- Lane stores (R218, R226, R227) to locations that do not overlap, of every order. In vaults and codec pages each active lane's
datum is at the home, where the OUT bit of a queue control word keeps its value (R3), and every other byte of memory
stays; in ordinary pages a relaxed store is merged into the L1, where the core sees it (R208), and a releasing one at core
scope or above, or an SC one, is at the home. No register changes. With no race where the detector is on, for an ordered
store an L1 without dirty bytes and, for SC, its turn; on a codec page 8 bytes that are a finite value (R258). -/
def Obligations.LaneStores : Prop :=
  ∀ (s : State) (x : LMem) (va : Nat → DWord) (loc : Nat → Loc), ∀ i ∈ [Instr.vst x, Instr.vstc x], LaneReady s i →
    let act := active s.w i
    let n := x.size.bytes
    let core := s.w.sys.core.toNat
    let race := s.w.lane.issue.fpmode.getLsbD 1
    let on (k : Nat) : Prop := k < 32 ∧ act.getLsbD k = true
    let byte (k j : Nat) : Byte := BitVec.ofNat 8 (laneDatum s.w x.size x.va.toNat k / 256 ^ j)
    let stores (t : State) : Prop := exec i s = .next t ∧
      t.w = { s.w.runLane s.clock with
        lane := t.w.lane, seen := t.w.seen, acq := t.w.acq, rel := t.w.rel, sys := { s.w.sys with lls := t.w.sys.lls } } ∧
      t.w.lane.q = s.w.lane.q ∧ t.w.lane.inflight = [] ∧ t.w.lane.nextIssue = s.clock + stallOf i + 1
    (x.order = .sc → ScTurn s true x.scope.code.toNat) → (x.order ≠ .rlx → CleanL1 s core) →
    LanesLie s x (i = .vstc x) act true va loc →
    (∀ k, on k → race = true → raceAt s (s.w.agent true) (loc k) true = none) →
    (∀ k j, on k → on j → k ≠ j → LocsApart n (loc k) (loc j)) →
    ((∀ k, on k → (∃ j, loc k = .vault j) ∨ (CleanL1 s core ∧ n = 8 ∧ (∃ a b c d, loc k = .codec a b c d) ∧
        homeEcc s (loc k) 8 = false ∧ f64NonFinite (laneDatum s.w x.size x.va.toNat k) = false)) →
      ∃ t, stores t ∧ t.w.sys = s.w.sys ∧ ((∀ k, on k → ∃ j, loc k = .vault j) → x.order = .rlx → t.cores = s.cores) ∧
        (∀ k j, on k → j < n → homeByte t (loc k) j = leftByte s (loc k) j (byte k j)) ∧
        ∀ m, (∀ k key, on k → loc k = .vault key → m < key ∨ key + n ≤ m) → memByte t.mem m = memByte s.mem m) ∧
    ∀ key : Nat → Nat, (∀ k, on k → loc k = .mem (key k)) → (∀ k j, on k → on j → k ≠ j → Apart (va k).toNat n (va j).toNat n) →
      (coreOf s core).l1.length + 32 ≤ 4096 →
      (x.order = .rlx → ∃ t, stores t ∧ t.mem = s.mem ∧ (∀ c, c ≠ core → coreOf t c = coreOf s c) ∧
        (∀ k j, on k → j < n → coreByte t core s.w.ctx (va k + dw j) (key k + j) = byte k j) ∧
        ∀ c ua m, (c = s.w.ctx → ∀ k j, on k → j < n → ua ≠ va k + dw j) → coreByte t core c ua m = coreByte s core c ua m) ∧
      (x.order = .sc ∨ (x.order = .rel ∧ 1 ≤ x.scope.code.toNat) → s.w.ctx < 2 ^ 16 →
        ∃ t, stores t ∧ (∀ k j, on k → j < n → memByte t.mem (key k + j) = byte k j) ∧
          ∀ m, (∀ k, on k → m < key k ∨ key k + n ≤ m) → memByte t.mem m = memByte s.mem m)

/-- Lane atomics (R229, R230, Table 12-5) at vault, ordinary and codec locations that do not overlap, of every operation and order:
the old value, extended, lands in each active lane; the operation's value is at the home, where the OUT bit of a queue control
word keeps its value (R3); VCAS writes only where the old value is its comparand, and a lane that fails is a load to the race
detector. Every other byte of memory stays. With data that ECC can correct, outside vaults and for an ordered one an
L1 without dirty bytes and, for SC, its turn; on a codec page 8 bytes whose new value is finite (R258). -/
def Obligations.LaneAtomics : Prop :=
  ∀ (s : State) (x : LMem) (va : Nat → DWord) (loc : Nat → Loc), ∀ i ∈ [Instr.vatom x, Instr.vcas x], LaneReady s i →
    let act := active s.w i
    let n := x.size.bytes
    let core := s.w.sys.core.toNat
    let race := s.w.lane.issue.fpmode.getLsbD 1
    let on (k : Nat) : Prop := k < 32 ∧ act.getLsbD k = true
    (x.order = .sc → ScTurn s true x.scope.code.toNat) → (x.order ≠ .rlx → CleanL1 s core) →
    LanesLie s x False act true va loc →
    let old (k : Nat) : Nat := natOfBytes (homeRead s (loc k) n)
    let v (k : Nat) : Nat := laneDatum s.w x.size x.va.toNat k
    let c (k : Nat) : Nat := laneDatum s.w x.size x.vc.toNat k
    let new (k : Nat) : Nat := if i = .vatom x then atomicValue x.aop.toNat n (old k) (v k) else if old k = c k then v k else old k
    (∀ k, on k → heldHere (loc k) = true ∧ homeEcc s (loc k) n = false ∧ ((∃ j, loc k = .vault j) ∨ CleanL1 s core) ∧
      (∀ a b c d, loc k = .codec a b c d → n = 8 ∧ f64NonFinite (new k % 2 ^ 64) = false) ∧
      (i = .vcas x → x.order = .rlx → race = true → old k ≠ c k → raceAt s (s.w.agent true) (loc k) false = none)) →
    (∀ k j, on k → on j → k ≠ j → LocsApart n (loc k) (loc j)) →
    ∃ t, exec i s = .next t ∧
      t.w = { s.w.runLane s.clock with
        lane := t.w.lane, seen := t.w.seen, acq := t.w.acq, rel := t.w.rel } ∧
      t.w.lane.q = s.w.lane.q ∧ t.w.lane.nextIssue = s.clock + stallOf i + 1 ∧
      (∀ k j, on k → j < n → homeByte t (loc k) j = leftByte s (loc k) j (BitVec.ofNat 8 (new k / 256 ^ j))) ∧
      (∀ m, (∀ k key, on k → loc k = .vault key ∨ loc k = .mem key → m < key ∨ key + n ≤ m) → memByte t.mem m = memByte s.mem m) ∧
      (∀ m, (∀ k a b c d, on k → loc k = .codec a b c d → m ≠ clineKey a (d / 64)) → SMap.get? t.clines m = SMap.get? s.clines m) ∧
      LandsV s t (fun r k =>
        if act.getLsbD k ∧ x.vd.toNat ≤ r ∧ r < x.vd.toNat + x.size.regs then
          some (extendDatum x.size (old k) / 2 ^ (32 * (r - x.vd.toNat)) % 2 ^ 32)
        else none)

/-- VPREF (R231) changes no register, no byte of memory (with room in the L1 for its lines) and raises nothing, wherever its
addresses lie, whatever STALLCHK is and however its rows stand; with no active lane a lane memory instruction does nothing at all (R158). -/
def Obligations.PrefetchAndIdleLanes : Prop :=
  ∀ (s : State) (x : LMem),
    (LaneReady s (.vpref x) → (coreOf s s.w.sys.core.toNat).l1.length + 32 ≤ 4096 →
      ∃ t, exec (.vpref x) s = .next t ∧
        t = { s with w := t.w, cores := t.cores, clines := t.clines, free := t.free } ∧
        t.w = { s.w.runLane s.clock with
          lane := { s.w.lane with seq := s.w.lane.seq + 1, nextIssue := s.clock + x.stall.toNat + 1 }
          sys := { s.w.sys with lls := t.w.sys.lls } }) ∧
    ∀ i ∈ [Instr.vld x, Instr.vst x, Instr.vldc x, Instr.vstc x, Instr.vldro x, Instr.vatom x, Instr.vcas x],
      LaneReady s i → active s.w i = 0 → ∃ t, exec i s = .next t ∧ Issued s i t ∧ t.w.lane.inflight = []

/-- Lane queue instructions (R270, R275, R280) of a queue without an overflow area. A local VQPUSH puts the active lanes' elements
behind those in the ring, lane by lane, when the ring has room for all, and waits until then; a remote one takes an entry of
the core's buffer for each lane while one is free. VQPOP gives the oldest elements to the active lanes in order, and waits
until there is one for each. WEMIT takes an entry of the buffer for each active lane, with the lane's record for its node's
queue, and waits while none is free. That the lanes of a local push or of a pop are served in one step is the model's
(log 44). -/
def Obligations.LaneQueues : Prop :=
  ∀ (s : State) (x : LArith) (h : Handle),
    let core := s.w.sys.core.toNat
    let c := qcwOf s h.owner s.w.part h.qcw
    let elems (t : State) : List (List Byte) := queueElems t h.owner s.w.part h.qcw
    let pushes (t : State) : List RPush := (coreOf t core).pushes
    let issued (t : State) (i : Instr) : Prop := t.w.regs = s.w.regs ∧ t.w.lane.q = s.w.lane.q ∧ t.w.lane.inflight = [] ∧
      t.w.lane.nextIssue = s.clock + stallOf i + 1
    (LaneReady s (.vqpush x) → handleOf s.w (x.vd.toNat % 32) = some h →
      let i : Instr := .vqpush x
      let act := lanesOf (active s.w i)
      let el (k : Nat) : List Byte := padTo (elemBytes h.esize) (laneWordBytes s.w x.va.toNat (countOf i) k)
      (h.near s core = true → h.gen = c.gen → h.esize = c.esize → QueueLaid s h.owner s.w.part h.qcw → CleanL1 s core →
        (c.count + act.length ≤ c.depth →
          ∃ t, exec i s = .next t ∧ issued t i ∧ elems t = elems s ++ act.map el) ∧
        (c.depth < c.count + act.length → LaneWaits s i)) ∧
      (h.near s core = false →
        ((pushes s).length + act.length ≤ 64 → ∃ (t : State) (ps : List RPush), exec i s = .next t ∧ issued t i ∧
          pushes t = pushes s ++ ps ∧ ps.length = act.length ∧
          ∀ n k : Nat, act[n]? = some k → ∃ p : RPush, ps[n]? = some p ∧ p.qcw = h.qcw ∧ p.gen = h.gen ∧ p.wave = s.w.id ∧
            p.data = el k) ∧
        (act ≠ [] → 64 ≤ (pushes s).length → LaneWaits s i))) ∧
    (∀ q, x.b = .queue q → LaneReady s (.vqpop x) → handleOf s.w q.toNat = some h → h.pushOnly = false →
      h.gen = c.gen → h.esize = c.esize → QueueLaid s h.owner s.w.part h.qcw → CleanL1 s core →
      let i : Instr := .vqpop x
      let act := lanesOf (active s.w i)
      (act.length ≤ (elems s).length →
        ∃ t, exec i s = .next t ∧ t.w.lane.q = s.w.lane.q ∧ elems t = (elems s).drop act.length ∧
          LandsV s t (fun r k =>
            if (active s.w i).getLsbD k ∧ x.vd.toNat ≤ r ∧ r < x.vd.toNat + countOf i then
              some (natOfBytes ((((elems s).getD (act.countP (fun j => decide (j < k))) []).drop (4 * (r - x.vd.toNat))).take 4))
            else none)) ∧
      ((elems s).length < act.length → LaneWaits s i)) ∧
    (LaneReady s (.wemit x) →
      let i : Instr := .wemit x
      let act := lanesOf (active s.w i)
      (∀ k ∈ act, wordB s.w x Pops.none k < (waveNodes s).length) →
      ((pushes s).length + act.length ≤ 64 → ∃ (t : State) (ps : List RPush), exec i s = .next t ∧ issued t i ∧
        pushes t = pushes s ++ ps ∧ ps.length = act.length ∧
        ∀ (n k : Nat) (nd : Node), act[n]? = some k → (waveNodes s)[wordB s.w x Pops.none k]? = some nd →
          ∃ p : RPush, ps[n]? = some p ∧ p.qcw = nd.qcw ∧ p.wave = s.w.id ∧
            p.data = padTo nd.rsize (laneWordBytes s.w x.va.toNat (countOf i) k)) ∧
      (act ≠ [] → 64 ≤ (pushes s).length → LaneWaits s i))

/-- RSPAWN of one active lane (R331 to R333): with a slot that is reserved for the lane, or free, it puts the record of the lane's
registers there, in the lane's frame, counts it in the frame and answers 1; at DEPTH 255, and where P is 0, it counts the
ray in DCAP or in DROP and answers 0; a lane of a wave that is no episode needs an open frame, or PROT is raised.
RCONT (R334), of every active lane whose ray is its own: the ray is written over and the lane marked to go on.
RACC of one active lane (R335): it adds the lane's colour and count to its pixel, in an ordinary page, and changes no other byte. -/
def Obligations.RayInstructions : Prop :=
  ∀ (s : State) (x : LArith) (i : Nat), i < 32 →
    let p := partOf s s.w.part
    let core := s.w.sys.core.toNat
    let e := SMap.get? s.w.ep i
    let fr : Nat := match e with | some e => e.frame.toNat | none => (rayOf s.w x.va.toNat i 0).frame
    let slot : Option Nat := match e.bind (·.reserved) with | some n => some n | none => takeSlot p s.w.engine
    let frame (t : State) : Option FrameEnt := SMap.get? (partOf t s.w.part).frames fr
    (LaneReady s (.rspawn x) → s.w.lane.issue.act = none → pushesOut s s.w.id = false →
      active s.w (.rspawn x) = BitVec.twoPow 32 i →
      let gives (f : FrameEnt) (a : Nat) (more : State → Prop) : Prop :=
        ∃ t, exec (.rspawn x) s = .next t ∧ more t ∧ frame t = some f ∧
          LandsV s t (fun r k => if r = x.vd.toNat ∧ k = i then some a else none)
      let open_ : Prop := s.w.kind = .episode ∨ frameCount s s.w.part (rayOf s.w x.va.toNat i 0).frame ≠ 0
      (∀ f n, open_ → frame s = some f → (∀ e', e = some e' → e'.depth ≠ 255) → p.p ≠ 0 →
        (∀ y ∈ p.spawns, y.wave = s.w.id → y.lane ≠ i) → slot = some n →
        gives { f with rays := f.rays + 1 } 1 (fun t => ∃ r, SMap.get? (partOf t s.w.part).rays n = some r ∧
          r.frame = fr ∧ ∀ k < 9, r.word k = getV s.w (x.va.toNat + k) i)) ∧
      (∀ f, open_ → frame s = some f → (∃ e', e = some e' ∧ e'.depth = 255) →
        gives { f with dcap := min (f.dcap + 1) 0xFFFFFFFF } 0 (fun t => (partOf t s.w.part).rays = p.rays)) ∧
      (∀ f, open_ → frame s = some f → (∀ e', e = some e' → e'.depth ≠ 255) → p.p = 0 →
        gives { f with drop := min (f.drop + 1) 0xFFFFFFFF } 0 (fun t => (partOf t s.w.part).rays = p.rays)) ∧
      (¬ open_ → lanePushesOut s s.w.id = false → s.w.sys.handler = false → (ctxOf s s.w.ctx).handler ≠ 0 →
        ∃ t, exec (.rspawn x) s = .next t ∧ t.w.sys.cause = 7 + 2 ^ 9 ∧ t.w.sys.faddr = 0 ∧
          t.w.regs.spc = (ctxOf s s.w.ctx).handler ∧ (partOf t s.w.part).frames = p.frames)) ∧
    (LaneReady s (.rcont x) → pushesOut s s.w.id = false →
      let on (k : Nat) : Prop := (active s.w (.rcont x)).getLsbD k = true ∧ k < 32
      (∀ k j ek ej, on k → on j → k ≠ j → SMap.get? s.w.ep k = some ek → SMap.get? s.w.ep j = some ej → ek.slot ≠ ej.slot) →
      ∃ t, exec (.rcont x) s = .next t ∧ t.w.regs = s.w.regs ∧ t.w.lane.q = s.w.lane.q ∧
        ∀ k ek old, on k → SMap.get? s.w.ep k = some ek → SMap.get? p.rays ek.slot = some old →
          SMap.get? t.w.ep k = some { ek with cont := true } ∧
          ∃ n, SMap.get? (partOf t s.w.part).rays ek.slot = some (old.cont (rayOf s.w x.va.toNat k n))) ∧
    (LaneReady s (.racc x) → active s.w (.racc x) = BitVec.twoPow 32 i → pixelOk s x i = true → CleanL1 s core →
      let a := accEntry s x i
      ∀ k, a.toNat % 4 = 0 → (∀ b ∈ s.bad, ¬ (k ≤ b ∧ b < k + 16)) →
        (∀ j < 4, locate s s.w.ctx s.w.part false true (a + dw (4 * j)) = .ok (.mem (k + 4 * j))) →
        ∃ t, exec (.racc x) s = .next t ∧ t.w.regs = s.w.regs ∧ t.w.lane.q = s.w.lane.q ∧
          (∀ j < 3, memNat t.mem (k + 4 * j) 4 =
            (fpAdd .f32 .rne (FFmt.dec .f32 (memNat s.mem (k + 4 * j) 4))
              (FFmt.dec .f32 (getV s.w (x.va.toNat + j) i).toNat)).code % 2 ^ 32) ∧
          memNat t.mem (k + 12) 4 = (memNat s.mem (k + 12) 4 + wordB s.w x Pops.none i) % 2 ^ 32 ∧
          ∀ m, (m < k ∨ k + 16 ≤ m) → memByte t.mem m = memByte s.mem m)

/-! ### Matrix instructions -/

/-- The matrix instructions that the engine performs (R185, R192, R193, R195 to R198), the releases of records that may take effect
being made: after the checks each is accepted at the tail of the engine's queue with what it read at issue (the shape, the
band scales, the slice base, the values, addresses and offsets of its active lanes), and nothing else changes; while that
queue is full it waits.
MRD (R194): outside a subnormal assist, the accumulator's elements as they stand land in its registers, with the step count
of the wave's operation on it, and its unfinished operations up to 255, in the step register; in an assist it waits.
MWAIT (R196): it goes on once the wave has no operation left and no cause of one to report, waits before, and delivers such a
cause as a trap, after which it executes again. That it does is the model's (log 86). -/
def Obligations.MatrixInstructions : Prop :=
  (∀ (s : State) (x : LMma) (om : BitVec 4) (y : LMrw) (st : BitVec 4) (m : BitVec 2) (z : LRec) (e : LEpi),
      let u := settleRecords s s.w.engine
      let shape := getS s.w x.shape.toNat
      let M := shape.toNat % 256
      let N := shape.toNat / 256 % 256
      let K := shape.toNat / 2 ^ 16 % 2 ^ 24
      let bands := if x.fmtA = .fp4 then getS s.w x.sbs.toNat else 0
      let empty := M = 0 ∨ N = 0 ∨ K = 0
      let named : Option Nat := match x.b with | .record o => some o.toNat | .slice _ => none
      let base : Nat := match x.b with | .record _ => 0 | .slice r => (getS s.w r.toNat).toNat
      let mftz := s.w.lane.issue.fpmode.getLsbD 0
      let fits := M ≤ 128 ∧ N ≤ 128 ∧ K % mfStep x.fmtA = 0 ∧
        (∀ o, named = some o → ∃ rb, heldIn u o (some true) = some rb ∧ (empty ∨ N * mfBytes x.fmtB K ≤ rb.size)) ∧
        (named = none → empty ∨ base + mfBytes x.fmtB K ≤ 0x10000) ∧
        (x.fmtA = .fp4 → empty ∨ bandsOk bands M N = true)
      (∀ ra, LaneReady s (.mma x) → fits → heldIn u x.ra.toNat (some false) = some ra →
        (empty ∨ M * mfBytes x.fmtA K ≤ ra.size) →
        Accepts s u (.mma x) x.m.toNat (accTiles s.w x.m.toNat)
          (.mma x.ra.toNat named base shape bands x.fmtA x.fmtB mftz)) ∧
      (LaneReady s (.mmas x om) → fits → (heldIn u x.ra.toNat (some false)).isSome = true →
        (heldIn u om.toNat none).isSome = true →
        Accepts s u (.mmas x om) x.m.toNat (accTiles s.w x.m.toNat)
          (.mmas x.ra.toNat named base shape bands x.fmtA x.fmtB mftz om.toNat)) ∧
      (LaneReady s (.mwr y) → active s.w (.mwr y) ≠ 0 →
        let word (l t : Nat) : DWord :=
          if s.w.accF64 then
            dw ((getV s.w (y.v.toNat + 2 * t) l).toNat + 2 ^ 32 * (getV s.w (y.v.toNat + 2 * t + 1) l).toNat)
          else dw (getV s.w (y.v.toNat + t) l).toNat
        Accepts s s (.mwr y) y.m.toNat (accTiles s.w y.m.toNat) (.mwr y.rblk.toNat y.col.toNat
          ((lanesOf (active s.w (.mwr y))).flatMap (fun l =>
            (List.range (y.cnt.toNat + 1)).map (fun t => (8 * l + t, word l t)))))) ∧
      (LaneReady s (.mzero st m) → Accepts s s (.mzero st m) m.toNat (accTiles s.w m.toNat) .mzero) ∧
      (let off (l : Nat) : Nat := (getS s.w z.off.toNat).toNat + l * z.stride.toNat
       let n := z.cnt.toNat + 1
       let fits (i : Instr) : Prop := LaneReady s i ∧ active s.w i ≠ 0 ∧ (getS s.w z.off.toNat).toNat % 4 = 0 ∧
         ∃ r, heldIn u z.o.toNat none = some r ∧ ∀ l, (active s.w i).getLsbD l = true → off l + 4 * n ≤ r.size
       (fits (.osto z) → ∃ v, Accepts s u (.osto z) 4 [] (.osto z.o.toNat v) ∧ ∀ b : Nat,
         ((∀ l ∈ lanesOf (active s.w (.osto z)), ¬ (off l ≤ b ∧ b < off l + 4 * n)) → SMap.get? v b = none) ∧
         ∀ l ∈ lanesOf (active s.w (.osto z)), off l ≤ b → b < off l + 4 * n →
           (∀ k ∈ lanesOf (active s.w (.osto z)), l < k → ¬ (off k ≤ b ∧ b < off k + 4 * n)) →
           SMap.get? v b =
             some (BitVec.ofNat 8 ((getV s.w (z.v.toNat + (b - off l) / 4) l).toNat / 256 ^ ((b - off l) % 4)))) ∧
       (fits (.olod z) → Accepts s u (.olod z) 4 [] (.olod z.o.toNat n
         ((lanesOf (active s.w (.olod z))).map (fun l =>
           (l, dw ((getV s.w z.v.toNat l).toNat + 2 ^ 32 * (getV s.w (z.v.toNat + 1) l).toNat))))
         ((lanesOf (active s.w (.olod z))).map (fun l => (l, off l)))))) ∧
      (LaneReady s (.mepi e) → (active s.w (.mepi e) ≠ 0 ∨ e.clr = true) → (getS s.w e.shape.toNat).toNat % 256 ≤ 128 →
        (getS s.w e.shape.toNat).toNat / 256 % 256 ≤ 128 →
        Accepts s s (.mepi e) e.m.toNat (accTiles s.w e.m.toNat)
          (.mepi (getS s.w e.shape.toNat) (BitVec.ofNat 32 (getS s.w e.scale.toNat).toNat) e.rblk.toNat
            ((lanesOf (active s.w (.mepi e))).map (fun l =>
              (l, dw ((getV s.w e.va.toNat l).toNat + 2 ^ 32 * (getV s.w (e.va.toNat + 1) l).toNat))))
            e.ofmt e.sat e.relu e.clr (if e.fold then some (getS s.w e.sfold.toNat) else none)))) ∧
  (∀ (s : State) (x : LMrw) (st : BitVec 4),
      let en := engineOf s s.w.engine
      let act := active s.w (.mrd x)
      let assist := ∃ r, en.run = some r ∧ r.assist ≠ []
      let mine (o : MOp) : Bool := decide (o.wave = s.w.id ∧ o.m = x.m.toNat)
      let mul (r : MRun) : Bool := mine r.op && (match r.op.kind with | .mma .. => true | .mmas .. => true | _ => false)
      let width := if s.w.accF64 then 2 else 1
      (LaneReady s (.mrd x) → act ≠ 0 → assist → LaneWaits s (.mrd x)) ∧
      (LaneReady s (.mrd x) → act ≠ 0 → ¬ assist →
        ∃ t v, exec (.mrd x) s = .next t ∧ Issued s (.mrd x) t ∧
          (∀ r k, k < 32 → (getV (landAll t).w r k).toNat =
            if act.getLsbD k = true ∧ x.v.toNat ≤ r ∧ r < x.v.toNat + width * (x.cnt.toNat + 1) then
              accGet en (accTiles s.w x.m.toNat) (32 * x.rblk.toNat + k) (x.col.toNat + (r - x.v.toNat) / width) /
                2 ^ (32 * ((r - x.v.toNat) % width)) % 2 ^ 32
            else (getV s.w r k).toNat) ∧
          (∀ n, getS (landAll t).w n = if n = x.sd.toNat then v else getS s.w n) ∧
          v.toNat / 2 ^ 32 = Nat.min (en.ops.countP mine) 255 ∧
          (∀ r, (en.run.toList ++ en.susp).find? mul = some r → v.toNat % 2 ^ 32 = r.done % 2 ^ 32) ∧
          ((en.run.toList ++ en.susp).find? mul = none → v.toNat % 2 ^ 32 =
            (match en.last.find? (fun l => decide (l.wave = s.w.id ∧ l.m = x.m.toNat)) with
              | some l => l.steps % 2 ^ 32
              | none => 0))) ∧
      (LaneReady s (.mwait st) → matrixOps s s.w.id = [] → (s.w.sys.handler = true ∨ ∀ cp ∈ s.w.pend, cp.2.mx = false) →
        ∃ t, exec (.mwait st) s = .next t ∧ Issued s (.mwait st) t ∧ t.w.lane.inflight = []) ∧
      (LaneReady s (.mwait st) → matrixOps s s.w.id ≠ [] → LaneWaits s (.mwait st)) ∧
      ∀ c p, LaneReady s (.mwait st) → matrixOps s s.w.id = [] → s.w.sys.handler = false →
        s.w.pend.find? (fun cp => cp.2.mx) = some (c, p) → lanePushesOut s s.w.id = false → (ctxOf s s.w.ctx).handler ≠ 0 →
        ∃ t f, exec (.mwait st) s = .next t ∧ t.w.sys.cause = dw (c % 256 + 2 ^ 8 + (if p.lane then 2 ^ 9 else 0)) ∧
          t.w.sys.faddr = p.faddr ∧ t.w.sys.fagent = p.fagent ∧ t.w.sys.handler = true ∧
          t.w.regs.spc = (ctxOf s s.w.ctx).handler ∧ SMap.get? t.w.pend c = none ∧
          t.w.frame = some f ∧ f.again = some s.w.lane.issue)

/-! ### Commands -/

/-- Commands applied as they are parsed (R376, R377, Table 22-3): HEAD passes the packet, the effect is made, and the command
has completed with status 0; a value outside its limits completes with status 6 and changes nothing else.
That IMAGE's address is physical and that quadwords Table 22-3 does not list are ignored are the model's (logs 24 and 20). -/
def Obligations.CommandsApplied : Prop :=
  ∀ (s : State) (h : Hdr), Commanded s h →
    let ctx := h.ctx.toNat
    let part := (ctxOf s ctx).part
    let p := partOf s part
    (∃ t, exec (.nop h) s = .next t ∧ CommandIs s t h 0x0000 (some (0, 0)) ∧
      headOf t ctx = (headOf s ctx + 16 * h.len.toNat) % 2 ^ 32 ∧ (ctxOf t ctx).nextSeq = h.seq + 1 ∧
      t = { s with mem := t.mem, contexts := t.contexts }) ∧
    (∀ e b r sp w6 tm : BitVec 64, bits w6 63 32 = 0 → bits w6 31 0 % 64 = 0 →
      ∃ t, exec (.ctxcfg h e b r sp w6 tm) s = .next t ∧ CommandIs s t h 0x0001 (some (0, 0)) ∧
        (ctxOf t ctx).handler = e ∧ (ctxOf t ctx).hlbase = b ∧ (ctxOf t ctx).rt = r ∧ (ctxOf t ctx).spillB = sp &&& ~~~ 63#64 ∧
        (ctxOf t ctx).spillQ = bits w6 31 0 ∧ (ctxOf t ctx).tmpl = tm) ∧
    (∀ w : BitVec 64,
      (bits w 63 16 = 0 → w.toNat % 10 = 0 → (if s.power.card then 300 else 600) ≤ w.toNat →
        w.toNat ≤ (if s.power.card then 450 else 1400) →
        ∃ t, exec (.power h w 0) s = .next t ∧ CommandIs s t h 0x0014 (some (0, 0)) ∧
          t.power = { s.power with cap := w.toNat }) ∧
      (bits w 63 16 ≠ 0 ∨ w.toNat % 10 ≠ 0 ∨ w.toNat < (if s.power.card then 300 else 600) ∨
        (if s.power.card then 450 else 1400) < w.toNat →
        ∃ t, exec (.power h w 0) s = .next t ∧ CommandIs s t h 0x0014 (some (6, 0)) ∧ t.power = s.power)) ∧
    (∀ (idx : BitVec 64) (x : Task), bits idx 63 16 = 0 → SMap.get? p.tasks idx.toNat = some x → x.st = .waiting →
      (0 < x.count → ∃ t y, exec (.signal h idx 0) s = .next t ∧ CommandIs s t h 0x0005 (some (0, 0)) ∧
        SMap.get? (partOf t part).tasks idx.toNat = some y ∧ y.count = x.count - 1 ∧
        y.st = (if x.count = 1 then .ready else .waiting)) ∧
      (x.jobs = 0 → ∃ t, exec (.cancelTask h 1 idx) s = .next t ∧ CommandIs s t h 0x0006 (some (0, 0)) ∧
        SMap.get? (partOf t part).tasks idx.toNat = none)) ∧
    (∀ r0 r1 r2 r3 r4 r5 r6 r7 : BitVec 64, TaskRec.invalid [r0, r1, r2, r3, r4, r5, r6, r7] = false →
      (∀ i, freeEntry p = some i →
        ∃ t x, exec (.task h r0 r1 r2 r3 r4 r5 r6 r7) s = .next t ∧ CommandIs s t h 0x0004 (some (0, i)) ∧
          SMap.get? (partOf t part).tasks i = some x ∧ x.st = .admitting ∧ x.r = [r0, r1, r2, r3, r4, r5, r6, r7] ∧
          x.count = TaskRec.deps x.r) ∧
      (freeEntry p = none → ∃ t, exec (.task h r0 r1 r2 r3 r4 r5 r6 r7) s = .next t ∧
        CommandIs s t h 0x0004 (some (0, 2 ^ 64 - 1)))) ∧
    (∀ addr w : BitVec 64, bits w 31 1 = 0 →
      (addr.toNat + bits w 63 32 ≤ pageOf s ctx + 20 ∨ pageOf s ctx + 24 ≤ addr.toNat) →
      ∃ t, exec (.image h addr w) s = .next t ∧ CommandIs s t h 0x0016 (some (0, 0)) ∧
        t.fw = (if w.getLsbD 0 then { s.fw with stagedService := some (memBytes s.mem addr.toNat (bits w 63 32)) }
          else { s.fw with stagedRoot := some (memBytes s.mem addr.toNat (bits w 63 32)) })) ∧
    (∀ c head seq w5 : BitVec 64, bits c 63 16 = 0 → bits head 63 32 = 0 → c.toNat ∈ p.eps →
      ∃ t, exec (.ringrst h c head seq w5) s = .next t ∧ CommandIs s t h 0x0013 (some (0, 0)) ∧
        (ctxOf t c.toNat).halted = false ∧ headOf t c.toNat = head.toNat ∧ (ctxOf t c.toNat).tail.toNat = head.toNat ∧
        (ctxOf t c.toNat).nextSeq = seq)

/-- Commands that start work (R28, R279, R284, R323, R377, R378): a launch or graph that passes its checks joins the launches
and its command stays open; CANCEL of a launch with waves placed stops it and stays open, and of no launch completes at once;
FRAME opens a frame, and waits unparsed while 256 are open; COPY enters its channel, and waits while that is full; FENCE
blocks its ring. -/
def Obligations.CommandsBegin : Prop :=
  ∀ (s : State) (h : Hdr), Commanded s h →
    let ctx := h.ctx.toNat
    let part := (ctxOf s ctx).part
    let n := (ctxOf s ctx).nextCmd
    (∀ (desc argb w groups : BitVec 64) (sets : List (BitVec 1024)), bits w 63 55 = 0 →
      let starts (i : Instr) (opc : Nat) (nodes : List Node) : Prop :=
        let u := passed s h opc
        launchGroups u ctx part (bits w 41 32 + 1) (bits w 54 46) groups = some sets →
        sizeBad (bits w 31 0) (bits w 41 32 + 1) (w.getLsbD 42) = false →
        ∃ t x, exec i s = .next t ∧ CommandIs s t h opc none ∧ SMap.get? t.launches s.nextLaunch = some x ∧
          x.desc = desc ∧ x.n = bits w 31 0 ∧ x.w = bits w 41 32 + 1 ∧ x.argb = argb ∧ x.groups = sets ∧ x.next = 0 ∧ x.live = 0 ∧
          x.cmd = some n ∧ x.nodes = nodes
      starts (.launch h desc argb w groups) 0x0002 [] ∧
      ∀ (va w7 : BitVec 64) (nodes : List Node), bits w7 63 7 = 0 → 1 ≤ bits w7 6 0 → bits w7 6 0 ≤ 64 →
        readNodes (passed s h 0x0003) ctx part va (bits w7 6 0) = some nodes →
        starts (.graph h desc argb w groups va w7) 0x0003 nodes) ∧
    (∀ seq : BitVec 64,
      (launchOfSeq (passed s h 0x0006) ctx seq = none →
        ∃ t, exec (.cancelLaunch h 0 seq) s = .next t ∧ CommandIs s t h 0x0006 (some (0, 0)) ∧ t.launches = s.launches) ∧
      ∀ l x, launchOfSeq (passed s h 0x0006) ctx seq = some l → SMap.get? s.launches l = some x → x.live ≠ 0 →
        ∃ t, exec (.cancelLaunch h 0 seq) s = .next t ∧ CommandIs s t h 0x0006 none ∧
          SMap.get? t.launches l = some { x with cancelled := true, cancels := x.cancels ++ [n] }) ∧
    (∀ (desc : BitVec 64) (d : List DWord), frameDesc s ctx desc = some d →
      ((partOf s part).frames.length < 256 → ∃ t f, exec (.frame h desc 0) s = .next t ∧ CommandIs s t h 0x0007 none ∧
        SMap.get? (partOf t part).frames (fieldOf d 623 608) = some f ∧ f.addr = desc ∧ f.d = d ∧ f.cmd = some n ∧
        f.rays = 0) ∧
      (256 ≤ (partOf s part).frames.length → exec (.frame h desc 0) s = .next s)) ∧
    (∀ start off : BitVec 64, off.toNat < 0x40000 → apertureOk s part off.toNat = true →
      let c := (apChannel s part off.toNat).1
      let ch := (apChannel s part off.toNat).2
      (apRoom s part off.toNat = true → ∃ t j, exec (.copy h start off) s = .next t ∧ CommandIs s t h 0x0009 none ∧
        channelOf t c ch = channelOf s c ch ++ [j] ∧ j.value = start ∧ j.cmd = some n ∧ j.begun = false) ∧
      (apRoom s part off.toNat = false → exec (.copy h start off) s = .next s)) ∧
    ∃ t, exec (.fenceCommand h) s = .next t ∧ CommandIs s t h 0x000A none ∧ mayParse t ctx = false

/-- Mapping, migration and codec pages (R213, R216, R258, R259): with the dirty bytes of every context written home, MAP's set
table base makes the context's walks see the tables as they stand, and its write entry puts one entry in memory and makes the
walks of every context see that one; a migration moves the page's bytes and its entry; CODECWB empties the L2 of its pages' lines; a dirty line that leaves is encoded;
a merge of a finite value changes the line.
That a set table base takes the tables whole is the model's (log 21). -/
def Obligations.MappingAndCodecPages : Prop :=
  ∀ (s : State) (h : Hdr), Commanded s h →
    let ctx := h.ctx.toNat
    let u := allFlushed (passed s h 0x0008)
    (∀ base w5 : BitVec 64,
      let f (c : Nat) : Tables := if c = ctx then { base := some base.toNat, view := u.mem } else tableOf s c
      leavesUnder u f ≤ 4096 →
      ∃ t, exec (.mapSetTableBase h 0 base 0 w5) s = .next t ∧ CommandIs s t h 0x0008 (some (0, 0)) ∧
        ∀ c, tableOf t c = f c) ∧
    (∀ addr entry w5 : BitVec 64,
      let m := memPutNat u.mem addr.toNat 8 entry.toNat
      let f (c : Nat) : Tables := (tableOf s c).named addr.toNat entry
      leavesUnder u f ≤ 4096 →
      ∃ t, exec (.mapWriteEntry h 1 addr entry w5) s = .next t ∧ CommandIs s t h 0x0008 (some (0, 0)) ∧
        (∀ c, tableOf t c = f c) ∧ ((∀ c, keptLeaves u c = []) → t.mem = m)) ∧
    (∀ (page pa w5 : BitVec 64) (x : DWord × Bool), migratable s ctx page pa = some x →
      ∃ t, exec (.mapMigrate h 2 page pa w5) s = .next t ∧ CommandIs s t h 0x0008 none ∧
        (ctxOf t ctx).migrations = (ctxOf s ctx).migrations ++ [(page, pa, (ctxOf s ctx).nextCmd)]) ∧
    (∀ (page count : BitVec 64) (ls : List Nat), codecPages s ctx page count.toNat = some ls →
      ∃ t, exec (.codecwb h page count) s = .next t ∧ CommandIs s t h 0x000B (some (0, 0)) ∧
        ∀ k, k / 2 ^ 15 ∈ ls → SMap.get? t.clines k = none) ∧
    (∀ (c : Cmd) (page pa e : DWord) (n : Nat) (rest : List (DWord × DWord × Nat)) (big : Bool),
      let me := s.target.n
      (ctxOf s me).migrations = (page, pa, n) :: rest → migratable s me page pa = some (e, big) → entryKind e ≠ 1 →
      SMap.get? (ctxOf s me).cmds n = some c → c.done = false → MemoryForm s →
      let spot := walkAddr (tableOf s me).view (vaOff page) ((tableOf s me).base.getD 0) walkLevels
      let dst := entryPa (withPa e pa)
      (∀ c, ∀ l ∈ keptLeaves s c, leafEntry s ((tableOf s c).named spot (withPa e pa)) l = leafEntry s (tableOf s c) l) →
      ∃ t, exec .migration s = .next t ∧ (ctxOf t me).migrations = rest ∧ memNat t.mem spot 8 = (withPa e pa).toNat ∧
        memNat (tableOf t me).view spot 8 = (withPa e pa).toNat ∧
        SMap.get? (ctxOf t me).cmds n = some { c with done := true, status := 0, value := 0 } ∧
        ∀ i < (if big then 2 ^ 21 else 2 ^ 16), (dst + i < spot ∨ spot + 8 ≤ dst + i) →
          memByte t.mem (dst + i) = memByte s.mem (entryPa e + i)) ∧
    (∀ l : CLine, SMap.get? s.clines s.target.n = some l →
      ∃ t, exec .codecEncode s = .next t ∧ SMap.get? t.clines s.target.n = none ∧
        (l.dirty = false → t.mem = s.mem) ∧
        (l.dirty = true → memBytes t.mem (l.base + s.target.n % 2 ^ 15 * budgetBytes l.budget) (budgetBytes l.budget) =
          (encodeLine (budgetBytes l.budget) l.data).1)) ∧
    ∀ (c : Nat) (va data : BitVec 64) (leaf base budget off : Nat) (l : CLine), va.toNat % 8 = 0 →
      locate s c (ctxOf s c).part true true va = .ok (.codec leaf base budget off) →
      codecFill s leaf base budget (off / 64) = some l → f64NonFinite data.toNat = false →
      ∃ t x, exec (.codecMerge c va data) s = .next t ∧ t.mem = s.mem ∧
        homeRead t (.codec leaf base budget off) 8 = bytesOf 8 data.toNat ∧
        SMap.get? t.clines (clineKey leaf (off / 64)) = some x ∧ x.dirty = true

/-- Counter records, snapshots, the capability list, attestation and Blink (R240, R261, R350, R364 to R369, R383; the layouts of the
Meridian and flush records are the model's, log 22): each command writes its record into the buffer and completes; triggers
that are armed fire outside the hold-off, which ends at its time, and are missed in it and while a snapshot is copied, which
takes the cycle of its command (log 23). -/
def Obligations.ReportsAndBlink : Prop :=
  ∀ (s : State) (h : Hdr) (buf : BitVec 64) (k : Nat), Commanded s h →
    let ctx := h.ctx.toNat
    let part := (ctxOf s ctx).part
    let p := partOf s part
    let room (n : Nat) : Prop := PlainAt s ctx part false true buf n k
    (∀ w3 w5 : BitVec 64, room 32 →
      Reports s (.countrdBound h 0 w3 buf w5) h 0x000C k [dw p.killq, dw p.killr, dw p.incups, 0] ∧
      Reports s (.countrdMeridian h 2 w3 buf w5) h 0x000C k [dw p.tickets, dw p.pubs, 0, 0]) ∧
    (∀ (page w5 : BitVec 64) (leaf budget : Nat), room 32 → codecPage s ctx page = some (leaf, budget) →
      let c := SMap.getD s.ccounts leaf { enc := 0, lossy := 0, clip := 0, flush := 0 }
      Reports s (.countrdCodec h 1 page buf w5) h 0x000C k [dw c.enc, dw c.lossy, dw (c.clip + c.flush * 2 ^ 32), dw budget]) ∧
    (∀ (j w5 : BitVec 64) (c : Nat), room 32 → p.clusters[j.toNat]? = some c →
      Reports s (.countrdFlush h 3 j buf w5) h 0x000C k [dw (engineOf s c).flush, 0, 0, 0]) ∧
    (∀ (bytes : BitVec 64) (x : Snapshot), p.blink.snap = some x → 8 * x.words.length ≤ bytes.toNat →
      room (8 * x.words.length) → Reports s (.snapread h buf bytes) h 0x000E k x.words ∧
        ∀ t, exec (.snapread h buf bytes) s = .next t → (partOf t part).blink = { p.blink with copying := s.clock + 1 }) ∧
    (∀ w : BitVec 64, room (bits w 63 32) → ∃ t, exec (.capread h w buf) s = .next t ∧
      CommandIs s t h 0x000F (some (0, 0)) ∧ memBytes t.mem k (bits w 63 32) =
        (List.range (bits w 63 32)).map (fun i => (bytesOfQuads (capWords s)).getD (bits w 31 0 + i) 0)) ∧
    (∀ n0 n1 n2 n3 n4 n5 n6 n7 : BitVec 64, room 544 →
      let body := reportBody s part [n0, n1, n2, n3, n4, n5, n6, n7]
      ∃ t, exec (.attest h buf 0 n0 n1 n2 n3 n4 n5 n6 n7) s = .next t ∧ CommandIs s t h 0x0017 (some (0, 0)) ∧
        memBytes t.mem k 544 = body ++ bytesOf 132 (Config.identitySign body).toNat ++ List.replicate 4 0 ∧
        memBytes t.mem k 64 = bytesOfQuads [n0, n1, n2, n3, n4, n5, n6, n7]) ∧
    (∀ ctl thr : BitVec 64, bits ctl 19 5 = 0 →
      (bits ctl 63 48 = 0 ∧ ctl.getLsbD 2 = false) ∨ (counterOf s part (bits ctl 63 48)).isSome = true →
      ∃ t, exec (.blink h ctl thr) s = .next t ∧ CommandIs s t h 0x000D (some (0, 0)) ∧
        (partOf t part).blink = { p.blink with ctl := ctl, thr := thr }) ∧
    ∀ (n : Nat) (tag : BitVec 16), (SMap.get? s.parts n).isSome = true →
      let b := (partOf s n).blink
      (b.ctl.getLsbD 4 = true → b.holdUntil = none → b.copying ≤ s.clock →
        ∃ t, exec .blinkPin s = .next t ∧ PartOnly s t ∧ (partOf t n).blink.fired.getLsbD 4 = true) ∧
      (b.ctl.getLsbD 4 = true → s.clock < b.copying ∨ (∃ c, b.holdUntil = some c ∧ s.clock < c) →
        ∃ t, exec .blinkPin s = .next t ∧ PartOnly s t ∧
          (partOf t n).blink = { b with missed := min (b.missed + 1) 0xFFFFFFFF }) ∧
      (b.ctl.getLsbD 3 = true → b.holdUntil = none → b.copying ≤ s.clock →
        ∃ t, exec (.blinkMessage n tag) s = .next t ∧ PartOnly s t ∧ (partOf t n).blink.fired.getLsbD 3 = true ∧
          (SMap.get? b.tags 3 = none → SMap.get? (partOf t n).blink.tags 3 = some tag)) ∧
      (∀ c, n = s.target.n → b.holdUntil = some c → c ≤ s.clock →
        ∃ t, exec .blinkHoldoffEnd s = .next t ∧ PartOnly s t ∧ (partOf t n).blink = { b with holdUntil := none })

/-- Answers to faults, switches, restores and saves (R215, R358 to R361, R379): FAULTANS answers the wave parked with its ID, which
executes again what parked or takes the fault, or is rejected; SWITCH asks every wave of the context to be saved, and is
rejected where the context is away or the area does not hold its image; RESTORE begins; a wave at a listed point is saved with
the registers its entry lists, and after the bound in full, but not at a BAR that has completed.
That what an image stands for is a record of the state, and the size of what the spec gives none for, are the model's (log 8). -/
def Obligations.AnswersSwitchesAndSaves : Prop :=
  ∀ (s : State) (h : Hdr), Commanded s h →
    let ctx := h.ctx.toNat
    let n := (ctxOf s ctx).nextCmd
    (∀ (id w3 : BitVec 64) (va : DWord) (p : Park), bits w3 63 1 = 0 →
      SMap.get? (ctxOf s ctx).awaits id.toNat = some va → s.w.ctx = ctx → s.w.park = some p → p.id = id.toNat → p.st = .await →
      (∃ t, exec (.faultansResume h id w3) s = .next t ∧ CommandIs s t h 0x0010 (some (0, 0)) ∧
        SMap.get? (ctxOf t ctx).awaits id.toNat = none ∧ t.w.park = some { p with st := .replay } ∧ t.w.status = s.w.status ∧ t.w.regs = s.w.regs ∧
        t.w.lane.q = p.lane.toList ++ s.w.lane.q) ∧
      ∃ t, exec (.faultansFail h id w3) s = .next t ∧ CommandIs s t h 0x0010 (some (0, 0)) ∧
        SMap.get? (ctxOf t ctx).awaits id.toNat = none ∧ t.w.park = some { p with st := .fail } ∧ t.w.status = s.w.status ∧ t.w.regs = s.w.regs) ∧
    (∀ id w3 : BitVec 64, bits w3 63 1 = 0 → SMap.get? (ctxOf s ctx).awaits id.toNat = none →
      ∃ t, exec (.faultansResume h id w3) s = .next t ∧ CommandIs s t h 0x0010 (some (6, 0)) ∧ t.w = s.w) ∧
    (∀ area w3 : BitVec 64, bits w3 63 16 = 0 →
      let c := w3.toNat
      let u := passed s h 0x0011
      c ∈ (partOf s (ctxOf s ctx).part).eps → (ctxOf s c).switching = none → (ctxOf s c).restoring = none →
      ((ctxOf s c).resident = true → (areaPages u ctx area (imageSize u c s.time)).isSome = true →
        ∃ t, exec (.switch h area w3) s = .next t ∧ CommandIs s t h 0x0011 none ∧
          (ctxOf t c).switching = some (ctx, n) ∧ (ctxOf t c).image = some area.toNat ∧
          (s.w.ctx = c → s.w.status ≠ .retired → t.w.preq = true) ∧
          ∀ kw ∈ t.waves, kw.2.ctx = c → kw.2.status ≠ .retired → kw.2.preq = true) ∧
      ((ctxOf s c).resident = false ∨ areaPages u ctx area (imageSize u c s.time) = none →
        ∃ t, exec (.switch h area w3) s = .next t ∧ CommandIs s t h 0x0011 (some (6, 0))) ∧
      ∀ i : Image, SMap.get? s.images area.toNat = some i → i.ctx = c →
        i.clusters = (partOf s (ctxOf s ctx).part).clusters.length → i.p = (partOf s (ctxOf s ctx).part).p →
        i.t = (partOf s (ctxOf s ctx).part).t → (ctxBusy (passed s h 0x0012) c = false ∨ c = ctx) →
        ∃ t, exec (.restore h area w3) s = .next t ∧ CommandIs s t h 0x0012 none ∧
          (ctxOf t c).restoring = some (ctx, n) ∧ (ctxOf t c).image = some area.toNat) ∧
    (∀ (w : Wave) (e : Nat), waveOf s s.target.n = some w → w.id = s.target.n → w.runningOn = true → barDone s w = false →
      settledWave s w = true → listedPoint s w = some e →
      ∃ t x, exec .waveSave s = .next t ∧ waveOf t w.id = some x ∧ x.status = .saved ∧ x.preq = false ∧
        x.regs.spc = w.regs.spc ∧ x.regs.em = w.regs.em ∧
        (∀ r, getS x r = if e.testBit (64 + r) then getS w r else 0) ∧
        (∀ r l, l < 32 → getV x r l = if e.testBit (320 + r) then getV w r l else 0) ∧
        ∀ r, getVp x r = if e.testBit 32 then 0 else getVp w r) ∧
    (s.target.n = s.w.id → s.w.runningOn = true → barDone s s.w = false → boundPassed s s.w = true →
      pushesOut s s.w.id = false → firingOut s s.w = false →
      (settledWave s s.w = true → listedPoint s s.w = none) →
      ∃ t, exec .preemptTimeout s = .next t ∧ t.w.status = .saved ∧ t.w.preq = false ∧ t.w.lane.q = s.w.lane.q ∧
        t.w.lane.inflight = [] ∧ t.w.regs = (landAll s).w.regs)

/-- Partitions, boot and power (R12, R16, R17, R374, R380, R382): PARTCFG makes the partition it asks for, with new endpoints and
cores; a boot takes the images that verify or begins recovery, which fetches a replacement, and one of a running die
first resets it; a workstation card's dies are
numbered 0 and 1 and run at 950 MHz; the clock steps by 25 MHz as the measured power says, within its limits.
That a boot says which board the die stands on, a card's cap before the first POWER, and that a die reset comes as a boot and
leaves memory, are the model's (logs 97 and 101). -/
def Obligations.PartitionsBootAndPower : Prop :=
  ∀ s : State,
    (∀ (h : Hdr) (w2 mask w4 w5 : BitVec 64) (f : Nat), Commanded s h → h.ctx = 0xFFFF → bits w2 63 4 = 0 → bits w4 63 14 = 0 →
      let r := PartReq.ofWords w2 mask w4
      freeEndpoints (passed s h 0x0015) r.part r.n = some f → partOk (passed s h 0x0015) r = true →
      ∃ t, exec (.partcfg h w2 mask w4 w5) s = .next t ∧ CommandIs s t h 0x0015 (some (0, f)) ∧
        partOf t r.part =
          { Part.zero with clusters := r.clusters, p := r.p, t := r.t, eps := (List.range r.n).map (fun i => f + i) } ∧
        (∀ i < r.n, SMap.get? t.contexts (f + i) = some (Context.zero r.part)) ∧
        ∀ c ∈ r.clusters, ∀ j < 4, (coreOf t (4 * c + j)).finder = 0xACE1 ^^^ BitVec.ofNat 16 (4 * c + j) ∧
          (coreOf t (4 * c + j)).l1 = []) ∧
    (s.fw.booted = false →
      let root := chooseImage s.fw.root s.fw.stagedRoot
      let service := chooseImage s.fw.service s.fw.stagedService
      let ok := rootOk root && Config.imageVerifies service
      let fw : Firmware :=
        { root := root, service := service, stagedRoot := none, stagedService := none, booted := ok, retries := 0,
          recovery := !ok }
      let k := s.target.k
      (s.fw.recovery = true ∨ (k ≠ 1 ∧ k ≠ 2) → exec .dieBoot s = .next { s with fw := fw }) ∧
      (s.fw.recovery = false → k = 1 ∨ k = 2 → ∃ t, exec .dieBoot s = .next t ∧ t.fw = fw ∧ t.dieid.toNat = k - 1 ∧
        t.power = { s.power with card := true, cap := 450, mhz := 950 } ∧ t.mem = s.mem ∧ t.w = s.w)) ∧
    (s.fw.booted = true → ∃ t, exec .dieBoot s = .next t ∧ t.fw.root = chooseImage s.fw.root s.fw.stagedRoot ∧
      t.fw.service = chooseImage s.fw.service s.fw.stagedService ∧ t.fw.stagedRoot = none ∧ t.fw.stagedService = none ∧
      t.clock = 0 ∧ t.parts = [] ∧ t.contexts = [(0xFFFF, Context.zero 0)] ∧ t.w = Wave.empty ∧ t.waves = [] ∧
      t.power.mhz = nominalClock s.power ∧
      ∀ m, (m < pageOf s 0xFFFF ∨ pageOf s 0xFFFF + 64 ≤ m) → memByte t.mem m = memByte s.mem m) ∧
    (∀ x : List Byte, s.fw.recovery = true → s.fw.retries ≤ 3 →
      ∃ t, exec (.recoveryFetch x) s = .next t ∧ t = { s with fw := t.fw } ∧
        t.fw.retries = (if rootOk s.fw.root = false ∧ rootOk x = true then 0 else s.fw.retries + 1) ∧
        (rootOk s.fw.root = false → rootOk x = true → t.fw.root = x ∧ t.fw.booted = Config.imageVerifies s.fw.service) ∧
        (rootOk s.fw.root = false → rootOk x = false → t.fw.root = s.fw.root ∧ t.fw.booted = s.fw.booted) ∧
        (rootOk s.fw.root = true → Config.imageVerifies x = true → t.fw.service = x ∧ t.fw.booted = true)) ∧
    ∀ watts : Nat,
      (s.power.cap < watts → 400 < s.power.mhz → ∃ t, exec (.powerWindow watts) s = .next t ∧ t = { s with power := t.power } ∧
        t.power.mhz = max 400 (s.power.mhz - 25) ∧ t.power.cap = s.power.cap) ∧
      (s.power.cap < watts → s.power.mhz ≤ 400 →
        ∃ t, exec (.powerWindow watts) s = .next t ∧ t.power.mhz = s.power.mhz ∧ t.power.hot = s.power.hot + 1 ∧
          t.power.posted = (s.power.posted || decide (10 ≤ s.power.hot + 1))) ∧
      (watts ≤ s.power.cap → ∃ t, exec (.powerWindow watts) s = .next t ∧ t = { s with power := t.power } ∧
        t.power.cap = s.power.cap ∧ t.power.mhz =
          (if 100 * watts < 95 * s.power.cap then min (nominalClock s.power) (s.power.mhz + 25) else s.power.mhz))

/-- What comes to the ports, and how commands end (R214, R240, R271, R370, R373, R374, R376, R377, R381): doorbells move TAIL, are
ignored on a halted ring or where they do not lie ahead, or are counted as discards; the host's and other dies' loads, stores
and integer atomics by address reach the context's memory and the host gets its data; another die's push joins its queue; an SC turn comes; routes are
set; the oldest completed command's record is written; a bad packet halts its ring.
That a turn only lets its wave go on is the model's (log 71), as are that a 128-bit access of the host carries 64 bits of data
(log 75) and the form of a route's row (log 102). The port of a discarded packet is the agenda's (log 25), and so is when the
anchor die gives a turn (log 17). -/
def Obligations.PortsAndCompletions : Prop :=
  ∀ s : State,
    (∀ (ctx : BitVec 16) (v : BitVec 64) (c : Context), SMap.get? s.contexts ctx.toNat = some c →
      (c.halted = true → bits v 63 32 = 0 → descOk s ctx.toNat = true → exec (.doorbell ctx v) s = .next s) ∧
      (c.halted = false → bits v 63 32 = 0 → descOk s ctx.toNat = true → tailAhead s ctx.toNat (bits v 31 0) = true →
        ∃ t, exec (.doorbell ctx v) s = .next t ∧ t = { s with contexts := t.contexts } ∧
          ctxOf t ctx.toNat = { c with tail := v.setWidth 32, rung := true }) ∧
      (c.halted = false → bits v 63 32 = 0 → descOk s ctx.toNat = true → tailAhead s ctx.toNat (bits v 31 0) = false →
        exec (.doorbell ctx v) s = .next s) ∧
      (bits v 63 32 ≠ 0 ∨ descOk s ctx.toNat = false →
        ∃ t, exec (.doorbell ctx v) s = .next t ∧ t = { s with discards := t.discards } ∧
          SMap.getD t.discards (s.target.n % 8) 0 = SMap.getD s.discards (s.target.n % 8) 0 + 1)) ∧
    (∀ port : BitVec 3, ∃ t, exec (.unreliablePacketDiscard port) s = .next t ∧ t = { s with discards := t.discards } ∧
      SMap.getD t.discards port.toNat 0 = SMap.getD s.discards port.toNat 0 + 1) ∧
    (∀ (ctx : BitVec 16) (va d : BitVec 64) (size : MSize) (k : Nat) (die : BitVec 12) (kind : AccKind),
      (SMap.get? s.contexts ctx.toNat).isSome = true → vaSpace va ≤ 1 → vaDie va = s.dieid.toNat →
      ∀ i ∈ [Instr.hostAccess { ctx := ctx, phys := false, addr := va, size := size, kind := kind },
        Instr.remoteRequest { die := die, ctx := ctx, va := va, size := size, kind := kind, sc := false }],
      let n := size.bytes
      let good : Prop := ∀ b ∈ s.bad, ¬ (k ≤ b ∧ b < k + n)
      let leaves (x : Nat) : Prop := ∃ t, exec i s = .next t ∧ memNat t.mem k n = x ∧
        (∀ m, (m < k ∨ k + n ≤ m) → memByte t.mem m = memByte s.mem m) ∧ t.w = s.w ∧
        ((∃ a, i = .hostAccess a) → (∀ y, kind ≠ .store y) → natOfBytes t.hostData = memNat s.mem k n)
      (kind = .load → PlainAt s ctx.toNat (ctxOf s ctx.toNat).part false false va n k → good → leaves (memNat s.mem k n)) ∧
      (kind = .store d → PlainAt s ctx.toNat (ctxOf s ctx.toNat).part false true va n k → leaves (d.toNat % 2 ^ (8 * n))) ∧
      ∀ aop : BitVec 5, kind = .atomic aop d → aop.toNat ≤ 12 → aop.toNat ∉ [1, 2, 11] → d.toNat < 2 ^ (8 * n) →
        PlainAt s ctx.toNat (ctxOf s ctx.toNat).part false true va n k → good →
        leaves (atomicValue aop.toNat n (memNat s.mem k n) d.toNat % 2 ^ (8 * n))) ∧
    (∀ (r : RemoteReq) (bs : List Byte), let part := (ctxOf s r.ctx.toNat).part
      let own := ownerOf s part r.va r.ctx.toNat
      r.push = some ((qcwOf s own part r.va).gen, bs) → vaSpace r.va = 0xE → vaDie r.va = s.dieid.toNat →
      QueueLaid s own part r.va → (qcwOf s own part r.va).count < (qcwOf s own part r.va).depth →
      ∃ t, exec (.remoteRequest r) s = .next t ∧ t.w = s.w ∧ queueElems t own part r.va =
        queueElems s own part r.va ++ [padTo (elemBytes (qcwOf s own part r.va).esize) bs]) ∧
    (s.target.k = s.w.id → s.w.id ≠ 0 → s.w.status = .waiting →
      (s.target.m = 0 → s.w.pod = some false →
        exec .scOperationPerform s = .next { s with w := { s.w with pod := some true, status := .ready } }) ∧
      (s.target.m ≠ 0 → s.w.lane.pod = some false → exec .scOperationPerform s =
        .next { s with w := { s.w with lane := { s.w.lane with pod := some true }, status := .ready } })) ∧
    (∀ tk : Ticket, s.target.k = 0 → nextTicket (partOf s s.target.n) = some tk → tk.req = none → tk.wave = some s.w.id → s.w.status = .waiting →
      exec .scOperationPerform s = .next { s with w := { s.w with status := .ready } }) ∧
    (∀ (tk : Ticket) (r : RemoteReq), s.target.k = 0 → nextTicket (partOf s s.target.n) = some tk → tk.req = some r →
      ∃ t, exec .scOperationPerform s = .next t ∧ ∀ x ∈ (partOf t s.target.n).scq, x.n ≠ tk.n) ∧
    (∀ (rows : List Route) (anchor : BitVec 12), (rows.map (·.die)).Nodup →
      ∃ t, exec (.routeTableProgram rows anchor) s = .next t ∧ t = { s with routes := t.routes, anchor := anchor } ∧
        (∀ r ∈ rows, ∃ x, SMap.get? t.routes r.die.toNat = some x ∧ x.chip = r.chip.toNat ∧ x.addr = r.addr ∧ x.flow = r.flow ∧
          ((r.ends.map (·.1)).Nodup → ∀ e ∈ r.ends, endpointAddress t r.die.toNat e.1.toNat = some e.2)) ∧
        ∀ d, (∀ r ∈ rows, r.die.toNat ≠ d) → SMap.get? t.routes d = SMap.get? s.routes d) ∧
    let me := s.target.n
    let c := ctxOf s me
    (∀ st, ringNext s me = .bad st → ∃ t x, exec .ringHalt s = .next t ∧ t = { s with contexts := t.contexts } ∧
      (ctxOf t me).halted = true ∧ (ctxOf t me).doneQ = c.doneQ ++ [c.nextCmd] ∧
      SMap.get? (ctxOf t me).cmds c.nextCmd = some x ∧ x.done = true ∧ x.status.toNat = st ∧ x.seq = packetQ s me 1) ∧
    ((∀ kc ∈ s.contexts, kc.2.switching = none ∧ kc.2.restoring = none) →
      (∀ (n : Nat) (rest : List Nat) (x : Cmd), c.doneQ = n :: rest → SMap.get? c.cmds n = some x →
        (∀ nc ∈ c.cmds, nc.2.fence = false) → completionRoom s me = true →
        let slot := cbase s me + 32 * (ctail s me % 2 ^ lcsize s me)
        (slot + 32 ≤ pageOf s me + 24 ∨ pageOf s me + 28 ≤ slot) →
        ∃ t, exec .commandComplete s = .next t ∧ memBytes t.mem slot 32 = completionBytes x ∧
          ctail t me = (ctail s me + 1) % 2 ^ 32 ∧ (ctxOf t me).doneQ = rest ∧ SMap.get? (ctxOf t me).cmds n = none) ∧
      ∀ (n : Nat) (x : Cmd), SMap.get? c.cmds n = some x → x.fence = true → completionRoom s me = false →
        (∀ nc ∈ c.cmds, nc.1 < n → nc.2.done = true) →
        ∃ t y, exec .commandComplete s = .next t ∧ SMap.get? (ctxOf t me).cmds n = some y ∧ y.done = true)

/-! ### Device steps -/

/-- Schedulers, power gates, Finders and incumbent copies (R165, R313, R317 to R319, R343, R345): LLS decays by 1 once in 256
cycles; a wave that has not issued for 2,048 cycles is starved; a YIELD's window ends; a core idle for 65,536 cycles goes off in
steps and loses its L1, and wakes in 512; a Finder probes another core of its partition; the sweep prunes, one entry in a cycle;
an incumbent reaches a copy.
Cycles are those of log 9, and when in R343's bounds a copy is refreshed is the agenda's (log 47). -/
def Obligations.SchedulersGatesAndSweeps : Prop :=
  ∀ s : State,
    let n := s.target.n
    let p := partOf s n
    let c := coreOf s n
    let gate (x : Core) : State := { s with cores := SMap.put s.cores n x }
    (s.clock % 256 ≠ 0 ∨ s.clock ≤ s.decayed → exec .llsDecay s = .next s) ∧
    (s.clock % 256 = 0 → s.decayed < s.clock → s.w.placed = true →
      ∃ t, exec .llsDecay s = .next t ∧ t = { s with
          w := { s.w with sys := { s.w.sys with lls := t.w.sys.lls } }, waves := t.waves, decayed := s.clock } ∧
        t.w.sys.lls.toNat = s.w.sys.lls.toNat - 1 ∧
        ∀ id w, SMap.get? s.waves id = some w → w.placed = true → ∃ x, SMap.get? t.waves id = some x ∧
          x = { w with sys := { w.sys with lls := x.sys.lls } } ∧ x.sys.lls.toNat = w.sys.lls.toNat - 1) ∧
    (n = s.w.id → s.w.placed = true → s.w.lastIssue + 2048 ≤ s.clock →
      exec .starvation s = .next { s with w := { s.w with starved := true } }) ∧
    (n = s.w.id → s.w.yieldEnd ≤ s.clock → exec .yieldWindowEnd s = .next { s with w := { s.w with yieldEnd := 0 } }) ∧
    (n < 256 → gateIdle s n = true →
      (c.gate = .on → c.idleSince + 65536 ≤ s.clock → SMap.wf c.l1 = true →
        ∃ t, exec .coreGate s = .next t ∧ (coreOf t n).gate = .stage1 ∧
          ∀ k l, SMap.get? (coreOf t n).l1 k = some l → l.dirty = 0) ∧
      (c.gate = .on → s.clock < c.idleSince + 65536 → exec .coreGate s = .next s) ∧
      (c.gate = .stage1 → exec .coreGate s = .next (gate { c with gate := .entry, powerAt := s.clock })) ∧
      (c.gate = .entry → s.clock ≤ c.powerAt → exec .coreGate s = .next s) ∧
      (c.gate = .entry → c.powerAt < s.clock →
        exec .coreGate s = .next (gate { c with gate := .off, l1 := [], victims := [] }))) ∧
    ((bestOffer s n).isSome = true ∨ (∃ kc ∈ s.cores, kc.2.probe = some n) →
      (c.gate = .off → exec .coreWake s =
        .next (gate { c with gate := .waking, powerAt := s.clock + 512, idleSince := s.clock })) ∧
      (c.gate = .on ∨ c.gate = .stage1 ∨ c.gate = .entry → exec .coreWake s = .next (gate { c with gate := .on, idleSince := s.clock }))) ∧
    (c.gate = .waking → c.powerAt ≤ s.clock →
      exec .corePowerUp s = .next (gate { c with gate := .on, idleSince := s.clock })) ∧
    (∀ part, partAt s n = some part → finderIdle s part n = true → c.probe = none → c.lastProbe + 64 ≤ s.clock →
      ∃ t v, exec .finderProbe s = .next t ∧ (coreOf t n).probe = some v ∧ v ∈ coresOf (partOf s part) ∧
        ((coresOf (partOf s part)).Nodup → v ≠ n) ∧ (coreOf t n).lastProbe = s.clock ∧
        let x := c.finder ^^^ c.finder <<< 7
        let y := x ^^^ x >>> 9
        (coreOf t n).finder = y ^^^ y <<< 8) ∧
    (p.sweepLeft = 0 ∨ s.clock < p.swept → exec .sweepVisit s = .next s) ∧
    (∀ t, p.sweepLeft ≠ 0 → p.swept ≤ s.clock → SMap.get? p.tasks p.sweepPos = some t → t.st ∈ [.waiting, .ready, .dealt] →
      t.jobs = 0 → ∃ u, exec .sweepVisit s = .next u ∧ (partOf u n).sweepPos = (p.sweepPos + 1) % 65536 ∧
        (partOf u n).sweepLeft = p.sweepLeft - 1 ∧ (partOf u n).swept = s.clock + 1 ∧
        (t.prunable (incOrreryOf p (TaskRec.inc t.r)) = true →
          (partOf u n).killq = p.killq + 1 ∧ SMap.get? (partOf u n).tasks p.sweepPos = none) ∧
        (t.prunable (incOrreryOf p (TaskRec.inc t.r)) = false →
          (partOf u n).killq = p.killq ∧ (partOf u n).tasks = p.tasks)) ∧
    (s.target.m < 8 →
      (s.target.k = 0 → (SMap.get? s.parts n).isSome = true → ∃ t, exec .incumbentPropagate s = .next t ∧ PartOnly s t ∧
        incOrreryOf (partOf t n) s.target.m = incOf p s.target.m) ∧
      (0 < s.target.k → s.target.k - 1 ∈ coresOf p → ∃ t, exec .incumbentPropagate s = .next t ∧ PartOnly s t ∧
        incCoreOf (partOf t n) (s.target.k - 1) s.target.m = incOf p s.target.m))

/-- Placement and the Orrery (R28, R29, R47, R205, R281, R304, R310 to R314): a workgroup is placed whole, after its allocation, with
its kernel as the descriptor then gives it, or its launch is rejected; a block that waited reserves; a core takes its best
offer; an entry without inputs and scratchpad is admitted; one is dealt, stolen, split and dispatched; a node's wave starts with
the records popped, its launch's own descriptor having been read; a graph that has drained completes, and a node's time comes.
The core a node's wave takes is the model's choice (log 61). -/
def Obligations.PlacementAndOrrery : Prop :=
  ∀ s : State,
    let n := s.target.n
    let p := partOf s n
    (∀ x0 : Launch, SMap.get? s.launches n = some x0 → (headLaunch s x0.part x0.task.isSome).map (·.1) = some n →
      (∀ c, x0.read s = .error c → x0.task = none →
        ∃ t, exec .workgroupPlacement s = .next t ∧ SMap.get? t.launches n = none ∧
          ∀ m cc, x0.cmd = some m → SMap.get? (ctxOf s x0.ctx).cmds m = some cc → cc.done = false →
            SMap.get? (ctxOf t x0.ctx).cmds m = some { cc with done := true, status := 6, value := 0 }) ∧
      ∀ x, x0.read s = .ok x →
      (x.needAlloc = true → ∀ v id, allocScratch s x.part x.ctx x.k.scratch x.argb = some (v, id) →
        ∃ t, exec .workgroupPlacement s = .next t ∧ t.mem = v.mem ∧ t.w = v.w ∧
          SMap.get? t.launches n = some { x with needAlloc := false, alloc := some id }) ∧
      (∀ cores v, x.needAlloc = false → launchCores s n x = some cores →
        (∀ c ∈ cores, (bestOffer s c).map (fun o => o.2.what) = some (.group n) ∧ powered s c = true) →
        (coreLists (wakeAll s cores).1 (partOf s x.part) x.k x.coop).findSome? (fun cs =>
          placeAll cs x.k (wakeAll s cores).1 (x.group.2.map (gridSpec (launchAcq s x) n x))) = some v →
        ∃ t, exec .workgroupPlacement s = .next t ∧ t.waves = v.waves ∧ t.nextWave = s.nextWave + x.group.2.length ∧
          SMap.get? t.launches n = some { x with next := x.next + x.group.2.length, live := x.live + x.group.2.length,
                                                 since := v.clock, reserved := false })) ∧
    (∀ x : Launch, SMap.get? s.launches n = some x → x.coop = true → x.waits = true → x.since + 65536 ≤ s.clock →
      exec .coopReserve s = .next { s with launches := SMap.put s.launches n { x with reserved := true } }) ∧
    (∀ (part e : Nat) (o : Offer) (t : Task) (k : KDesc) (tiles : List Nat), ∀ i ∈ [Instr.wavePlace, Instr.dispatch],
      bestOffer s n = some (part, o) → o.what = .task e → powered s n = true →
      SMap.get? (partOf s part).tasks e = some t → t.prunable (incOrreryOf (partOf s part) (TaskRec.inc t.r)) = false →
      readKernel (wakeCore s n) t.ctx part (TaskRec.entry t.r) = .ok k → coreFits (wakeCore s n) n k = some tiles →
      ∃ u, exec i s = .next u ∧ StartsTask s u part e t k) ∧
    (∀ (e : Nat) (t : Task), admitting s n = some (e, t) → SMap.get? p.tasks e = some t → TaskRec.nin t.r = 0 →
      TaskRec.scratch t.r = 0 → (∀ c, jobsOn s c ≤ 256) →
      ∃ u x, exec .admission s = .next u ∧ SMap.get? (partOf u n).tasks e = some x ∧ x.count = t.count ∧
        x.st = (if t.count = 0 then .ready else .waiting)) ∧
    (∀ (e : Nat) (t : Task) (l : List (Nat × Task)), readyOrder s n = (e, t) :: l → SMap.get? p.tasks e = some t →
      (∀ c, TaskRec.kind t.r ≠ 3 → dealCore p t = some c →
        ∃ u x, exec .deal s = .next u ∧ dequeOf (partOf u n) c = dequeOf p c ++ [e] ∧
          SMap.get? (partOf u n).tasks e = some x ∧ x.st = .dealt ∧ x.core = some c) ∧
      (TaskRec.kind t.r = 3 →
        ∃ u x y, exec .deal s = .next u ∧ SMap.get? u.launches s.nextLaunch = some y ∧ y.desc = TaskRec.entry t.r ∧ y.n = TaskRec.lo t.r ∧
          y.w = TaskRec.hi t.r ∧ y.task = some e ∧ SMap.get? (partOf u n).tasks e = some x ∧ x.st = .running)) ∧
    (∀ part v : Nat, (coreOf s n).probe = some v → partAt s n = some part → powered s v = true → v ≠ n →
      ownerTakes s part v = false →
      let d := dequeOf (partOf s part) v
      let found := foundEntries s part v
      let m := (found.length + 1) / 2
      (∀ (e f : Nat) (t : Task), found = [] → splitTask s part v = some (e, t) → freeEntry (partOf s part) = some f →
        let mid := t.cur + (t.hi - t.cur + 1) / 2
        ∃ u x y, exec .probeServe s = .next u ∧ dequeOf (partOf u part) n = dequeOf (partOf s part) n ++ [f] ∧
          SMap.get? (partOf u part).tasks e = some x ∧ x.cur = t.cur ∧ x.hi = mid ∧
          SMap.get? (partOf u part).tasks f = some y ∧ y.st = .dealt ∧ y.cur = mid ∧ y.hi = t.hi) ∧
      (found ≠ [] → (∀ e ∈ d.take m, ∃ t, SMap.get? (partOf s part).tasks e = some t ∧
        t.prunable (incOrreryOf (partOf s part) (TaskRec.inc t.r)) = false) →
        ∃ u, exec .probeServe s = .next u ∧ (coreOf u n).probe = none ∧ dequeOf (partOf u part) v = d.drop m ∧
        dequeOf (partOf u part) n = dequeOf (partOf s part) n ++ d.take m)) ∧
    (∀ x : Launch, SMap.get? s.launches n = some x → x.nodes ≠ [] → x.drained = true →
      (∀ nd ∈ x.nodes, nodeCount s x nd = 0) → ∃ u, exec .nodeWaveLaunch s = .next u ∧ SMap.get? u.launches n = none) ∧
    (∀ (x0 x : Launch) (nd : Node) (part c j : Nat) (o : Offer) (k : KDesc) (tiles : List Nat),
      SMap.get? s.launches n = some x0 → x0.nodes[j]? = some nd →
      (x0.drained = true → ∃ y ∈ x0.nodes, nodeCount s x0 y ≠ 0) →
      (coresOf (partOf s x0.part)).find? (fun c =>
        match bestOffer s c with
        | some po => (match po.2.what with | .node l _ => decide (l = n) | _ => false)
        | none => false) = some c →
      bestOffer s c = some (part, o) → o.what = .node n j → powered s c = true → x0.read (wakeCore s c) = .ok x →
      x.needAlloc = false →
      let v := { wakeCore s c with launches := SMap.put s.launches n x }
      let recs := (popRecords v x.ctx x.part c nd.qcw 32).recs
      readKernel v x.ctx x.part nd.desc = .ok k → coreFits v c k = some tiles → recs ≠ [] →
      ∃ u w, exec .nodeWaveLaunch s = .next u ∧ SMap.get? u.waves s.nextWave = some w ∧ w.kind = .node ∧ w.launch = n ∧
        w.rows = k.v ∧ w.regs.spc = k.entry ∧ w.regs.em = popMask recs.length ∧ getS w 0 = dw j ∧ getS w 1 = dw recs.length ∧
        getS w 2 = x.argb) ∧
    (∀ (x : Launch) (nd : Node) (t0 : Nat), SMap.get? s.launches n = some x → x.nodes[s.target.k]? = some nd →
      nd.last.or nd.pend = some t0 → t0 + 2048 ≤ s.clock → 0 < nodeCount s x nd →
      ∃ y, exec .nodeWaveTimeout s = .next { s with launches := SMap.put s.launches n y } ∧
        y = { x with nodes := y.nodes } ∧ y.nodes[s.target.k]? = some { nd with due := true })

/-- The matrix engine's steps (R87, R88, R182, R186, R192): an accepted operation starts; a step adds the exact sum of its products
to each element, of FP32 or on an FP64 binding FP64, and rounds once, flushing what would be subnormal when the operation
flushes, and otherwise leaving it to the assist, which writes each such element as its step found it; an operation ends with
its effect (R195 to R198): MZERO and MWR change the accumulator, OSTO and OLOD a record, MEPI stores the scaled elements, clears
and folds; releases that may take effect do. -/
def Obligations.MatrixEngineSteps : Prop :=
  ∀ s : State,
    let n := s.target.n
    let e := engineOf s n
    let put (x : Engine) : State := { s with engines := SMap.put s.engines n x }
    (∀ (o : MOp) (rest : List MOp) (steps : List Nat), e.run = none → e.susp = [] → e.queue = o :: rest →
      suspended s o = false → stepsOf e o.kind = some steps →
      exec .matrixOpStart s = .next (put { e with
        queue := rest, run := some { op := o, steps := steps, done := 0, assist := [], parked := none, failed := [] } })) ∧
    (∀ r : MRun, e.run = some r → OpTiles r.op →
      let f := accFmt r.op.f64
      let old (i j : Nat) : Nat := accGet e r.op.tiles i j
      let new (t : State) (i j : Nat) : Nat := accGet (engineOf t n) r.op.tiles i j
      (∀ (x : MulOp) (q : Nat) (qs : List Nat), r.op.kind.mul? = some x → r.steps = q :: qs → suspended s r.op = false →
        x.m ≤ 128 → x.n ≤ 128 → (x.b.isSome = true ∨ r.op.race = false) → r.assist = [] →
        let p := match x.bitmap with | none => q | some _ => r.done
        let out (i j : Nat) : StepOut := stepElem f (old i j)
          (stepSum (rowVals e x (r.done + r.steps.length) p i) (colVals s n x q j))
        let tiny (i j : Nat) : Prop := ∃ g m k, out i j = .tiny g m k
        ∃ t u, exec .matrixStep s = .next t ∧ (engineOf t n).run = some u ∧
          (∀ i < x.m, ∀ j < x.n, new t i j = match out i j with
            | .keep => old i j
            | .set c => c % 2 ^ f.width
            | .tiny g _ _ => if x.mftz then f.signed g 0 % 2 ^ f.width else old i j) ∧
          ((x.mftz = true ∨ ∀ i < x.m, ∀ j < x.n, ¬ tiny i j) → u.done = r.done + 1 ∧ u.steps = qs) ∧
          ((x.mftz = false ∧ ∃ i < x.m, ∃ j < x.n, tiny i j) → u.done = r.done ∧ u.steps = r.steps ∧ u.assist ≠ [] ∧
            ∀ i < x.m, ∀ j < x.n, ∀ g m k, out i j = .tiny g m k →
              SMap.get? u.assist (i * 128 + j) = some (dw (roundVal f .rne (.fin g m k)).code))) ∧
      (r.assist ≠ [] → SMap.wf r.assist = true → (∀ kv ∈ r.assist, kv.1 < 128 * 128) →
        ∃ t u, exec .subnormalAssist s = .next t ∧ (engineOf t n).run = some u ∧ u.done = r.done + 1 ∧ u.assist = [] ∧
          ∀ i j, i < 128 → j < 128 → new t i j = match SMap.get? r.assist (i * 128 + j) with
            | some v => v.toNat % 2 ^ f.width
            | none => old i j)) ∧
    (∀ r : MRun, e.run = some r → r.steps = [] → r.parked = none → suspended s r.op = false → OpTiles r.op →
      let f := accFmt r.op.f64
      let old (i j : Nat) : Nat := accGet e r.op.tiles i j
      let new (t : State) (i j : Nat) : Nat := accGet (engineOf t n) r.op.tiles i j
      let ends (more : State → Prop) : Prop := ∃ t, exec .matrixOpFinish s = .next t ∧ (engineOf t n).run = none ∧
        (partOf t r.op.part).pubs = (partOf s r.op.part).pubs + 1 ∧ more t
      (r.op.kind = .mzero → ends (fun t => t.mem = s.mem ∧ ∀ i j, i < 128 → j < 128 → new t i j = 0)) ∧
      (∀ x, r.op.kind.mul? = some x → r.op.m ≠ noAcc → ends (fun t => (engineOf t n).acc = e.acc ∧ t.mem = s.mem ∧
        (engineOf t n).last.head? = some { wave := r.op.wave, m := r.op.m, steps := r.done })) ∧
      (∀ (rblk col : Nat) (vals : SMap DWord), r.op.kind = .mwr rblk col vals → SMap.wf vals = true → rblk < 4 →
        (∀ kv ∈ vals, kv.1 < 256 ∧ col + kv.1 % 8 < 128) →
        ends (fun t => t.mem = s.mem ∧ ∀ i j, i < 128 → j < 128 → new t i j =
          match (if 32 * rblk ≤ i ∧ i < 32 * rblk + 32 ∧ col ≤ j ∧ j < col + 8 then
            SMap.get? vals (8 * (i - 32 * rblk) + (j - col)) else none) with
          | some v => v.toNat % 2 ^ f.width
          | none => old i j)) ∧
      (∀ (o : Nat) (x : Rec), SMap.get? e.recs o = some x → x.relp = none →
        let holds (t : State) (g : Nat → Option Byte) : Prop := t.w.regs = s.w.regs ∧ (engineOf t n).acc = e.acc ∧ t.mem = s.mem ∧
          ∃ y, SMap.get? (engineOf t n).recs o = some y ∧ ∀ b, SMap.getD y.bytes b 0 = (g b).getD (SMap.getD x.bytes b 0)
        (∀ vals : SMap Byte, r.op.kind = .osto o vals → SMap.wf vals = true →
          ends (fun t => holds t (fun b => SMap.get? vals b))) ∧
        (∀ (k : Nat) (addrs : SMap DWord) (offs : SMap Nat) (key : Nat → Nat), r.op.kind = .olod o k addrs offs → 0 < k →
          r.op.race = false → s.bad = [] → SMap.wf addrs = true →
          (∀ la ∈ addrs, la.2.toNat % 4 = 0 ∧ PlainAt s r.op.ctx r.op.part false false la.2 (4 * k) (key la.1)) →
          (∀ la ∈ addrs, ∀ lb ∈ addrs, la.1 ≠ lb.1 → Apart (SMap.getD offs la.1 0) (4 * k) (SMap.getD offs lb.1 0) (4 * k)) →
          ends (fun t => holds t (fun b =>
            (addrs.find? (fun la => decide (SMap.getD offs la.1 0 ≤ b) && decide (b < SMap.getD offs la.1 0 + 4 * k))).map
              (fun la => memByte s.mem (key la.1 + (b - SMap.getD offs la.1 0))))))) ∧
      (∀ (shape : DWord) (scale : Word) (rblk : Nat) (addrs : SMap DWord) (o : OFmt) (sat relu clr : Bool) (fold : Option DWord)
          (key : Nat → Nat) (kf : Nat),
        let M := shape.toNat % 256
        let N := shape.toNat / 256 % 256
        let g := ofFmt o
        let z := g.width / 8
        let row (la : Nat × DWord) : Prop := la ∈ addrs ∧ 32 * rblk + la.1 < M
        let code (l j : Nat) : Nat := mepiCode g sat relu (f.dec (old (32 * rblk + l) j)) (FFmt.dec .f32 scale.toNat)
        r.op.kind = .mepi shape scale rblk addrs o sat relu clr fold → M ≤ 128 → N ≤ 128 → SMap.wf addrs = true →
        (∀ la ∈ addrs, la.1 < 32) → r.op.race = false → s.bad = [] →
        (∀ la, row la → la.2.toNat % z = 0 ∧ PlainAt s r.op.ctx r.op.part false true la.2 (N * z) (key la.1) ∧
          (fold ≠ none → Apart (key la.1) (N * z) kf 4)) →
        (∀ la lb, row la → row lb → la.1 ≠ lb.1 → Apart (key la.1) (N * z) (key lb.1) (N * z)) →
        (∀ va, fold = some va → va.toNat % 4 = 0 ∧ PlainAt s r.op.ctx r.op.part false true va 4 kf) →
        ends (fun t =>
          (∀ la j, row la → j < N → memNat t.mem (key la.1 + j * z) z = code la.1 j % 2 ^ (8 * z)) ∧
          (∀ m, (∀ la, row la → m < key la.1 ∨ key la.1 + N * z ≤ m) → (fold ≠ none → m < kf ∨ kf + 4 ≤ m) →
            memByte t.mem m = memByte s.mem m) ∧
          (∀ (y : Nat) (l : List Nat), fold ≠ none →
            (addrs.filter (fun la => decide (32 * rblk + la.1 < M))).flatMap (fun la =>
              (List.range N).map (fun j => magF32 (g.dec (code la.1 j)))) = y :: l →
            memNat t.mem kf 4 = atomicValue 11 4 (memNat s.mem kf 4) (l.foldl (fun a b => fpMinMax .f32 true a b) y) % 2 ^ 32) ∧
          ∀ i j, i < 128 → j < 128 → new t i j =
            if clr = true ∧ 32 * rblk ≤ i ∧ i < 32 * rblk + 32 ∧ i < M ∧ j < N then 0 else old i j))) ∧
    (SMap.wf e.recs = true → ∃ t, exec .recordRelease s = .next t ∧ t = { s with engines := t.engines } ∧
      ∀ o r, SMap.get? e.recs o = some r →
        SMap.get? (engineOf t n).recs o = if releasable s e o r then none else some r)

/-- Copies, transforms, queues and streams (R270, R271, R278, R284 to R287, R292, R295 to R297): stores to the apertures enter their
channel, or their ring unless the producer index does not lie ahead; a job begins with its template, or as an invalid one, and
moves its elements, between any two formats, decoded from a dictionary stream (R289) or packed into a matrix operand and its
bitmap (R290); a card is taken for the kick it came with, does its CONVERT, TRANSPOSE, FILL or NOP (R296), and completes with its
record; both write their control block; a remote push joins its queue; a waiting queue instruction is executed; a stream whose turn it is moves an element.
That a push serves one element at a move, and that a ring's first kick counts from JHEAD, are the model's (logs 5, 92). -/
def Obligations.CopiesQueuesAndStreams : Prop :=
  ∀ s : State,
    let n := s.target.n
    let e := engineOf s n
    (∀ (w : Nat) (va v tm : BitVec 64) (x : Wave), waveOf s w = some x → vaSpace va = 0xF → apertureOk s x.part (vaOff va) = true →
      (vaOff va < 0x40000 → apRoom s x.part (vaOff va) = true →
        let c := (apChannel s x.part (vaOff va)).1
        let ch := (apChannel s x.part (vaOff va)).2
        ∃ t j, exec (.copyStart w va v tm) s = .next t ∧ channelOf t c ch = channelOf s c ch ++ [j] ∧ j.value = v ∧
          j.wave = some w ∧ j.tmpl = (tm &&& 0xFFFFFFFFFFFFFF80) ∧ j.begun = false) ∧
      (∀ q : List DWord, 0x40000 ≤ vaOff va → kickOk (vaOff va) v = true → ringDesc s x.ctx (bits v 5 0) = some q →
        let last := match (SMap.getD (ctxOf s x.ctx).kicks (bits v 5 0) []).getLast? with
          | some k => k.prod.toNat
          | none => fieldOf q 159 128
        (diff32 (bits v 47 16) last < 2 ^ 31 → diff32 (bits v 47 16) (fieldOf q 159 128) ≤ 2 ^ fieldOf q 236 232 →
          ∃ t l k, exec (.kick w va v) s = .next t ∧ t = { s with contexts := t.contexts } ∧
            SMap.get? (ctxOf t x.ctx).kicks (bits v 5 0) = some l ∧ l.getLast? = some k ∧ k.prod.toNat = bits v 47 16 ∧
            k.wave = w) ∧
        (2 ^ 31 ≤ diff32 (bits v 47 16) last ∨ 2 ^ fieldOf q 236 232 < diff32 (bits v 47 16) (fieldOf q 159 128) →
          exec (.kick w va v) s = .next s))) ∧
    (∀ (j : Job) (l : List Job), channelOf s n s.target.k = j :: l → j.begun = false →
      (4096 ≤ bits j.value 15 0 ∨ (∀ x, locate s j.ctx j.part true false (j.tmplAt + dw 0) ≠ .ok x) →
        ∃ u j', exec .copyJobBegin s = .next u ∧ channelOf u n s.target.k = j' :: l ∧ j'.begun = true ∧ j'.invalid = true) ∧
      ∀ kt, bits j.value 15 0 < 4096 → PlainAt s j.ctx j.part true false j.tmplAt 128 kt → j.race = false →
        (∀ b ∈ s.bad, ¬ (kt ≤ b ∧ b < kt + 128)) →
        let t := quadsOfBytes 16 (memBytes s.mem kt 128)
        ∃ u j', exec .copyJobBegin s = .next u ∧ channelOf u n s.target.k = j' :: l ∧ j'.begun = true ∧ j'.fields = t ∧
          j'.invalid = !(Tmpl.ok t && sliceNamed s j.part t) ∧ j'.fetched = true ∧ u.mem = s.mem) ∧
    (∀ (j : Job) (l : List Job) (src : Nat → Nat → Nat) (dst : Nat → Nat) (kb : Nat), channelOf s n s.target.k = j :: l →
      j.begun = true → j.parked = none → j.invalid = false → j.race = false → j.task = none → s.bad = [] →
      let t := j.fields
      let sf := Tmpl.sfmt t
      let df := Tmpl.dfmt t
      let sel := bits j.value 63 48
      Tmpl.ok t = true → Tmpl.ckind t = 0 → Tmpl.fold t = false → (sf = df ∨ fieldOf t 703 608 = 2 ^ 96 - 1) →
      (sel ≠ 0xFFFF → j.fetched = true ∧ (Tmpl.cbase t + dw (64 * sel)).toNat % 64 = 0 ∧
        PlainAt s j.ctx j.part true true (Tmpl.cbase t + dw (64 * sel)) 64 kb) →
      let completes (bytes : Nat) (more : State → Prop) : Prop :=
        ∃ u, exec .copyJobComplete s = .next u ∧ channelOf u n s.target.k = l ∧
          (partOf u j.part).pubs = (partOf s j.part).pubs + 1 ∧
          (sel ≠ 0xFFFF → memNat u.mem kb 8 = 1 ∧ memNat u.mem (kb + 8) 8 = bytes % 2 ^ 64) ∧ more u
      let kept (u : State) (m : Nat) : Prop := (sel ≠ 0xFFFF → m < kb ∨ kb + 64 ≤ m) → memByte u.mem m = memByte s.mem m
      let ms := jobMoves t j.param
      let len := copySpan df (copyWidth sf df)
      (Tmpl.dkind t = 0 → Tmpl.codec t ≠ 2 → TargetsAt s j.ctx j.part len ms dst → (sel ≠ 0xFFFF → TargetsOff len ms dst kb 64) →
        let writes (u : State) : Prop := ∀ m, (∀ i, i < ms.length → m < dst i ∨ dst i + len ≤ m) → kept u m
        (Tmpl.codec t = 0 → SourcesAt s j.ctx j.part (copyBytes sf) ms src →
          (∀ (i : Nat) (mv : Move), ms[i]? = some mv → ∀ k < mv.1.length, TargetsOff len ms dst (src i k) (copyBytes sf)) →
          completes (len * ms.length) (fun u => Moved s u (copyBytes sf) len (jobConv t) ms src dst ∧ writes u)) ∧
        (∀ (is : List DictItem) (last : List Byte) (ks : Nat), Tmpl.codec t = 1 → dictGood is 0 = true → last.length < 2 ^ 32 →
          let stream := dictBytes is last
          let out := dictOut is [] ++ last
          let per := if sf = 7 then 1 else copyWidth sf df
          let lim := fieldOf t 799 768
          0 < Tmpl.nx t * Tmpl.ny t * Tmpl.nz t → out.length = copySpan sf (Tmpl.nx t * Tmpl.ny t * Tmpl.nz t) →
          stream.length ≤ (if lim = 0 then 2 ^ 32 else lim) →
          PlainAt s j.ctx j.part true false (dwI ((Tmpl.sbase t).toNat + j.param * signed32 (fieldOf t 575 544))) stream.length ks →
          memBytes s.mem ks stream.length = stream →
          completes (len * ms.length) (fun u => writes u ∧ ∀ i, i < ms.length → memBytes u.mem (dst i) len =
            (jobConv t ((List.range per).map (fun k =>
              (out.drop (copyBytes sf * (per * i + k))).take (copyBytes sf)))).flatten))) ∧
      (∀ (w : Wave) (x y : Rec) (key : Nat → Nat → Nat → Nat), Tmpl.codec t = 2 → 0 < Tmpl.nx t * Tmpl.ny t →
        j.wave.bind (waveOf s) = some w → Tmpl.drec t ≠ Tmpl.mrec t →
        SMap.get? e.recs (Tmpl.drec t) = some x → SMap.get? e.recs (Tmpl.mrec t) = some y → x.heldBy s w = true →
        y.heldBy s w = true →
        let cw := copyWidth sf df
        let src (i r : Nat) : List DWord := Tmpl.srcAt t j.param (cw * i) r 0
        (∀ r i, r < Tmpl.ny t → i < Tmpl.nx t / cw → ∀ (k : Nat) (va : DWord), (src i r)[k]? = some va →
          PlainAt s j.ctx j.part true false va (copyBytes sf) (key r i k)) →
        let row (r : Nat) : List (List Byte) := (List.range (Tmpl.nx t / cw)).flatMap (fun i =>
          jobConv t ((List.range (src i r).length).map (fun k => memBytes s.mem (key r i k) (copyBytes sf))))
        let per := if df = 7 then 1 else Tmpl.stepWidth df
        let step (r k : Nat) : List (List Byte) := ((row r).drop (per * k)).take per
        let steps := Tmpl.nx t / Tmpl.stepWidth df
        let survives (k : Nat) : Bool := decide (k < steps) && (List.range (Tmpl.ny t)).any (fun r => (step r k).any (elemNonzero df))
        let data := (List.range (Tmpl.ny t)).flatMap (fun r => ((List.range steps).filter survives).flatMap (fun k => (step r k).flatten))
        let groups := (List.range 64).filter (fun g => (List.range 64).any (fun b => survives (64 * g + b)))
        data.length ≤ 4096 * x.gran → 8 * (groups.length + 1) ≤ 4096 * y.gran →
        completes (data.length + 8 * (groups.length + 1)) (fun u => (∀ m, kept u m) ∧
          ∃ x' y', SMap.get? (engineOf u n).recs (Tmpl.drec t) = some x' ∧ SMap.get? (engineOf u n).recs (Tmpl.mrec t) = some y' ∧
            (∀ b, SMap.getD x'.bytes b 0 = (data[b]?).getD (SMap.getD x.bytes b 0)) ∧
            (∀ g < 64, (SMap.getD y'.bytes (g / 8) 0).getLsbD (g % 8) = groups.contains g) ∧
            (∀ i g : Nat, groups[i]? = some g → ∀ b < 64,
              (SMap.getD y'.bytes (8 * (i + 1) + b / 8) 0).getLsbD (b % 8) = survives (64 * g + b)) ∧
            ∀ b, 8 * (groups.length + 1) ≤ b → SMap.getD y'.bytes b 0 = SMap.getD y.bytes b 0))) ∧
    (∀ (k kc : Nat) (q : List DWord) (kick : KRing), SMap.get? s.cards n = none → nextRing s n = some k →
      ringDesc s (k / 64) (k % 64) = some q →
      (SMap.getD (ctxOf s (k / 64)).kicks (k % 64) []).find? (fun x => x.ahead (fieldOf q 159 128)) = some kick →
      PlainAt s (k / 64) kick.part true false (q.getD 0 0 + dw (128 * (fieldOf q 159 128 % 2 ^ fieldOf q 236 232))) 128 kc →
      (∀ b ∈ s.bad, ¬ (kc ≤ b ∧ b < kc + 128)) → kick.race = false →
      let c := quadsOfBytes 16 (memBytes s.mem kc 128)
      ∃ t x, exec .cardTake s = .next t ∧ SMap.get? t.cards n = some x ∧ x.fields = c ∧ x.n.toNat = fieldOf q 159 128 ∧
        x.invalid = !cardOk c ∧ x.ring = k % 64 ∧ x.kick = kick ∧ SMap.get? t.cardTurn n = some k) ∧
    (∀ (c : Card) (d : List DWord) (src : Nat → Nat → Nat) (dst : Nat → Nat) (k m kd kb : Nat), SMap.get? s.cards n = some c →
      c.parked = none → c.invalid = false → cardOk c.fields = true → c.kick.race = false → s.bad = [] →
      ringDesc s c.ctx c.ring = some d →
      let q := c.fields
      let ms := cardMoves q
      let len := cardWrite q
      let desc := (ctxOf s c.ctx).rt + dw (64 * c.ring)
      let va := d.getD 1 0 + dw (32 * (fieldOf d 191 160 % 2 ^ fieldOf d 244 240))
      let jcb := q.getD 2 0
      (fieldOf q 391 388 = fieldOf q 395 392 ∨ fieldOf q 511 416 = 2 ^ 96 - 1 ∨ fieldOf q 387 384 = 0 ∨ fieldOf q 387 384 = 3) →
      va.toNat % 32 = 0 → PlainAt s c.ctx c.kick.part true true va 32 k → PlainAt s c.ctx c.kick.part true true (desc + 20) 4 m →
      PlainAt s c.ctx (ctxOf s c.ctx).part true false desc 64 kd → Apart k 32 m 4 → Apart k 32 kd 64 →
      SourcesAt s c.ctx c.kick.part (cardRead q) ms src → TargetsAt s c.ctx c.kick.part len ms dst →
      (∀ (i : Nat) (mv : Move), ms[i]? = some mv → ∀ j < mv.1.length, TargetsOff len ms dst (src i j) (cardRead q)) →
      TargetsOff len ms dst k 32 → TargetsOff len ms dst m 4 → TargetsOff len ms dst kd 64 →
      (jcb ≠ 0 → jcb.toNat % 64 = 0 ∧ PlainAt s c.ctx c.kick.part true true jcb 64 kb ∧ TargetsOff len ms dst kb 64 ∧
        Apart kb 64 k 32 ∧ Apart kb 64 m 4 ∧ Apart kb 64 kd 64) →
      ∃ t, exec .cardComplete s = .next t ∧ SMap.get? t.cards n = none ∧ Moved s t (cardRead q) len (cardConv q) ms src dst ∧
        memNat t.mem k 4 = c.n.toNat ∧ memNat t.mem (k + 4) 4 = 1 ∧ memNat t.mem (k + 8) 8 = len * ms.length % 2 ^ 64 ∧
        memNat t.mem (k + 16) 8 = jcb.toNat ∧ memNat t.mem m 4 = (fieldOf d 191 160 + 1) % 2 ^ 32 ∧
        (jcb ≠ 0 → memNat t.mem kb 8 = 1 ∧ memNat t.mem (kb + 8) 8 = len * ms.length % 2 ^ 64) ∧
        ∀ a, (∀ i, i < ms.length → a < dst i ∨ dst i + len ≤ a) → (a < k ∨ k + 32 ≤ a) → (a < m ∨ m + 4 ≤ a) →
          (jcb ≠ 0 → a < kb ∨ kb + 64 ≤ a) → memByte t.mem a = memByte s.mem a) ∧
    (∀ p : RPush, (coreOf s n).pushes[s.target.k]? = some p →
      (∀ o ∈ (coreOf s n).pushes.take s.target.k, o.home ≠ p.home) → (vaDie p.qcw = 0xFFF ∨ vaDie p.qcw = s.dieid.toNat) →
      let c := qcwOf s p.owner p.part p.qcw
      QueueLaid s p.owner p.part p.qcw → p.gen = c.gen → c.count < c.depth →
      ∃ t, exec .remotePushServe s = .next t ∧ (coreOf t n).pushes = (coreOf s n).pushes.eraseIdx s.target.k ∧
        queueElems t p.owner p.part p.qcw = queueElems s p.owner p.part p.qcw ++ [padTo (elemBytes c.esize) p.data]) ∧
    (n = s.w.id → s.w.status = .waiting →
      (∀ (r : BitVec 8) (q : BitVec 5) (x : Nat), s.w.lane.q = [] → fetchAt s s.w.regs.spc 4 = .ok x →
        decodeScalar (BitVec.ofNat 32 x) = .qpops r q →
        ∃ t, exec .queueWaitServe s = .next t ∧ exec (.qpops r q) s = .next t) ∧
      ∀ (e : LEntry) (rest : List LEntry) (x : LArith), s.w.lane.q = e :: rest → e.i = .vqpop x →
        ∃ t, exec .queueWaitServe s = .next t ∧ exec (.vqpop x) (popLane s e rest) = .next t) ∧
    (∀ (st : Stream) (ki kv : Nat), n = s.w.id → s.w.placed = true → SMap.get? s.w.streams s.target.k = some st → st.run = true →
      st.parked = none → st.iq = none → Stream.scatter st.d3 = false → Stream.batch st.d3 = 0 → 0 < st.remaining →
      st.midway = none → fireTurn s s.w s.target.k = true → st.race = false → s.bad = [] →
      let c := qcwOf s st.dq.owner s.w.part st.dq.qcw
      QueueLaid s st.dq.owner s.w.part st.dq.qcw → st.dq.gen = c.gen → c.count < c.depth →
      let ib := Stream.indexBytes st.d3
      let eb := elemBytes (Stream.esize st.d3)
      let ia := st.d1 + dw (ib * (st.count - st.remaining))
      let va := st.address (Stream.index st.d3 (memBytes s.mem ki ib))
      ia.toNat % ib = 0 → va.toNat % eb = 0 → PlainAt s s.w.ctx s.w.part false false ia ib ki →
      PlainAt s s.w.ctx s.w.part false false va eb kv →
      ∃ t x, exec .streamFiring s = .next t ∧ SMap.get? t.w.streams s.target.k = some x ∧
        x.remaining = st.remaining - 1 ∧ x.done = (st.done || decide (st.remaining = 1)) ∧
        queueElems t st.dq.owner s.w.part st.dq.qcw = queueElems s st.dq.owner s.w.part st.dq.qcw ++
          [padTo (elemBytes c.esize) (memBytes s.mem kv eb)])

/-- The ray pool (R324, R327, R329, R330, R333): a bin of 64 rays, or one whose time has come, is dealt; a ray leaves traversal with
its hit or its frame's miss shader; a bin of 32 shaded rays, or one that waited, forms a wave; the jam rule spills the newest ray,
or gives up the oldest spawn, or lets the oldest formation form; a spilled ray returns; a frame drains when its count is 0 and
its episodes' jobs are done, and not before.
The hit that an ANY ray takes is a free value (log 64), and the order of spilled rays is the model's (log 98). -/
def Obligations.RayPoolSteps : Prop :=
  ∀ s : State,
    let n := s.target.n
    let k := s.target.k
    let p := partOf s n
    (SMap.wf p.rays = true → isTraversal p k = true →
      (64 ≤ (raysIn p k).length → DealsBatch s (exec .traversalBatchDeal s) n k) ∧
      (∀ r l, raysIn p k = r :: l → (r :: l).length < 64 → r.2.since + 512 ≤ s.clock →
        DealsBatch s (exec .traversalBinTimeout s) n k) ∧
      (∀ b t, 64 ≤ (raysIn p k).length → SMap.get? p.bins k = some b → b.since64 = some t → t + 256 ≤ s.clock →
        DealsBatch s (exec .prefetchTimeout s) n k)) ∧
    (∀ (r : Ray) (f : FrameEnt) (u b batch : Nat), SMap.get? p.rays k = some r → r.loc = .traversal u b batch →
      SMap.get? p.frames r.frame = some f →
      let out := traverse s n f (treeletsAt p u) r (Config.freeWord s.free).toNat
      ∃ t x c, exec .traversalDone s = .next t ∧ SMap.get? (partOf t n).rays k = some x ∧ x.words = out.1.words ∧
        x.loc = .bin c ∧ isShading (partOf t n) c = true ∧
        (out.2.hits = [] → (x.word 9).getLsbD 24 = false ∧ x.shader = f.miss)) ∧
    (isShading p k = true →
      let forms (i : Instr) : Prop := ∃ t f, exec i s = .next t ∧ PartOnly s t ∧ (partOf t n).forms = p.forms ++ [f] ∧
        f.bin = k ∧ f.rays = ((shadingRays p k).take 32).map (·.1) ∧ f.since = s.clock ∧ f.slots.length ≤ f.rays.length
      (32 ≤ (shadingRays p k).length → forms .shadingWaveForm) ∧
      ∀ r l, shadingRays p k = r :: l → r.2.since + 2048 ≤ s.clock → forms .shadingBinTimeout) ∧
    (p.jamLeft = 0 → jammed s n = true →
      (∀ (b slot : Nat) (r : Ray) (f : FrameEnt) (l : List (Nat × Ray)), fullestBin p = some b → isTraversal p b = true →
        (raysIn p b).reverse = (slot, r) :: l → SMap.get? p.frames r.frame = some f → spillOpen f = true →
        spillFault s f.ctx n (spillAddr f f.spillNext) = none →
        ∃ t x, exec .jamRule s = .next t ∧ SMap.get? (partOf t n).frames r.frame = some x ∧
          x.spill = f.spill ++ [(f.spillNext, { r with seq := p.raySeq })] ∧ x.spillNext = f.spillNext + 1 ∧ (partOf t n).jamLeft = 63 ∧
          (partOf t n).jamBin = b) ∧
      (∀ (i : Nat) (x : SpawnWait), fullestBin p = none → isTraversal p 0 = false → oldestSpawn p = some i →
        p.spawns[i]? = some x → waitedLong s.clock x.since = true →
        ∃ t, exec .jamRule s = .next t ∧ (partOf t n).spawns[i]? = some { x with discarded := true }) ∧
      (∀ (i : Nat) (y : Formation), fullestBin p = none → isTraversal p 0 = false → oldestForm p = some i →
        p.forms[i]? = some y →
        (∀ j x, oldestSpawn p = some j → p.spawns[j]? = some x → waitedLong s.clock x.since = false) →
        ∃ t, exec .jamRule s = .next t ∧ (partOf t n).forms[i]? = some { y with jam := true })) ∧
    (∀ (fr i slot : Nat) (f : FrameEnt) (r : Ray), 64 ≤ freeSlots p → oldestSpilled p = some (fr, f, i, r) →
      takeSlot p (p.clusters.getD 0 0) = some slot → SMap.get? p.frames fr = some f →
      ∃ t x y c, exec .spillReturn s = .next t ∧ SMap.get? (partOf t n).frames fr = some x ∧ x.spill = f.spill.drop 1 ∧
        SMap.get? (partOf t n).rays slot = some y ∧ y.loc = .bin c ∧ y.words = (refillRay s n f i r).2.words) ∧
    (∀ f : FrameEnt, SMap.get? p.frames k = some f → frameCount s n k ≠ 0 ∨ episodesDone s f = false →
      exec .frameDrain s = .next s) ∧
    ∀ (f : FrameEnt) (m : Nat), SMap.get? p.frames k = some f → frameCount s n k = 0 → episodesDone s f = true →
      PlainAt s f.ctx n false true (f.addr + 88) 24 m →
      ∃ t, exec .frameDrain s = .next t ∧ SMap.get? (partOf t n).frames k = none ∧
        memBytes t.mem m 24 = bytesOf 8 f.rays ++ bytesOf 4 f.dcap ++ bytesOf 4 f.spilled ++ bytesOf 4 f.drop ++ bytesOf 4 1 ∧
        (partOf t n).pubs = p.pubs + 1 ∧
        ∀ c cc, f.cmd = some c → SMap.get? (ctxOf s f.ctx).cmds c = some cc → cc.done = false →
          SMap.get? (ctxOf t f.ctx).cmds c = some { cc with done := true, status := 0, value := 0 }
end

