-- ==== Sys2Proof/Laws/Claims.lean ====
section
/-! SUPPORT. How the notions of `Safety.lean` are met: from checks of finitely many cases. -/

namespace Sys2Proof.Machine

/-- With no queue operand nothing is popped. -/
theorem popped_none (s : State) (x : LArith) (act : Word) (hb : ∀ q, x.b ≠ .queue q) (hc : ∀ q, x.c ≠ .queue q) :
    Popped s x act s Pops.none := by
  refine ⟨fun k => ?_, rfl⟩
  cases hbx : x.b <;> cases hcx : x.c <;> simp_all [popOperands]

/-- With a queue as b alone, what the pops in lane order give. -/
theorem popped_b {s : State} {x : LArith} {act : Word} {q : BitVec 5} {h : Handle} {r : State × Pops × Nat}
    (ha : act ≠ 0) (hb : x.b = .queue q) (hc : ∀ q, x.c ≠ .queue q) (hh : popHandle s.w q.toNat = some h)
    (hs : popSeq s s.w.lane.issue.elpc ((lanesOf act).map (fun i => (i, true, h))) = some (.ok r))
    (hl : (acquireW r.1 3 r.2.2).w.lane = s.w.lane) : Popped s x act (acquireW r.1 3 r.2.2) r.2.1 := by
  have hm : (lanesOf act).flatMap (fun i => [(i, true, h)]) = (lanesOf act).map (fun i => (i, true, h)) := by
    induction lanesOf act with
    | nil => rfl
    | cons a l ih => simp only [List.flatMap_cons, List.map_cons, ih, List.singleton_append]
  refine ⟨fun k => ?_, hl⟩
  cases hcx : x.c <;> simp_all [popOperands]

/-- A queue whose ring's slots are as they should be up to its depth is laid out: the others are the same slots. -/
theorem queueLaid_of {s : State} {own part : Nat} {q : DWord} {c : Qcw} (hc : qcwOf s own part q = c)
    (h : c.ovdepth = 0 ∧ c.ldepth ≤ 20 ∧ c.count ≤ c.depth ∧ slotAt s own part true q 32 = .ok)
    (ring : ∀ j < c.depth, vaultRaw s own part (c.slot j) = vaultRaw s own part c.base + elemBytes c.esize * j ∧
      slotAt s own part true (c.slot j) (elemBytes c.esize) = .ok)
    (apart : vaultRaw s own part q + 32 ≤ vaultRaw s own part c.base ∨
      vaultRaw s own part c.base + elemBytes c.esize * c.depth ≤ vaultRaw s own part q) :
    QueueLaid s own part q := by
  subst hc
  refine ⟨h.1, h.2.1, h.2.2.1, h.2.2.2, fun i => ?_, apart⟩
  have hs : (qcwOf s own part q).slot i = (qcwOf s own part q).slot (i % (qcwOf s own part q).depth) := by simp [Qcw.slot]
  rw [hs]
  exact ring _ (Nat.mod_lt _ (Nat.two_pow_pos _))

/-- Unpacked lane addresses from a vector base. -/
theorem lanesLie_vec {s : State} {x : LMem} {packed : Prop} {act : Word} {write : Bool} {va : Nat → DWord} {loc : Nat → Loc}
    {r : BitVec 10} (hb : x.base = .vec r) (hp : ¬ packed)
    (h : ∀ k < 32, act.getLsbD k = true →
      va k = dw ((getV s.w r.toNat k).toNat + 2 ^ 32 * (getV s.w (r.toNat + 1) k).toNat) + dwI x.off.toInt ∧
      (va k).toNat % x.size.bytes = 0 ∧ locate s s.w.ctx s.w.part false write (va k) = .ok (loc k)) :
    LanesLie s x packed act write va loc := by
  intro k hk ha
  obtain ⟨hv, hm, hl⟩ := h k hk ha
  exact ⟨⟨_, by rw [hb], fun p => absurd p hp, fun _ => hv⟩, hm, hl⟩

/-- Packed lane addresses from a scalar base. -/
theorem lanesLie_packed {s : State} {x : LMem} {packed : Prop} {act : Word} {write : Bool} {va : Nat → DWord} {loc : Nat → Loc}
    {r : BitVec 8} (hb : x.base = .scal r) (hp : packed)
    (h : ∀ k < 32, act.getLsbD k = true →
      va k = getS s.w r.toNat +
        dwI (x.off.toInt + x.size.bytes * ((lanesOf (s.w.lane.issue.act.getD act)).countP (fun j => decide (j < k)) : Nat)) ∧
      (va k).toNat % x.size.bytes = 0 ∧ locate s s.w.ctx s.w.part false write (va k) = .ok (loc k)) :
    LanesLie s x packed act write va loc := by
  intro k hk ha
  obtain ⟨hv, hm, hl⟩ := h k hk ha
  exact ⟨⟨_, by rw [hb], fun _ => hv, fun p => absurd hp p⟩, hm, hl⟩

/-- The sources of a walk, step by step. -/
theorem sourcesAt_of {s : State} {ctx part n : Nat} {ms : List Move} {src : Nat → Nat → Nat}
    (h : ∀ i < ms.length, ∀ k < (ms.getD i ([], 0)).1.length,
      PlainAt s ctx part true false ((ms.getD i ([], 0)).1.getD k 0) n (src i k)) : SourcesAt s ctx part n ms src := by
  intro i mv hi k va hk
  have hl := (List.getElem?_eq_some_iff.mp hi).1
  have hd : ms.getD i ([], 0) = mv := by simp [List.getD, hi]
  have := h i hl k (by rw [hd]; exact (List.getElem?_eq_some_iff.mp hk).1)
  rw [hd] at this
  simpa [List.getD, hk] using this

/-- Its targets. -/
theorem targetsAt_of {s : State} {ctx part len : Nat} {ms : List Move} {dst : Nat → Nat}
    (h : ∀ i < ms.length, PlainAt s ctx part true true (ms.getD i ([], 0)).2 len (dst i) ∧
      ∀ j < ms.length, i ≠ j → Apart (dst i) len (dst j) len) : TargetsAt s ctx part len ms dst := by
  refine ⟨fun i mv hi => ?_, fun i j hi hj hij => (h i hi).2 j hj hij⟩
  have := (h i (List.getElem?_eq_some_iff.mp hi).1).1
  simpa [List.getD, hi] using this

end Sys2Proof.Machine
end

