-- ==== Sys2Proof/Laws/Map.lean ====
section
/-! SUPPORT. Reading a sparse map after a change of it, and that every change keeps the rising order of its keys. -/

namespace Sys2Proof

variable {α : Type}

/-! ### Reads after writes -/

@[simp] theorem SMap.get?_nil (k : Nat) : SMap.get? ([] : SMap α) k = none := rfl

theorem SMap.get?_put (m : SMap α) (k j : Nat) (v : α) :
    SMap.get? (SMap.put m k v) j = if j = k then some v else SMap.get? m j := by
  induction m with
  | nil => simp [SMap.put, SMap.get?, eq_comm]
  | cons p m ih =>
    obtain ⟨i, x⟩ := p
    by_cases h1 : k < i
    · simp [SMap.put, h1, SMap.get?, eq_comm]
    · by_cases h2 : k = i
      · subst h2
        by_cases h : j = k
        · simp [SMap.put, SMap.get?, h]
        · simp [SMap.put, SMap.get?, h, Ne.symm h]
      · by_cases h : i = j
        · subst h
          simp [SMap.put, h1, h2, SMap.get?, Ne.symm h2]
        · simp [SMap.put, h1, h2, SMap.get?, h, ih]

@[simp] theorem SMap.get?_put_self (m : SMap α) (k : Nat) (v : α) : SMap.get? (SMap.put m k v) k = some v := by
  simp [SMap.get?_put]

theorem SMap.get?_put_ne (m : SMap α) {k j : Nat} (v : α) (h : j ≠ k) :
    SMap.get? (SMap.put m k v) j = SMap.get? m j := by
  simp [SMap.get?_put, h]

theorem SMap.get?_del (m : SMap α) (k j : Nat) :
    SMap.get? (SMap.del m k) j = if j = k then none else SMap.get? m j := by
  induction m with
  | nil => simp [SMap.del]
  | cons p m ih =>
    obtain ⟨i, x⟩ := p
    by_cases h : i = k
    · subst h
      by_cases hj : j = i
      · subst hj
        simp only [SMap.del, if_true]
        rw [ih, if_pos rfl]
      · simp [SMap.del, ih, SMap.get?, hj, Ne.symm hj]
    · by_cases hj : i = j
      · subst hj
        simp [SMap.del, h, SMap.get?]
      · simp [SMap.del, h, SMap.get?, hj, ih]

theorem SMap.getD_put (m : SMap α) (k j : Nat) (v d : α) :
    SMap.getD (SMap.put m k v) j d = if j = k then v else SMap.getD m j d := by
  unfold SMap.getD
  rw [SMap.get?_put]
  split <;> rfl

/-- A write is read back, whether it lists the key or not. -/
theorem SMap.getD_write [DecidableEq α] (d : α) (m : SMap α) (k j : Nat) (v : α) :
    SMap.getD (SMap.write d m k v) j d = if j = k then v else SMap.getD m j d := by
  unfold SMap.write
  by_cases h : v = d
  · subst h
    by_cases hj : j = k <;> simp [SMap.getD, SMap.get?_del, hj]
  · simp [h, SMap.getD_put]

@[simp] theorem SMap.getD_write_self [DecidableEq α] (d : α) (m : SMap α) (k : Nat) (v : α) :
    SMap.getD (SMap.write d m k v) k d = v := by
  simp [SMap.getD_write]

theorem SMap.getD_write_ne [DecidableEq α] (d : α) (m : SMap α) {k j : Nat} (v : α) (h : j ≠ k) :
    SMap.getD (SMap.write d m k v) j d = SMap.getD m j d := by
  simp [SMap.getD_write, h]

/-! ### The canonical form -/

theorem SMap.risingFrom_mono {m : SMap α} {a b : Nat} (h : a ≤ b) (hm : SMap.risingFrom b m = true) :
    SMap.risingFrom a m = true := by
  cases m with
  | nil => rfl
  | cons p m =>
    simp only [SMap.risingFrom, Bool.and_eq_true, decide_eq_true_eq] at hm ⊢
    exact ⟨Nat.le_trans h hm.1, hm.2⟩

theorem SMap.risingFrom_put {m : SMap α} {lo k : Nat} (v : α) (hm : SMap.risingFrom lo m = true) (hk : lo ≤ k) :
    SMap.risingFrom lo (SMap.put m k v) = true := by
  induction m generalizing lo with
  | nil => simp [SMap.put, SMap.risingFrom, hk]
  | cons p m ih =>
    obtain ⟨i, x⟩ := p
    simp only [SMap.risingFrom, Bool.and_eq_true, decide_eq_true_eq] at hm
    by_cases h1 : k < i
    · simp only [SMap.put, h1, if_true, SMap.risingFrom, Bool.and_eq_true, decide_eq_true_eq]
      exact ⟨hk, h1, hm.2⟩
    · by_cases h2 : k = i
      · subst h2
        simp only [SMap.put, Nat.lt_irrefl, if_false, if_true, SMap.risingFrom, Bool.and_eq_true, decide_eq_true_eq]
        exact ⟨hk, hm.2⟩
      · simp only [SMap.put, h1, h2, if_false, SMap.risingFrom, Bool.and_eq_true, decide_eq_true_eq]
        exact ⟨hm.1, ih hm.2 (by omega)⟩

theorem SMap.risingFrom_del {m : SMap α} {lo : Nat} (k : Nat) (hm : SMap.risingFrom lo m = true) :
    SMap.risingFrom lo (SMap.del m k) = true := by
  induction m generalizing lo with
  | nil => rfl
  | cons p m ih =>
    obtain ⟨i, x⟩ := p
    simp only [SMap.risingFrom, Bool.and_eq_true, decide_eq_true_eq] at hm
    by_cases h : i = k
    · simp only [SMap.del, h, if_true]
      exact ih (SMap.risingFrom_mono (by omega) hm.2)
    · simp only [SMap.del, h, if_false, SMap.risingFrom, Bool.and_eq_true, decide_eq_true_eq]
      exact ⟨hm.1, ih hm.2⟩

theorem SMap.wf_put {m : SMap α} (k : Nat) (v : α) (h : SMap.wf m = true) : SMap.wf (SMap.put m k v) = true :=
  SMap.risingFrom_put v h (Nat.zero_le k)

theorem SMap.wf_del {m : SMap α} (k : Nat) (h : SMap.wf m = true) : SMap.wf (SMap.del m k) = true :=
  SMap.risingFrom_del k h

theorem SMap.mem_put {m : SMap α} {k : Nat} {v : α} {kv : Nat × α} (h : kv ∈ SMap.put m k v) :
    kv = (k, v) ∨ kv ∈ m := by
  induction m with
  | nil => simpa [SMap.put] using h
  | cons p m ih =>
    obtain ⟨i, x⟩ := p
    by_cases h1 : k < i
    · simpa [SMap.put, h1] using h
    · by_cases h2 : k = i
      · subst h2
        simp only [SMap.put, Nat.lt_irrefl, if_false, if_true, List.mem_cons] at h ⊢
        tauto
      · simp only [SMap.put, h1, h2, if_false, List.mem_cons] at h ⊢
        rcases h with h | h
        · exact .inr (.inl h)
        · rcases ih h with h | h
          · exact .inl h
          · exact .inr (.inr h)

theorem SMap.mem_del {m : SMap α} {k : Nat} {kv : Nat × α} (h : kv ∈ SMap.del m k) : kv ∈ m := by
  induction m with
  | nil => simp [SMap.del] at h
  | cons p m ih =>
    obtain ⟨i, x⟩ := p
    by_cases h1 : i = k
    · simp only [SMap.del, h1, if_true] at h
      exact List.mem_cons_of_mem _ (ih h)
    · simp only [SMap.del, h1, if_false, List.mem_cons] at h ⊢
      exact h.imp id ih

/-- A write keeps the canonical form of a map that lists no default. -/
theorem SMap.wfD_write [DecidableEq α] (d : α) {m : SMap α} (k : Nat) (v : α) (h : SMap.wfD d m = true) :
    SMap.wfD d (SMap.write d m k v) = true := by
  simp only [SMap.wfD, Bool.and_eq_true, List.all_eq_true, decide_eq_true_eq] at h ⊢
  unfold SMap.write
  split
  · exact ⟨SMap.wf_del k h.1, fun kv hkv => h.2 kv (SMap.mem_del hkv)⟩
  · next hv =>
    refine ⟨SMap.wf_put k v h.1, fun kv hkv => ?_⟩
    rcases SMap.mem_put hkv with rfl | hm
    · exact hv
    · exact h.2 kv hm

theorem SMap.get?_mem {m : SMap α} {k : Nat} {v : α} (h : SMap.get? m k = some v) : (k, v) ∈ m := by
  induction m with
  | nil => simp at h
  | cons p m ih =>
    obtain ⟨i, x⟩ := p
    by_cases hi : i = k
    · simp only [SMap.get?, hi, if_true, Option.some.injEq] at h
      simp [hi, h]
    · simp only [SMap.get?, hi, if_false] at h
      exact List.mem_cons_of_mem _ (ih h)

theorem SMap.get?_eq_none_of_rising {m : SMap α} {lo k : Nat} (h : SMap.risingFrom lo m = true) (hk : k < lo) :
    SMap.get? m k = none := by
  induction m generalizing lo with
  | nil => rfl
  | cons p m ih =>
    obtain ⟨i, x⟩ := p
    simp only [SMap.risingFrom, Bool.and_eq_true, decide_eq_true_eq] at h
    have hi : i ≠ k := by omega
    simp only [SMap.get?, hi, if_false]
    exact ih h.2 (by omega)

/-- Two maps in the canonical form that read alike are equal. -/
theorem SMap.ext_of_rising {m n : SMap α} {lo : Nat} (hm : SMap.risingFrom lo m = true)
    (hn : SMap.risingFrom lo n = true) (h : ∀ k, SMap.get? m k = SMap.get? n k) : m = n := by
  induction m generalizing n lo with
  | nil =>
    cases n with
    | nil => rfl
    | cons q n => have := h q.1; simp [SMap.get?] at this
  | cons p m ih =>
    obtain ⟨i, x⟩ := p
    cases n with
    | nil => have := h i; simp [SMap.get?] at this
    | cons q n =>
      obtain ⟨j, y⟩ := q
      simp only [SMap.risingFrom, Bool.and_eq_true, decide_eq_true_eq] at hm hn
      have hij : i = j := by
        rcases Nat.lt_trichotomy i j with hlt | he | hgt
        · have := h i
          have hne : j ≠ i := by omega
          simp only [SMap.get?, if_true, hne, if_false, SMap.get?_eq_none_of_rising hn.2 (by omega : i < j + 1)] at this
          simp at this
        · exact he
        · have := h j
          have hne : i ≠ j := by omega
          simp only [SMap.get?, if_true, hne, if_false, SMap.get?_eq_none_of_rising hm.2 (by omega : j < i + 1)] at this
          simp at this
      subst hij
      have hxy : x = y := by have := h i; simpa [SMap.get?] using this
      subst hxy
      congr 1
      refine ih hm.2 hn.2 fun k => ?_
      by_cases hk : i = k
      · subst hk
        rw [SMap.get?_eq_none_of_rising hm.2 (Nat.lt_succ_self _), SMap.get?_eq_none_of_rising hn.2 (Nat.lt_succ_self _)]
      · have := h k
        simpa [SMap.get?, hk] using this

end Sys2Proof
end

