-- ==== Sys2Proof/Laws/Memory.lean ====
section
/-! SUPPORT. Memory as bytes: a byte written is read back, a write leaves every other byte alone, and every memory
operation keeps the canonical form. -/

namespace Sys2Proof.Machine

/-! ### Bytes -/

@[simp] theorem memByte_nil (k : Nat) : memByte [] k = 0 := rfl

theorem memByte_memSet (m : Memory) (k j : Nat) (b : Byte) :
    memByte (memSet m k b) j = if j = k then b else memByte m j :=
  SMap.getD_write 0 m k j b

@[simp] theorem memByte_memSet_self (m : Memory) (k : Nat) (b : Byte) : memByte (memSet m k b) k = b := by
  simp [memByte_memSet]

theorem memByte_memSet_ne (m : Memory) {k j : Nat} (b : Byte) (h : j ≠ k) : memByte (memSet m k b) j = memByte m j := by
  simp [memByte_memSet, h]

@[simp] theorem memPut_nil (m : Memory) (k : Nat) : memPut m k [] = m := rfl

/-- A byte after several bytes are written. -/
theorem memByte_memPut (m : Memory) (k j : Nat) (l : List Byte) :
    memByte (memPut m k l) j = if k ≤ j ∧ j < k + l.length then l.getD (j - k) 0 else memByte m j := by
  induction l generalizing m k with
  | nil =>
    have h : ¬ (k ≤ j ∧ j < k + 0) := by omega
    simp [memPut, h]
  | cons b l ih =>
    simp only [memPut, ih, List.length_cons]
    by_cases h1 : k + 1 ≤ j ∧ j < k + 1 + l.length
    · have h2 : k ≤ j ∧ j < k + (l.length + 1) := by omega
      rw [if_pos h1, if_pos h2]
      obtain ⟨d, rfl⟩ : ∃ d, j = k + 1 + d := ⟨j - (k + 1), by omega⟩
      rw [show k + 1 + d - (k + 1) = d by omega, show k + 1 + d - k = d + 1 by omega]
      rfl
    · rw [if_neg h1, memByte_memSet]
      by_cases h2 : j = k
      · subst h2
        rw [if_pos rfl, if_pos (by omega), Nat.sub_self]
        rfl
      · rw [if_neg h2, if_neg (by omega)]

/-- Writing bytes leaves every byte outside them alone. -/
theorem memByte_memPut_outside (m : Memory) {k j : Nat} (l : List Byte) (h : j < k ∨ k + l.length ≤ j) :
    memByte (memPut m k l) j = memByte m j := by
  rw [memByte_memPut, if_neg (by omega)]

@[simp] theorem memBytes_length (m : Memory) (k n : Nat) : (memBytes m k n).length = n := by
  simp [memBytes]

/-- Bytes that lie outside what is written read as before. -/
theorem memBytes_memPut_outside (m : Memory) {k j n : Nat} (l : List Byte) (h : j + n ≤ k ∨ k + l.length ≤ j) :
    memBytes (memPut m k l) j n = memBytes m j n := by
  refine List.map_congr_left fun i hi => ?_
  have : i < n := List.mem_range.mp hi
  exact memByte_memPut_outside m l (by omega)

/-- The bytes just written are read back. -/
theorem memBytes_memPut_self (m : Memory) (k : Nat) (l : List Byte) : memBytes (memPut m k l) k l.length = l := by
  refine List.ext_getElem (by simp) fun i h1 h2 => ?_
  have hi : i < l.length := h2
  simp only [memBytes, List.getElem_map, List.getElem_range, memByte_memPut]
  rw [if_pos (by omega), Nat.add_sub_cancel_left]
  simp [List.getD_eq_getElem?_getD, hi]

/-! ### The canonical form -/

theorem memory_wf_nil : Memory.wf [] = true := rfl

theorem memory_wf_memSet {m : Memory} (k : Nat) (b : Byte) (h : Memory.wf m = true) :
    Memory.wf (memSet m k b) = true :=
  SMap.wfD_write 0 k b h

theorem memory_wf_memPut {m : Memory} (k : Nat) (l : List Byte) (h : Memory.wf m = true) :
    Memory.wf (memPut m k l) = true := by
  induction l generalizing m k with
  | nil => exact h
  | cons b l ih => exact ih (k + 1) (memory_wf_memSet k b h)

theorem memory_wf_memPutNat {m : Memory} (k n x : Nat) (h : Memory.wf m = true) :
    Memory.wf (memPutNat m k n x) = true :=
  memory_wf_memPut k _ h

/-- Equal bytes at every key make canonical memories equal. -/
theorem memory_ext {m n : Memory} (hm : Memory.wf m = true) (hn : Memory.wf n = true)
    (h : ∀ k, memByte m k = memByte n k) : m = n := by
  simp only [Memory.wf, SMap.wfD, Bool.and_eq_true, List.all_eq_true, decide_eq_true_eq] at hm hn
  refine SMap.ext_of_rising hm.1 hn.1 fun k => ?_
  have hk := h k
  simp only [memByte, SMap.getD] at hk
  cases h1 : SMap.get? m k <;> cases h2 : SMap.get? n k
  · rfl
  · rw [h1, h2] at hk
    exact absurd hk.symm (hn.2 _ (SMap.get?_mem h2))
  · rw [h1, h2] at hk
    exact absurd hk (hm.2 _ (SMap.get?_mem h1))
  · rw [h1, h2] at hk
    simpa using hk

end Sys2Proof.Machine
end

