-- ==== Sys2Proof/Laws/State.lean ====
section
/-! SUPPORT. What each named update of the state leaves alone and what it changes, a field at a time; all true by
computation, so that no proof unfolds a record update. -/

namespace Sys2Proof.Machine

/-! ### modRegs -/

@[simp] theorem modRegs_waves (s : State) (f : Regs → Regs) : (modRegs s f).waves = s.waves := rfl
@[simp] theorem modRegs_clock (s : State) (f : Regs → Regs) : (modRegs s f).clock = s.clock := rfl
@[simp] theorem modRegs_time (s : State) (f : Regs → Regs) : (modRegs s f).time = s.time := rfl
@[simp] theorem modRegs_decayed (s : State) (f : Regs → Regs) : (modRegs s f).decayed = s.decayed := rfl
@[simp] theorem modRegs_mem (s : State) (f : Regs → Regs) : (modRegs s f).mem = s.mem := rfl
@[simp] theorem modRegs_bad (s : State) (f : Regs → Regs) : (modRegs s f).bad = s.bad := rfl
@[simp] theorem modRegs_cores (s : State) (f : Regs → Regs) : (modRegs s f).cores = s.cores := rfl
@[simp] theorem modRegs_engines (s : State) (f : Regs → Regs) : (modRegs s f).engines = s.engines := rfl
@[simp] theorem modRegs_channels (s : State) (f : Regs → Regs) : (modRegs s f).channels = s.channels := rfl
@[simp] theorem modRegs_cards (s : State) (f : Regs → Regs) : (modRegs s f).cards = s.cards := rfl
@[simp] theorem modRegs_cardTurn (s : State) (f : Regs → Regs) : (modRegs s f).cardTurn = s.cardTurn := rfl
@[simp] theorem modRegs_parts (s : State) (f : Regs → Regs) : (modRegs s f).parts = s.parts := rfl
@[simp] theorem modRegs_contexts (s : State) (f : Regs → Regs) : (modRegs s f).contexts = s.contexts := rfl
@[simp] theorem modRegs_images (s : State) (f : Regs → Regs) : (modRegs s f).images = s.images := rfl
@[simp] theorem modRegs_launches (s : State) (f : Regs → Regs) : (modRegs s f).launches = s.launches := rfl
@[simp] theorem modRegs_grans (s : State) (f : Regs → Regs) : (modRegs s f).grans = s.grans := rfl
@[simp] theorem modRegs_clines (s : State) (f : Regs → Regs) : (modRegs s f).clines = s.clines := rfl
@[simp] theorem modRegs_ccounts (s : State) (f : Regs → Regs) : (modRegs s f).ccounts = s.ccounts := rfl
@[simp] theorem modRegs_dieid (s : State) (f : Regs → Regs) : (modRegs s f).dieid = s.dieid := rfl
@[simp] theorem modRegs_chip (s : State) (f : Regs → Regs) : (modRegs s f).chip = s.chip := rfl
@[simp] theorem modRegs_routes (s : State) (f : Regs → Regs) : (modRegs s f).routes = s.routes := rfl
@[simp] theorem modRegs_anchor (s : State) (f : Regs → Regs) : (modRegs s f).anchor = s.anchor := rfl
@[simp] theorem modRegs_fw (s : State) (f : Regs → Regs) : (modRegs s f).fw = s.fw := rfl
@[simp] theorem modRegs_power (s : State) (f : Regs → Regs) : (modRegs s f).power = s.power := rfl
@[simp] theorem modRegs_discards (s : State) (f : Regs → Regs) : (modRegs s f).discards = s.discards := rfl
@[simp] theorem modRegs_hostData (s : State) (f : Regs → Regs) : (modRegs s f).hostData = s.hostData := rfl
@[simp] theorem modRegs_nextWave (s : State) (f : Regs → Regs) : (modRegs s f).nextWave = s.nextWave := rfl
@[simp] theorem modRegs_nextLaunch (s : State) (f : Regs → Regs) : (modRegs s f).nextLaunch = s.nextLaunch := rfl
@[simp] theorem modRegs_target (s : State) (f : Regs → Regs) : (modRegs s f).target = s.target := rfl
@[simp] theorem modRegs_agenda (s : State) (f : Regs → Regs) : (modRegs s f).agenda = s.agenda := rfl
@[simp] theorem modRegs_free (s : State) (f : Regs → Regs) : (modRegs s f).free = s.free := rfl
@[simp] theorem modRegs_w_id (s : State) (f : Regs → Regs) : (modRegs s f).w.id = s.w.id := rfl
@[simp] theorem modRegs_w_status (s : State) (f : Regs → Regs) : (modRegs s f).w.status = s.w.status := rfl
@[simp] theorem modRegs_w_ended (s : State) (f : Regs → Regs) : (modRegs s f).w.ended = s.w.ended := rfl
@[simp] theorem modRegs_w_preq (s : State) (f : Regs → Regs) : (modRegs s f).w.preq = s.w.preq := rfl
@[simp] theorem modRegs_w_ctx (s : State) (f : Regs → Regs) : (modRegs s f).w.ctx = s.w.ctx := rfl
@[simp] theorem modRegs_w_part (s : State) (f : Regs → Regs) : (modRegs s f).w.part = s.w.part := rfl
@[simp] theorem modRegs_w_launch (s : State) (f : Regs → Regs) : (modRegs s f).w.launch = s.w.launch := rfl
@[simp] theorem modRegs_w_wg (s : State) (f : Regs → Regs) : (modRegs s f).w.wg = s.w.wg := rfl
@[simp] theorem modRegs_w_widx (s : State) (f : Regs → Regs) : (modRegs s f).w.widx = s.w.widx := rfl
@[simp] theorem modRegs_w_kind (s : State) (f : Regs → Regs) : (modRegs s f).w.kind = s.w.kind := rfl
@[simp] theorem modRegs_w_bound (s : State) (f : Regs → Regs) : (modRegs s f).w.bound = s.w.bound := rfl
@[simp] theorem modRegs_w_coop (s : State) (f : Regs → Regs) : (modRegs s f).w.coop = s.w.coop := rfl
@[simp] theorem modRegs_w_prio (s : State) (f : Regs → Regs) : (modRegs s f).w.prio = s.w.prio := rfl
@[simp] theorem modRegs_w_age (s : State) (f : Regs → Regs) : (modRegs s f).w.age = s.w.age := rfl
@[simp] theorem modRegs_w_pop (s : State) (f : Regs → Regs) : (modRegs s f).w.pop = s.w.pop := rfl
@[simp] theorem modRegs_w_rows (s : State) (f : Regs → Regs) : (modRegs s f).w.rows = s.w.rows := rfl
@[simp] theorem modRegs_w_ephBase (s : State) (f : Regs → Regs) : (modRegs s f).w.ephBase = s.w.ephBase := rfl
@[simp] theorem modRegs_w_ephCnt (s : State) (f : Regs → Regs) : (modRegs s f).w.ephCnt = s.w.ephCnt := rfl
@[simp] theorem modRegs_w_sbase (s : State) (f : Regs → Regs) : (modRegs s f).w.sbase = s.w.sbase := rfl
@[simp] theorem modRegs_w_sys (s : State) (f : Regs → Regs) : (modRegs s f).w.sys = s.w.sys := rfl
@[simp] theorem modRegs_w_lane (s : State) (f : Regs → Regs) : (modRegs s f).w.lane = s.w.lane := rfl
@[simp] theorem modRegs_w_handles (s : State) (f : Regs → Regs) : (modRegs s f).w.handles = s.w.handles := rfl
@[simp] theorem modRegs_w_streams (s : State) (f : Regs → Regs) : (modRegs s f).w.streams = s.w.streams := rfl
@[simp] theorem modRegs_w_accs (s : State) (f : Regs → Regs) : (modRegs s f).w.accs = s.w.accs := rfl
@[simp] theorem modRegs_w_accF64 (s : State) (f : Regs → Regs) : (modRegs s f).w.accF64 = s.w.accF64 := rfl
@[simp] theorem modRegs_w_tiles (s : State) (f : Regs → Regs) : (modRegs s f).w.tiles = s.w.tiles := rfl
@[simp] theorem modRegs_w_pend (s : State) (f : Regs → Regs) : (modRegs s f).w.pend = s.w.pend := rfl
@[simp] theorem modRegs_w_bara (s : State) (f : Regs → Regs) : (modRegs s f).w.bara = s.w.bara := rfl
@[simp] theorem modRegs_w_inBar (s : State) (f : Regs → Regs) : (modRegs s f).w.inBar = s.w.inBar := rfl
@[simp] theorem modRegs_w_barPub (s : State) (f : Regs → Regs) : (modRegs s f).w.barPub = s.w.barPub := rfl
@[simp] theorem modRegs_w_frame (s : State) (f : Regs → Regs) : (modRegs s f).w.frame = s.w.frame := rfl
@[simp] theorem modRegs_w_park (s : State) (f : Regs → Regs) : (modRegs s f).w.park = s.w.park := rfl
@[simp] theorem modRegs_w_answered (s : State) (f : Regs → Regs) : (modRegs s f).w.answered = s.w.answered := rfl
@[simp] theorem modRegs_w_owed (s : State) (f : Regs → Regs) : (modRegs s f).w.owed = s.w.owed := rfl
@[simp] theorem modRegs_w_acq (s : State) (f : Regs → Regs) : (modRegs s f).w.acq = s.w.acq := rfl
@[simp] theorem modRegs_w_rel (s : State) (f : Regs → Regs) : (modRegs s f).w.rel = s.w.rel := rfl
@[simp] theorem modRegs_w_seen (s : State) (f : Regs → Regs) : (modRegs s f).w.seen = s.w.seen := rfl
@[simp] theorem modRegs_w_ticket (s : State) (f : Regs → Regs) : (modRegs s f).w.ticket = s.w.ticket := rfl
@[simp] theorem modRegs_w_pod (s : State) (f : Regs → Regs) : (modRegs s f).w.pod = s.w.pod := rfl
@[simp] theorem modRegs_w_task (s : State) (f : Regs → Regs) : (modRegs s f).w.task = s.w.task := rfl
@[simp] theorem modRegs_w_ep (s : State) (f : Regs → Regs) : (modRegs s f).w.ep = s.w.ep := rfl
@[simp] theorem modRegs_w_spillIdx (s : State) (f : Regs → Regs) : (modRegs s f).w.spillIdx = s.w.spillIdx := rfl
@[simp] theorem modRegs_w_epoch (s : State) (f : Regs → Regs) : (modRegs s f).w.epoch = s.w.epoch := rfl
@[simp] theorem modRegs_w_lastIssue (s : State) (f : Regs → Regs) : (modRegs s f).w.lastIssue = s.w.lastIssue := rfl
@[simp] theorem modRegs_w_yieldEnd (s : State) (f : Regs → Regs) : (modRegs s f).w.yieldEnd = s.w.yieldEnd := rfl
@[simp] theorem modRegs_w_starved (s : State) (f : Regs → Regs) : (modRegs s f).w.starved = s.w.starved := rfl
@[simp] theorem modRegs_w_regs (s : State) (f : Regs → Regs) : (modRegs s f).w.regs = f s.w.regs := rfl

/-! ### modW -/

@[simp] theorem modW_waves (s : State) (f : Wave → Wave) : (modW s f).waves = s.waves := rfl
@[simp] theorem modW_clock (s : State) (f : Wave → Wave) : (modW s f).clock = s.clock := rfl
@[simp] theorem modW_time (s : State) (f : Wave → Wave) : (modW s f).time = s.time := rfl
@[simp] theorem modW_decayed (s : State) (f : Wave → Wave) : (modW s f).decayed = s.decayed := rfl
@[simp] theorem modW_mem (s : State) (f : Wave → Wave) : (modW s f).mem = s.mem := rfl
@[simp] theorem modW_bad (s : State) (f : Wave → Wave) : (modW s f).bad = s.bad := rfl
@[simp] theorem modW_cores (s : State) (f : Wave → Wave) : (modW s f).cores = s.cores := rfl
@[simp] theorem modW_engines (s : State) (f : Wave → Wave) : (modW s f).engines = s.engines := rfl
@[simp] theorem modW_channels (s : State) (f : Wave → Wave) : (modW s f).channels = s.channels := rfl
@[simp] theorem modW_cards (s : State) (f : Wave → Wave) : (modW s f).cards = s.cards := rfl
@[simp] theorem modW_cardTurn (s : State) (f : Wave → Wave) : (modW s f).cardTurn = s.cardTurn := rfl
@[simp] theorem modW_parts (s : State) (f : Wave → Wave) : (modW s f).parts = s.parts := rfl
@[simp] theorem modW_contexts (s : State) (f : Wave → Wave) : (modW s f).contexts = s.contexts := rfl
@[simp] theorem modW_images (s : State) (f : Wave → Wave) : (modW s f).images = s.images := rfl
@[simp] theorem modW_launches (s : State) (f : Wave → Wave) : (modW s f).launches = s.launches := rfl
@[simp] theorem modW_grans (s : State) (f : Wave → Wave) : (modW s f).grans = s.grans := rfl
@[simp] theorem modW_clines (s : State) (f : Wave → Wave) : (modW s f).clines = s.clines := rfl
@[simp] theorem modW_ccounts (s : State) (f : Wave → Wave) : (modW s f).ccounts = s.ccounts := rfl
@[simp] theorem modW_dieid (s : State) (f : Wave → Wave) : (modW s f).dieid = s.dieid := rfl
@[simp] theorem modW_chip (s : State) (f : Wave → Wave) : (modW s f).chip = s.chip := rfl
@[simp] theorem modW_routes (s : State) (f : Wave → Wave) : (modW s f).routes = s.routes := rfl
@[simp] theorem modW_anchor (s : State) (f : Wave → Wave) : (modW s f).anchor = s.anchor := rfl
@[simp] theorem modW_fw (s : State) (f : Wave → Wave) : (modW s f).fw = s.fw := rfl
@[simp] theorem modW_power (s : State) (f : Wave → Wave) : (modW s f).power = s.power := rfl
@[simp] theorem modW_discards (s : State) (f : Wave → Wave) : (modW s f).discards = s.discards := rfl
@[simp] theorem modW_hostData (s : State) (f : Wave → Wave) : (modW s f).hostData = s.hostData := rfl
@[simp] theorem modW_nextWave (s : State) (f : Wave → Wave) : (modW s f).nextWave = s.nextWave := rfl
@[simp] theorem modW_nextLaunch (s : State) (f : Wave → Wave) : (modW s f).nextLaunch = s.nextLaunch := rfl
@[simp] theorem modW_target (s : State) (f : Wave → Wave) : (modW s f).target = s.target := rfl
@[simp] theorem modW_agenda (s : State) (f : Wave → Wave) : (modW s f).agenda = s.agenda := rfl
@[simp] theorem modW_free (s : State) (f : Wave → Wave) : (modW s f).free = s.free := rfl
@[simp] theorem modW_w (s : State) (f : Wave → Wave) : (modW s f).w = f s.w := rfl

/-! ### modLane -/

@[simp] theorem modLane_waves (s : State) (f : LaneStream → LaneStream) : (modLane s f).waves = s.waves := rfl
@[simp] theorem modLane_clock (s : State) (f : LaneStream → LaneStream) : (modLane s f).clock = s.clock := rfl
@[simp] theorem modLane_time (s : State) (f : LaneStream → LaneStream) : (modLane s f).time = s.time := rfl
@[simp] theorem modLane_decayed (s : State) (f : LaneStream → LaneStream) : (modLane s f).decayed = s.decayed := rfl
@[simp] theorem modLane_mem (s : State) (f : LaneStream → LaneStream) : (modLane s f).mem = s.mem := rfl
@[simp] theorem modLane_bad (s : State) (f : LaneStream → LaneStream) : (modLane s f).bad = s.bad := rfl
@[simp] theorem modLane_cores (s : State) (f : LaneStream → LaneStream) : (modLane s f).cores = s.cores := rfl
@[simp] theorem modLane_engines (s : State) (f : LaneStream → LaneStream) : (modLane s f).engines = s.engines := rfl
@[simp] theorem modLane_channels (s : State) (f : LaneStream → LaneStream) : (modLane s f).channels = s.channels := rfl
@[simp] theorem modLane_cards (s : State) (f : LaneStream → LaneStream) : (modLane s f).cards = s.cards := rfl
@[simp] theorem modLane_cardTurn (s : State) (f : LaneStream → LaneStream) : (modLane s f).cardTurn = s.cardTurn := rfl
@[simp] theorem modLane_parts (s : State) (f : LaneStream → LaneStream) : (modLane s f).parts = s.parts := rfl
@[simp] theorem modLane_contexts (s : State) (f : LaneStream → LaneStream) : (modLane s f).contexts = s.contexts := rfl
@[simp] theorem modLane_images (s : State) (f : LaneStream → LaneStream) : (modLane s f).images = s.images := rfl
@[simp] theorem modLane_launches (s : State) (f : LaneStream → LaneStream) : (modLane s f).launches = s.launches := rfl
@[simp] theorem modLane_grans (s : State) (f : LaneStream → LaneStream) : (modLane s f).grans = s.grans := rfl
@[simp] theorem modLane_clines (s : State) (f : LaneStream → LaneStream) : (modLane s f).clines = s.clines := rfl
@[simp] theorem modLane_ccounts (s : State) (f : LaneStream → LaneStream) : (modLane s f).ccounts = s.ccounts := rfl
@[simp] theorem modLane_dieid (s : State) (f : LaneStream → LaneStream) : (modLane s f).dieid = s.dieid := rfl
@[simp] theorem modLane_chip (s : State) (f : LaneStream → LaneStream) : (modLane s f).chip = s.chip := rfl
@[simp] theorem modLane_routes (s : State) (f : LaneStream → LaneStream) : (modLane s f).routes = s.routes := rfl
@[simp] theorem modLane_anchor (s : State) (f : LaneStream → LaneStream) : (modLane s f).anchor = s.anchor := rfl
@[simp] theorem modLane_fw (s : State) (f : LaneStream → LaneStream) : (modLane s f).fw = s.fw := rfl
@[simp] theorem modLane_power (s : State) (f : LaneStream → LaneStream) : (modLane s f).power = s.power := rfl
@[simp] theorem modLane_discards (s : State) (f : LaneStream → LaneStream) : (modLane s f).discards = s.discards := rfl
@[simp] theorem modLane_hostData (s : State) (f : LaneStream → LaneStream) : (modLane s f).hostData = s.hostData := rfl
@[simp] theorem modLane_nextWave (s : State) (f : LaneStream → LaneStream) : (modLane s f).nextWave = s.nextWave := rfl
@[simp] theorem modLane_nextLaunch (s : State) (f : LaneStream → LaneStream) : (modLane s f).nextLaunch = s.nextLaunch := rfl
@[simp] theorem modLane_target (s : State) (f : LaneStream → LaneStream) : (modLane s f).target = s.target := rfl
@[simp] theorem modLane_agenda (s : State) (f : LaneStream → LaneStream) : (modLane s f).agenda = s.agenda := rfl
@[simp] theorem modLane_free (s : State) (f : LaneStream → LaneStream) : (modLane s f).free = s.free := rfl
@[simp] theorem modLane_w_id (s : State) (f : LaneStream → LaneStream) : (modLane s f).w.id = s.w.id := rfl
@[simp] theorem modLane_w_status (s : State) (f : LaneStream → LaneStream) : (modLane s f).w.status = s.w.status := rfl
@[simp] theorem modLane_w_ended (s : State) (f : LaneStream → LaneStream) : (modLane s f).w.ended = s.w.ended := rfl
@[simp] theorem modLane_w_preq (s : State) (f : LaneStream → LaneStream) : (modLane s f).w.preq = s.w.preq := rfl
@[simp] theorem modLane_w_ctx (s : State) (f : LaneStream → LaneStream) : (modLane s f).w.ctx = s.w.ctx := rfl
@[simp] theorem modLane_w_part (s : State) (f : LaneStream → LaneStream) : (modLane s f).w.part = s.w.part := rfl
@[simp] theorem modLane_w_launch (s : State) (f : LaneStream → LaneStream) : (modLane s f).w.launch = s.w.launch := rfl
@[simp] theorem modLane_w_wg (s : State) (f : LaneStream → LaneStream) : (modLane s f).w.wg = s.w.wg := rfl
@[simp] theorem modLane_w_widx (s : State) (f : LaneStream → LaneStream) : (modLane s f).w.widx = s.w.widx := rfl
@[simp] theorem modLane_w_kind (s : State) (f : LaneStream → LaneStream) : (modLane s f).w.kind = s.w.kind := rfl
@[simp] theorem modLane_w_bound (s : State) (f : LaneStream → LaneStream) : (modLane s f).w.bound = s.w.bound := rfl
@[simp] theorem modLane_w_coop (s : State) (f : LaneStream → LaneStream) : (modLane s f).w.coop = s.w.coop := rfl
@[simp] theorem modLane_w_prio (s : State) (f : LaneStream → LaneStream) : (modLane s f).w.prio = s.w.prio := rfl
@[simp] theorem modLane_w_age (s : State) (f : LaneStream → LaneStream) : (modLane s f).w.age = s.w.age := rfl
@[simp] theorem modLane_w_pop (s : State) (f : LaneStream → LaneStream) : (modLane s f).w.pop = s.w.pop := rfl
@[simp] theorem modLane_w_rows (s : State) (f : LaneStream → LaneStream) : (modLane s f).w.rows = s.w.rows := rfl
@[simp] theorem modLane_w_ephBase (s : State) (f : LaneStream → LaneStream) : (modLane s f).w.ephBase = s.w.ephBase := rfl
@[simp] theorem modLane_w_ephCnt (s : State) (f : LaneStream → LaneStream) : (modLane s f).w.ephCnt = s.w.ephCnt := rfl
@[simp] theorem modLane_w_sbase (s : State) (f : LaneStream → LaneStream) : (modLane s f).w.sbase = s.w.sbase := rfl
@[simp] theorem modLane_w_regs (s : State) (f : LaneStream → LaneStream) : (modLane s f).w.regs = s.w.regs := rfl
@[simp] theorem modLane_w_sys (s : State) (f : LaneStream → LaneStream) : (modLane s f).w.sys = s.w.sys := rfl
@[simp] theorem modLane_w_handles (s : State) (f : LaneStream → LaneStream) : (modLane s f).w.handles = s.w.handles := rfl
@[simp] theorem modLane_w_streams (s : State) (f : LaneStream → LaneStream) : (modLane s f).w.streams = s.w.streams := rfl
@[simp] theorem modLane_w_accs (s : State) (f : LaneStream → LaneStream) : (modLane s f).w.accs = s.w.accs := rfl
@[simp] theorem modLane_w_accF64 (s : State) (f : LaneStream → LaneStream) : (modLane s f).w.accF64 = s.w.accF64 := rfl
@[simp] theorem modLane_w_tiles (s : State) (f : LaneStream → LaneStream) : (modLane s f).w.tiles = s.w.tiles := rfl
@[simp] theorem modLane_w_pend (s : State) (f : LaneStream → LaneStream) : (modLane s f).w.pend = s.w.pend := rfl
@[simp] theorem modLane_w_bara (s : State) (f : LaneStream → LaneStream) : (modLane s f).w.bara = s.w.bara := rfl
@[simp] theorem modLane_w_inBar (s : State) (f : LaneStream → LaneStream) : (modLane s f).w.inBar = s.w.inBar := rfl
@[simp] theorem modLane_w_barPub (s : State) (f : LaneStream → LaneStream) : (modLane s f).w.barPub = s.w.barPub := rfl
@[simp] theorem modLane_w_frame (s : State) (f : LaneStream → LaneStream) : (modLane s f).w.frame = s.w.frame := rfl
@[simp] theorem modLane_w_park (s : State) (f : LaneStream → LaneStream) : (modLane s f).w.park = s.w.park := rfl
@[simp] theorem modLane_w_answered (s : State) (f : LaneStream → LaneStream) : (modLane s f).w.answered = s.w.answered := rfl
@[simp] theorem modLane_w_owed (s : State) (f : LaneStream → LaneStream) : (modLane s f).w.owed = s.w.owed := rfl
@[simp] theorem modLane_w_acq (s : State) (f : LaneStream → LaneStream) : (modLane s f).w.acq = s.w.acq := rfl
@[simp] theorem modLane_w_rel (s : State) (f : LaneStream → LaneStream) : (modLane s f).w.rel = s.w.rel := rfl
@[simp] theorem modLane_w_seen (s : State) (f : LaneStream → LaneStream) : (modLane s f).w.seen = s.w.seen := rfl
@[simp] theorem modLane_w_ticket (s : State) (f : LaneStream → LaneStream) : (modLane s f).w.ticket = s.w.ticket := rfl
@[simp] theorem modLane_w_pod (s : State) (f : LaneStream → LaneStream) : (modLane s f).w.pod = s.w.pod := rfl
@[simp] theorem modLane_w_task (s : State) (f : LaneStream → LaneStream) : (modLane s f).w.task = s.w.task := rfl
@[simp] theorem modLane_w_ep (s : State) (f : LaneStream → LaneStream) : (modLane s f).w.ep = s.w.ep := rfl
@[simp] theorem modLane_w_spillIdx (s : State) (f : LaneStream → LaneStream) : (modLane s f).w.spillIdx = s.w.spillIdx := rfl
@[simp] theorem modLane_w_epoch (s : State) (f : LaneStream → LaneStream) : (modLane s f).w.epoch = s.w.epoch := rfl
@[simp] theorem modLane_w_lastIssue (s : State) (f : LaneStream → LaneStream) : (modLane s f).w.lastIssue = s.w.lastIssue := rfl
@[simp] theorem modLane_w_yieldEnd (s : State) (f : LaneStream → LaneStream) : (modLane s f).w.yieldEnd = s.w.yieldEnd := rfl
@[simp] theorem modLane_w_starved (s : State) (f : LaneStream → LaneStream) : (modLane s f).w.starved = s.w.starved := rfl
@[simp] theorem modLane_w_lane (s : State) (f : LaneStream → LaneStream) : (modLane s f).w.lane = f s.w.lane := rfl

/-! ### modSys -/

@[simp] theorem modSys_waves (s : State) (f : Sys → Sys) : (modSys s f).waves = s.waves := rfl
@[simp] theorem modSys_clock (s : State) (f : Sys → Sys) : (modSys s f).clock = s.clock := rfl
@[simp] theorem modSys_time (s : State) (f : Sys → Sys) : (modSys s f).time = s.time := rfl
@[simp] theorem modSys_decayed (s : State) (f : Sys → Sys) : (modSys s f).decayed = s.decayed := rfl
@[simp] theorem modSys_mem (s : State) (f : Sys → Sys) : (modSys s f).mem = s.mem := rfl
@[simp] theorem modSys_bad (s : State) (f : Sys → Sys) : (modSys s f).bad = s.bad := rfl
@[simp] theorem modSys_cores (s : State) (f : Sys → Sys) : (modSys s f).cores = s.cores := rfl
@[simp] theorem modSys_engines (s : State) (f : Sys → Sys) : (modSys s f).engines = s.engines := rfl
@[simp] theorem modSys_channels (s : State) (f : Sys → Sys) : (modSys s f).channels = s.channels := rfl
@[simp] theorem modSys_cards (s : State) (f : Sys → Sys) : (modSys s f).cards = s.cards := rfl
@[simp] theorem modSys_cardTurn (s : State) (f : Sys → Sys) : (modSys s f).cardTurn = s.cardTurn := rfl
@[simp] theorem modSys_parts (s : State) (f : Sys → Sys) : (modSys s f).parts = s.parts := rfl
@[simp] theorem modSys_contexts (s : State) (f : Sys → Sys) : (modSys s f).contexts = s.contexts := rfl
@[simp] theorem modSys_images (s : State) (f : Sys → Sys) : (modSys s f).images = s.images := rfl
@[simp] theorem modSys_launches (s : State) (f : Sys → Sys) : (modSys s f).launches = s.launches := rfl
@[simp] theorem modSys_grans (s : State) (f : Sys → Sys) : (modSys s f).grans = s.grans := rfl
@[simp] theorem modSys_clines (s : State) (f : Sys → Sys) : (modSys s f).clines = s.clines := rfl
@[simp] theorem modSys_ccounts (s : State) (f : Sys → Sys) : (modSys s f).ccounts = s.ccounts := rfl
@[simp] theorem modSys_dieid (s : State) (f : Sys → Sys) : (modSys s f).dieid = s.dieid := rfl
@[simp] theorem modSys_chip (s : State) (f : Sys → Sys) : (modSys s f).chip = s.chip := rfl
@[simp] theorem modSys_routes (s : State) (f : Sys → Sys) : (modSys s f).routes = s.routes := rfl
@[simp] theorem modSys_anchor (s : State) (f : Sys → Sys) : (modSys s f).anchor = s.anchor := rfl
@[simp] theorem modSys_fw (s : State) (f : Sys → Sys) : (modSys s f).fw = s.fw := rfl
@[simp] theorem modSys_power (s : State) (f : Sys → Sys) : (modSys s f).power = s.power := rfl
@[simp] theorem modSys_discards (s : State) (f : Sys → Sys) : (modSys s f).discards = s.discards := rfl
@[simp] theorem modSys_hostData (s : State) (f : Sys → Sys) : (modSys s f).hostData = s.hostData := rfl
@[simp] theorem modSys_nextWave (s : State) (f : Sys → Sys) : (modSys s f).nextWave = s.nextWave := rfl
@[simp] theorem modSys_nextLaunch (s : State) (f : Sys → Sys) : (modSys s f).nextLaunch = s.nextLaunch := rfl
@[simp] theorem modSys_target (s : State) (f : Sys → Sys) : (modSys s f).target = s.target := rfl
@[simp] theorem modSys_agenda (s : State) (f : Sys → Sys) : (modSys s f).agenda = s.agenda := rfl
@[simp] theorem modSys_free (s : State) (f : Sys → Sys) : (modSys s f).free = s.free := rfl
@[simp] theorem modSys_w_id (s : State) (f : Sys → Sys) : (modSys s f).w.id = s.w.id := rfl
@[simp] theorem modSys_w_status (s : State) (f : Sys → Sys) : (modSys s f).w.status = s.w.status := rfl
@[simp] theorem modSys_w_ended (s : State) (f : Sys → Sys) : (modSys s f).w.ended = s.w.ended := rfl
@[simp] theorem modSys_w_preq (s : State) (f : Sys → Sys) : (modSys s f).w.preq = s.w.preq := rfl
@[simp] theorem modSys_w_ctx (s : State) (f : Sys → Sys) : (modSys s f).w.ctx = s.w.ctx := rfl
@[simp] theorem modSys_w_part (s : State) (f : Sys → Sys) : (modSys s f).w.part = s.w.part := rfl
@[simp] theorem modSys_w_launch (s : State) (f : Sys → Sys) : (modSys s f).w.launch = s.w.launch := rfl
@[simp] theorem modSys_w_wg (s : State) (f : Sys → Sys) : (modSys s f).w.wg = s.w.wg := rfl
@[simp] theorem modSys_w_widx (s : State) (f : Sys → Sys) : (modSys s f).w.widx = s.w.widx := rfl
@[simp] theorem modSys_w_kind (s : State) (f : Sys → Sys) : (modSys s f).w.kind = s.w.kind := rfl
@[simp] theorem modSys_w_bound (s : State) (f : Sys → Sys) : (modSys s f).w.bound = s.w.bound := rfl
@[simp] theorem modSys_w_coop (s : State) (f : Sys → Sys) : (modSys s f).w.coop = s.w.coop := rfl
@[simp] theorem modSys_w_prio (s : State) (f : Sys → Sys) : (modSys s f).w.prio = s.w.prio := rfl
@[simp] theorem modSys_w_age (s : State) (f : Sys → Sys) : (modSys s f).w.age = s.w.age := rfl
@[simp] theorem modSys_w_pop (s : State) (f : Sys → Sys) : (modSys s f).w.pop = s.w.pop := rfl
@[simp] theorem modSys_w_rows (s : State) (f : Sys → Sys) : (modSys s f).w.rows = s.w.rows := rfl
@[simp] theorem modSys_w_ephBase (s : State) (f : Sys → Sys) : (modSys s f).w.ephBase = s.w.ephBase := rfl
@[simp] theorem modSys_w_ephCnt (s : State) (f : Sys → Sys) : (modSys s f).w.ephCnt = s.w.ephCnt := rfl
@[simp] theorem modSys_w_sbase (s : State) (f : Sys → Sys) : (modSys s f).w.sbase = s.w.sbase := rfl
@[simp] theorem modSys_w_regs (s : State) (f : Sys → Sys) : (modSys s f).w.regs = s.w.regs := rfl
@[simp] theorem modSys_w_lane (s : State) (f : Sys → Sys) : (modSys s f).w.lane = s.w.lane := rfl
@[simp] theorem modSys_w_handles (s : State) (f : Sys → Sys) : (modSys s f).w.handles = s.w.handles := rfl
@[simp] theorem modSys_w_streams (s : State) (f : Sys → Sys) : (modSys s f).w.streams = s.w.streams := rfl
@[simp] theorem modSys_w_accs (s : State) (f : Sys → Sys) : (modSys s f).w.accs = s.w.accs := rfl
@[simp] theorem modSys_w_accF64 (s : State) (f : Sys → Sys) : (modSys s f).w.accF64 = s.w.accF64 := rfl
@[simp] theorem modSys_w_tiles (s : State) (f : Sys → Sys) : (modSys s f).w.tiles = s.w.tiles := rfl
@[simp] theorem modSys_w_pend (s : State) (f : Sys → Sys) : (modSys s f).w.pend = s.w.pend := rfl
@[simp] theorem modSys_w_bara (s : State) (f : Sys → Sys) : (modSys s f).w.bara = s.w.bara := rfl
@[simp] theorem modSys_w_inBar (s : State) (f : Sys → Sys) : (modSys s f).w.inBar = s.w.inBar := rfl
@[simp] theorem modSys_w_barPub (s : State) (f : Sys → Sys) : (modSys s f).w.barPub = s.w.barPub := rfl
@[simp] theorem modSys_w_frame (s : State) (f : Sys → Sys) : (modSys s f).w.frame = s.w.frame := rfl
@[simp] theorem modSys_w_park (s : State) (f : Sys → Sys) : (modSys s f).w.park = s.w.park := rfl
@[simp] theorem modSys_w_answered (s : State) (f : Sys → Sys) : (modSys s f).w.answered = s.w.answered := rfl
@[simp] theorem modSys_w_owed (s : State) (f : Sys → Sys) : (modSys s f).w.owed = s.w.owed := rfl
@[simp] theorem modSys_w_acq (s : State) (f : Sys → Sys) : (modSys s f).w.acq = s.w.acq := rfl
@[simp] theorem modSys_w_rel (s : State) (f : Sys → Sys) : (modSys s f).w.rel = s.w.rel := rfl
@[simp] theorem modSys_w_seen (s : State) (f : Sys → Sys) : (modSys s f).w.seen = s.w.seen := rfl
@[simp] theorem modSys_w_ticket (s : State) (f : Sys → Sys) : (modSys s f).w.ticket = s.w.ticket := rfl
@[simp] theorem modSys_w_pod (s : State) (f : Sys → Sys) : (modSys s f).w.pod = s.w.pod := rfl
@[simp] theorem modSys_w_task (s : State) (f : Sys → Sys) : (modSys s f).w.task = s.w.task := rfl
@[simp] theorem modSys_w_ep (s : State) (f : Sys → Sys) : (modSys s f).w.ep = s.w.ep := rfl
@[simp] theorem modSys_w_spillIdx (s : State) (f : Sys → Sys) : (modSys s f).w.spillIdx = s.w.spillIdx := rfl
@[simp] theorem modSys_w_epoch (s : State) (f : Sys → Sys) : (modSys s f).w.epoch = s.w.epoch := rfl
@[simp] theorem modSys_w_lastIssue (s : State) (f : Sys → Sys) : (modSys s f).w.lastIssue = s.w.lastIssue := rfl
@[simp] theorem modSys_w_yieldEnd (s : State) (f : Sys → Sys) : (modSys s f).w.yieldEnd = s.w.yieldEnd := rfl
@[simp] theorem modSys_w_starved (s : State) (f : Sys → Sys) : (modSys s f).w.starved = s.w.starved := rfl
@[simp] theorem modSys_w_sys (s : State) (f : Sys → Sys) : (modSys s f).w.sys = f s.w.sys := rfl

/-! ### setS -/

@[simp] theorem setS_waves (s : State) (n : Nat) (x : DWord) : (setS s n x).waves = s.waves := rfl
@[simp] theorem setS_clock (s : State) (n : Nat) (x : DWord) : (setS s n x).clock = s.clock := rfl
@[simp] theorem setS_time (s : State) (n : Nat) (x : DWord) : (setS s n x).time = s.time := rfl
@[simp] theorem setS_decayed (s : State) (n : Nat) (x : DWord) : (setS s n x).decayed = s.decayed := rfl
@[simp] theorem setS_mem (s : State) (n : Nat) (x : DWord) : (setS s n x).mem = s.mem := rfl
@[simp] theorem setS_bad (s : State) (n : Nat) (x : DWord) : (setS s n x).bad = s.bad := rfl
@[simp] theorem setS_cores (s : State) (n : Nat) (x : DWord) : (setS s n x).cores = s.cores := rfl
@[simp] theorem setS_engines (s : State) (n : Nat) (x : DWord) : (setS s n x).engines = s.engines := rfl
@[simp] theorem setS_channels (s : State) (n : Nat) (x : DWord) : (setS s n x).channels = s.channels := rfl
@[simp] theorem setS_cards (s : State) (n : Nat) (x : DWord) : (setS s n x).cards = s.cards := rfl
@[simp] theorem setS_cardTurn (s : State) (n : Nat) (x : DWord) : (setS s n x).cardTurn = s.cardTurn := rfl
@[simp] theorem setS_parts (s : State) (n : Nat) (x : DWord) : (setS s n x).parts = s.parts := rfl
@[simp] theorem setS_contexts (s : State) (n : Nat) (x : DWord) : (setS s n x).contexts = s.contexts := rfl
@[simp] theorem setS_images (s : State) (n : Nat) (x : DWord) : (setS s n x).images = s.images := rfl
@[simp] theorem setS_launches (s : State) (n : Nat) (x : DWord) : (setS s n x).launches = s.launches := rfl
@[simp] theorem setS_grans (s : State) (n : Nat) (x : DWord) : (setS s n x).grans = s.grans := rfl
@[simp] theorem setS_clines (s : State) (n : Nat) (x : DWord) : (setS s n x).clines = s.clines := rfl
@[simp] theorem setS_ccounts (s : State) (n : Nat) (x : DWord) : (setS s n x).ccounts = s.ccounts := rfl
@[simp] theorem setS_dieid (s : State) (n : Nat) (x : DWord) : (setS s n x).dieid = s.dieid := rfl
@[simp] theorem setS_chip (s : State) (n : Nat) (x : DWord) : (setS s n x).chip = s.chip := rfl
@[simp] theorem setS_routes (s : State) (n : Nat) (x : DWord) : (setS s n x).routes = s.routes := rfl
@[simp] theorem setS_anchor (s : State) (n : Nat) (x : DWord) : (setS s n x).anchor = s.anchor := rfl
@[simp] theorem setS_fw (s : State) (n : Nat) (x : DWord) : (setS s n x).fw = s.fw := rfl
@[simp] theorem setS_power (s : State) (n : Nat) (x : DWord) : (setS s n x).power = s.power := rfl
@[simp] theorem setS_discards (s : State) (n : Nat) (x : DWord) : (setS s n x).discards = s.discards := rfl
@[simp] theorem setS_hostData (s : State) (n : Nat) (x : DWord) : (setS s n x).hostData = s.hostData := rfl
@[simp] theorem setS_nextWave (s : State) (n : Nat) (x : DWord) : (setS s n x).nextWave = s.nextWave := rfl
@[simp] theorem setS_nextLaunch (s : State) (n : Nat) (x : DWord) : (setS s n x).nextLaunch = s.nextLaunch := rfl
@[simp] theorem setS_target (s : State) (n : Nat) (x : DWord) : (setS s n x).target = s.target := rfl
@[simp] theorem setS_agenda (s : State) (n : Nat) (x : DWord) : (setS s n x).agenda = s.agenda := rfl
@[simp] theorem setS_free (s : State) (n : Nat) (x : DWord) : (setS s n x).free = s.free := rfl
@[simp] theorem setS_w_id (s : State) (n : Nat) (x : DWord) : (setS s n x).w.id = s.w.id := rfl
@[simp] theorem setS_w_status (s : State) (n : Nat) (x : DWord) : (setS s n x).w.status = s.w.status := rfl
@[simp] theorem setS_w_ended (s : State) (n : Nat) (x : DWord) : (setS s n x).w.ended = s.w.ended := rfl
@[simp] theorem setS_w_preq (s : State) (n : Nat) (x : DWord) : (setS s n x).w.preq = s.w.preq := rfl
@[simp] theorem setS_w_ctx (s : State) (n : Nat) (x : DWord) : (setS s n x).w.ctx = s.w.ctx := rfl
@[simp] theorem setS_w_part (s : State) (n : Nat) (x : DWord) : (setS s n x).w.part = s.w.part := rfl
@[simp] theorem setS_w_launch (s : State) (n : Nat) (x : DWord) : (setS s n x).w.launch = s.w.launch := rfl
@[simp] theorem setS_w_wg (s : State) (n : Nat) (x : DWord) : (setS s n x).w.wg = s.w.wg := rfl
@[simp] theorem setS_w_widx (s : State) (n : Nat) (x : DWord) : (setS s n x).w.widx = s.w.widx := rfl
@[simp] theorem setS_w_kind (s : State) (n : Nat) (x : DWord) : (setS s n x).w.kind = s.w.kind := rfl
@[simp] theorem setS_w_bound (s : State) (n : Nat) (x : DWord) : (setS s n x).w.bound = s.w.bound := rfl
@[simp] theorem setS_w_coop (s : State) (n : Nat) (x : DWord) : (setS s n x).w.coop = s.w.coop := rfl
@[simp] theorem setS_w_prio (s : State) (n : Nat) (x : DWord) : (setS s n x).w.prio = s.w.prio := rfl
@[simp] theorem setS_w_age (s : State) (n : Nat) (x : DWord) : (setS s n x).w.age = s.w.age := rfl
@[simp] theorem setS_w_pop (s : State) (n : Nat) (x : DWord) : (setS s n x).w.pop = s.w.pop := rfl
@[simp] theorem setS_w_rows (s : State) (n : Nat) (x : DWord) : (setS s n x).w.rows = s.w.rows := rfl
@[simp] theorem setS_w_ephBase (s : State) (n : Nat) (x : DWord) : (setS s n x).w.ephBase = s.w.ephBase := rfl
@[simp] theorem setS_w_ephCnt (s : State) (n : Nat) (x : DWord) : (setS s n x).w.ephCnt = s.w.ephCnt := rfl
@[simp] theorem setS_w_sbase (s : State) (n : Nat) (x : DWord) : (setS s n x).w.sbase = s.w.sbase := rfl
@[simp] theorem setS_w_sys (s : State) (n : Nat) (x : DWord) : (setS s n x).w.sys = s.w.sys := rfl
@[simp] theorem setS_w_lane (s : State) (n : Nat) (x : DWord) : (setS s n x).w.lane = s.w.lane := rfl
@[simp] theorem setS_w_handles (s : State) (n : Nat) (x : DWord) : (setS s n x).w.handles = s.w.handles := rfl
@[simp] theorem setS_w_streams (s : State) (n : Nat) (x : DWord) : (setS s n x).w.streams = s.w.streams := rfl
@[simp] theorem setS_w_accs (s : State) (n : Nat) (x : DWord) : (setS s n x).w.accs = s.w.accs := rfl
@[simp] theorem setS_w_accF64 (s : State) (n : Nat) (x : DWord) : (setS s n x).w.accF64 = s.w.accF64 := rfl
@[simp] theorem setS_w_tiles (s : State) (n : Nat) (x : DWord) : (setS s n x).w.tiles = s.w.tiles := rfl
@[simp] theorem setS_w_pend (s : State) (n : Nat) (x : DWord) : (setS s n x).w.pend = s.w.pend := rfl
@[simp] theorem setS_w_bara (s : State) (n : Nat) (x : DWord) : (setS s n x).w.bara = s.w.bara := rfl
@[simp] theorem setS_w_inBar (s : State) (n : Nat) (x : DWord) : (setS s n x).w.inBar = s.w.inBar := rfl
@[simp] theorem setS_w_barPub (s : State) (n : Nat) (x : DWord) : (setS s n x).w.barPub = s.w.barPub := rfl
@[simp] theorem setS_w_frame (s : State) (n : Nat) (x : DWord) : (setS s n x).w.frame = s.w.frame := rfl
@[simp] theorem setS_w_park (s : State) (n : Nat) (x : DWord) : (setS s n x).w.park = s.w.park := rfl
@[simp] theorem setS_w_answered (s : State) (n : Nat) (x : DWord) : (setS s n x).w.answered = s.w.answered := rfl
@[simp] theorem setS_w_owed (s : State) (n : Nat) (x : DWord) : (setS s n x).w.owed = s.w.owed := rfl
@[simp] theorem setS_w_acq (s : State) (n : Nat) (x : DWord) : (setS s n x).w.acq = s.w.acq := rfl
@[simp] theorem setS_w_rel (s : State) (n : Nat) (x : DWord) : (setS s n x).w.rel = s.w.rel := rfl
@[simp] theorem setS_w_seen (s : State) (n : Nat) (x : DWord) : (setS s n x).w.seen = s.w.seen := rfl
@[simp] theorem setS_w_ticket (s : State) (n : Nat) (x : DWord) : (setS s n x).w.ticket = s.w.ticket := rfl
@[simp] theorem setS_w_pod (s : State) (n : Nat) (x : DWord) : (setS s n x).w.pod = s.w.pod := rfl
@[simp] theorem setS_w_task (s : State) (n : Nat) (x : DWord) : (setS s n x).w.task = s.w.task := rfl
@[simp] theorem setS_w_ep (s : State) (n : Nat) (x : DWord) : (setS s n x).w.ep = s.w.ep := rfl
@[simp] theorem setS_w_spillIdx (s : State) (n : Nat) (x : DWord) : (setS s n x).w.spillIdx = s.w.spillIdx := rfl
@[simp] theorem setS_w_epoch (s : State) (n : Nat) (x : DWord) : (setS s n x).w.epoch = s.w.epoch := rfl
@[simp] theorem setS_w_lastIssue (s : State) (n : Nat) (x : DWord) : (setS s n x).w.lastIssue = s.w.lastIssue := rfl
@[simp] theorem setS_w_yieldEnd (s : State) (n : Nat) (x : DWord) : (setS s n x).w.yieldEnd = s.w.yieldEnd := rfl
@[simp] theorem setS_w_starved (s : State) (n : Nat) (x : DWord) : (setS s n x).w.starved = s.w.starved := rfl
@[simp] theorem setS_regs_v (s : State) (n : Nat) (x : DWord) : (setS s n x).w.regs.v = s.w.regs.v := rfl
@[simp] theorem setS_regs_vp (s : State) (n : Nat) (x : DWord) : (setS s n x).w.regs.vp = s.w.regs.vp := rfl
@[simp] theorem setS_regs_bad (s : State) (n : Nat) (x : DWord) : (setS s n x).w.regs.bad = s.w.regs.bad := rfl
@[simp] theorem setS_regs_c (s : State) (n : Nat) (x : DWord) : (setS s n x).w.regs.c = s.w.regs.c := rfl
@[simp] theorem setS_regs_em (s : State) (n : Nat) (x : DWord) : (setS s n x).w.regs.em = s.w.regs.em := rfl
@[simp] theorem setS_regs_spc (s : State) (n : Nat) (x : DWord) : (setS s n x).w.regs.spc = s.w.regs.spc := rfl
@[simp] theorem setS_regs_lpc (s : State) (n : Nat) (x : DWord) : (setS s n x).w.regs.lpc = s.w.regs.lpc := rfl
@[simp] theorem setS_regs_lbase (s : State) (n : Nat) (x : DWord) : (setS s n x).w.regs.lbase = s.w.regs.lbase := rfl
@[simp] theorem setS_regs_mstack (s : State) (n : Nat) (x : DWord) : (setS s n x).w.regs.mstack = s.w.regs.mstack := rfl
@[simp] theorem setS_regs_rstack (s : State) (n : Nat) (x : DWord) : (setS s n x).w.regs.rstack = s.w.regs.rstack := rfl
@[simp] theorem setS_regs_msc (s : State) (n : Nat) (x : DWord) : (setS s n x).w.regs.msc = s.w.regs.msc := rfl
@[simp] theorem setS_regs_rsc (s : State) (n : Nat) (x : DWord) : (setS s n x).w.regs.rsc = s.w.regs.rsc := rfl

/-! ### setC -/

@[simp] theorem setC_waves (s : State) (n : Nat) (b : Bool) : (setC s n b).waves = s.waves := rfl
@[simp] theorem setC_clock (s : State) (n : Nat) (b : Bool) : (setC s n b).clock = s.clock := rfl
@[simp] theorem setC_time (s : State) (n : Nat) (b : Bool) : (setC s n b).time = s.time := rfl
@[simp] theorem setC_decayed (s : State) (n : Nat) (b : Bool) : (setC s n b).decayed = s.decayed := rfl
@[simp] theorem setC_mem (s : State) (n : Nat) (b : Bool) : (setC s n b).mem = s.mem := rfl
@[simp] theorem setC_bad (s : State) (n : Nat) (b : Bool) : (setC s n b).bad = s.bad := rfl
@[simp] theorem setC_cores (s : State) (n : Nat) (b : Bool) : (setC s n b).cores = s.cores := rfl
@[simp] theorem setC_engines (s : State) (n : Nat) (b : Bool) : (setC s n b).engines = s.engines := rfl
@[simp] theorem setC_channels (s : State) (n : Nat) (b : Bool) : (setC s n b).channels = s.channels := rfl
@[simp] theorem setC_cards (s : State) (n : Nat) (b : Bool) : (setC s n b).cards = s.cards := rfl
@[simp] theorem setC_cardTurn (s : State) (n : Nat) (b : Bool) : (setC s n b).cardTurn = s.cardTurn := rfl
@[simp] theorem setC_parts (s : State) (n : Nat) (b : Bool) : (setC s n b).parts = s.parts := rfl
@[simp] theorem setC_contexts (s : State) (n : Nat) (b : Bool) : (setC s n b).contexts = s.contexts := rfl
@[simp] theorem setC_images (s : State) (n : Nat) (b : Bool) : (setC s n b).images = s.images := rfl
@[simp] theorem setC_launches (s : State) (n : Nat) (b : Bool) : (setC s n b).launches = s.launches := rfl
@[simp] theorem setC_grans (s : State) (n : Nat) (b : Bool) : (setC s n b).grans = s.grans := rfl
@[simp] theorem setC_clines (s : State) (n : Nat) (b : Bool) : (setC s n b).clines = s.clines := rfl
@[simp] theorem setC_ccounts (s : State) (n : Nat) (b : Bool) : (setC s n b).ccounts = s.ccounts := rfl
@[simp] theorem setC_dieid (s : State) (n : Nat) (b : Bool) : (setC s n b).dieid = s.dieid := rfl
@[simp] theorem setC_chip (s : State) (n : Nat) (b : Bool) : (setC s n b).chip = s.chip := rfl
@[simp] theorem setC_routes (s : State) (n : Nat) (b : Bool) : (setC s n b).routes = s.routes := rfl
@[simp] theorem setC_anchor (s : State) (n : Nat) (b : Bool) : (setC s n b).anchor = s.anchor := rfl
@[simp] theorem setC_fw (s : State) (n : Nat) (b : Bool) : (setC s n b).fw = s.fw := rfl
@[simp] theorem setC_power (s : State) (n : Nat) (b : Bool) : (setC s n b).power = s.power := rfl
@[simp] theorem setC_discards (s : State) (n : Nat) (b : Bool) : (setC s n b).discards = s.discards := rfl
@[simp] theorem setC_hostData (s : State) (n : Nat) (b : Bool) : (setC s n b).hostData = s.hostData := rfl
@[simp] theorem setC_nextWave (s : State) (n : Nat) (b : Bool) : (setC s n b).nextWave = s.nextWave := rfl
@[simp] theorem setC_nextLaunch (s : State) (n : Nat) (b : Bool) : (setC s n b).nextLaunch = s.nextLaunch := rfl
@[simp] theorem setC_target (s : State) (n : Nat) (b : Bool) : (setC s n b).target = s.target := rfl
@[simp] theorem setC_agenda (s : State) (n : Nat) (b : Bool) : (setC s n b).agenda = s.agenda := rfl
@[simp] theorem setC_free (s : State) (n : Nat) (b : Bool) : (setC s n b).free = s.free := rfl
@[simp] theorem setC_w_id (s : State) (n : Nat) (b : Bool) : (setC s n b).w.id = s.w.id := rfl
@[simp] theorem setC_w_status (s : State) (n : Nat) (b : Bool) : (setC s n b).w.status = s.w.status := rfl
@[simp] theorem setC_w_ended (s : State) (n : Nat) (b : Bool) : (setC s n b).w.ended = s.w.ended := rfl
@[simp] theorem setC_w_preq (s : State) (n : Nat) (b : Bool) : (setC s n b).w.preq = s.w.preq := rfl
@[simp] theorem setC_w_ctx (s : State) (n : Nat) (b : Bool) : (setC s n b).w.ctx = s.w.ctx := rfl
@[simp] theorem setC_w_part (s : State) (n : Nat) (b : Bool) : (setC s n b).w.part = s.w.part := rfl
@[simp] theorem setC_w_launch (s : State) (n : Nat) (b : Bool) : (setC s n b).w.launch = s.w.launch := rfl
@[simp] theorem setC_w_wg (s : State) (n : Nat) (b : Bool) : (setC s n b).w.wg = s.w.wg := rfl
@[simp] theorem setC_w_widx (s : State) (n : Nat) (b : Bool) : (setC s n b).w.widx = s.w.widx := rfl
@[simp] theorem setC_w_kind (s : State) (n : Nat) (b : Bool) : (setC s n b).w.kind = s.w.kind := rfl
@[simp] theorem setC_w_bound (s : State) (n : Nat) (b : Bool) : (setC s n b).w.bound = s.w.bound := rfl
@[simp] theorem setC_w_coop (s : State) (n : Nat) (b : Bool) : (setC s n b).w.coop = s.w.coop := rfl
@[simp] theorem setC_w_prio (s : State) (n : Nat) (b : Bool) : (setC s n b).w.prio = s.w.prio := rfl
@[simp] theorem setC_w_age (s : State) (n : Nat) (b : Bool) : (setC s n b).w.age = s.w.age := rfl
@[simp] theorem setC_w_pop (s : State) (n : Nat) (b : Bool) : (setC s n b).w.pop = s.w.pop := rfl
@[simp] theorem setC_w_rows (s : State) (n : Nat) (b : Bool) : (setC s n b).w.rows = s.w.rows := rfl
@[simp] theorem setC_w_ephBase (s : State) (n : Nat) (b : Bool) : (setC s n b).w.ephBase = s.w.ephBase := rfl
@[simp] theorem setC_w_ephCnt (s : State) (n : Nat) (b : Bool) : (setC s n b).w.ephCnt = s.w.ephCnt := rfl
@[simp] theorem setC_w_sbase (s : State) (n : Nat) (b : Bool) : (setC s n b).w.sbase = s.w.sbase := rfl
@[simp] theorem setC_w_sys (s : State) (n : Nat) (b : Bool) : (setC s n b).w.sys = s.w.sys := rfl
@[simp] theorem setC_w_lane (s : State) (n : Nat) (b : Bool) : (setC s n b).w.lane = s.w.lane := rfl
@[simp] theorem setC_w_handles (s : State) (n : Nat) (b : Bool) : (setC s n b).w.handles = s.w.handles := rfl
@[simp] theorem setC_w_streams (s : State) (n : Nat) (b : Bool) : (setC s n b).w.streams = s.w.streams := rfl
@[simp] theorem setC_w_accs (s : State) (n : Nat) (b : Bool) : (setC s n b).w.accs = s.w.accs := rfl
@[simp] theorem setC_w_accF64 (s : State) (n : Nat) (b : Bool) : (setC s n b).w.accF64 = s.w.accF64 := rfl
@[simp] theorem setC_w_tiles (s : State) (n : Nat) (b : Bool) : (setC s n b).w.tiles = s.w.tiles := rfl
@[simp] theorem setC_w_pend (s : State) (n : Nat) (b : Bool) : (setC s n b).w.pend = s.w.pend := rfl
@[simp] theorem setC_w_bara (s : State) (n : Nat) (b : Bool) : (setC s n b).w.bara = s.w.bara := rfl
@[simp] theorem setC_w_inBar (s : State) (n : Nat) (b : Bool) : (setC s n b).w.inBar = s.w.inBar := rfl
@[simp] theorem setC_w_barPub (s : State) (n : Nat) (b : Bool) : (setC s n b).w.barPub = s.w.barPub := rfl
@[simp] theorem setC_w_frame (s : State) (n : Nat) (b : Bool) : (setC s n b).w.frame = s.w.frame := rfl
@[simp] theorem setC_w_park (s : State) (n : Nat) (b : Bool) : (setC s n b).w.park = s.w.park := rfl
@[simp] theorem setC_w_answered (s : State) (n : Nat) (b : Bool) : (setC s n b).w.answered = s.w.answered := rfl
@[simp] theorem setC_w_owed (s : State) (n : Nat) (b : Bool) : (setC s n b).w.owed = s.w.owed := rfl
@[simp] theorem setC_w_acq (s : State) (n : Nat) (b : Bool) : (setC s n b).w.acq = s.w.acq := rfl
@[simp] theorem setC_w_rel (s : State) (n : Nat) (b : Bool) : (setC s n b).w.rel = s.w.rel := rfl
@[simp] theorem setC_w_seen (s : State) (n : Nat) (b : Bool) : (setC s n b).w.seen = s.w.seen := rfl
@[simp] theorem setC_w_ticket (s : State) (n : Nat) (b : Bool) : (setC s n b).w.ticket = s.w.ticket := rfl
@[simp] theorem setC_w_pod (s : State) (n : Nat) (b : Bool) : (setC s n b).w.pod = s.w.pod := rfl
@[simp] theorem setC_w_task (s : State) (n : Nat) (b : Bool) : (setC s n b).w.task = s.w.task := rfl
@[simp] theorem setC_w_ep (s : State) (n : Nat) (b : Bool) : (setC s n b).w.ep = s.w.ep := rfl
@[simp] theorem setC_w_spillIdx (s : State) (n : Nat) (b : Bool) : (setC s n b).w.spillIdx = s.w.spillIdx := rfl
@[simp] theorem setC_w_epoch (s : State) (n : Nat) (b : Bool) : (setC s n b).w.epoch = s.w.epoch := rfl
@[simp] theorem setC_w_lastIssue (s : State) (n : Nat) (b : Bool) : (setC s n b).w.lastIssue = s.w.lastIssue := rfl
@[simp] theorem setC_w_yieldEnd (s : State) (n : Nat) (b : Bool) : (setC s n b).w.yieldEnd = s.w.yieldEnd := rfl
@[simp] theorem setC_w_starved (s : State) (n : Nat) (b : Bool) : (setC s n b).w.starved = s.w.starved := rfl
@[simp] theorem setC_regs_s (s : State) (n : Nat) (b : Bool) : (setC s n b).w.regs.s = s.w.regs.s := rfl
@[simp] theorem setC_regs_v (s : State) (n : Nat) (b : Bool) : (setC s n b).w.regs.v = s.w.regs.v := rfl
@[simp] theorem setC_regs_vp (s : State) (n : Nat) (b : Bool) : (setC s n b).w.regs.vp = s.w.regs.vp := rfl
@[simp] theorem setC_regs_bad (s : State) (n : Nat) (b : Bool) : (setC s n b).w.regs.bad = s.w.regs.bad := rfl
@[simp] theorem setC_regs_em (s : State) (n : Nat) (b : Bool) : (setC s n b).w.regs.em = s.w.regs.em := rfl
@[simp] theorem setC_regs_spc (s : State) (n : Nat) (b : Bool) : (setC s n b).w.regs.spc = s.w.regs.spc := rfl
@[simp] theorem setC_regs_lpc (s : State) (n : Nat) (b : Bool) : (setC s n b).w.regs.lpc = s.w.regs.lpc := rfl
@[simp] theorem setC_regs_lbase (s : State) (n : Nat) (b : Bool) : (setC s n b).w.regs.lbase = s.w.regs.lbase := rfl
@[simp] theorem setC_regs_mstack (s : State) (n : Nat) (b : Bool) : (setC s n b).w.regs.mstack = s.w.regs.mstack := rfl
@[simp] theorem setC_regs_rstack (s : State) (n : Nat) (b : Bool) : (setC s n b).w.regs.rstack = s.w.regs.rstack := rfl
@[simp] theorem setC_regs_msc (s : State) (n : Nat) (b : Bool) : (setC s n b).w.regs.msc = s.w.regs.msc := rfl
@[simp] theorem setC_regs_rsc (s : State) (n : Nat) (b : Bool) : (setC s n b).w.regs.rsc = s.w.regs.rsc := rfl

/-! ### setEm -/

@[simp] theorem setEm_waves (s : State) (m : Word) : (setEm s m).waves = s.waves := rfl
@[simp] theorem setEm_clock (s : State) (m : Word) : (setEm s m).clock = s.clock := rfl
@[simp] theorem setEm_time (s : State) (m : Word) : (setEm s m).time = s.time := rfl
@[simp] theorem setEm_decayed (s : State) (m : Word) : (setEm s m).decayed = s.decayed := rfl
@[simp] theorem setEm_mem (s : State) (m : Word) : (setEm s m).mem = s.mem := rfl
@[simp] theorem setEm_bad (s : State) (m : Word) : (setEm s m).bad = s.bad := rfl
@[simp] theorem setEm_cores (s : State) (m : Word) : (setEm s m).cores = s.cores := rfl
@[simp] theorem setEm_engines (s : State) (m : Word) : (setEm s m).engines = s.engines := rfl
@[simp] theorem setEm_channels (s : State) (m : Word) : (setEm s m).channels = s.channels := rfl
@[simp] theorem setEm_cards (s : State) (m : Word) : (setEm s m).cards = s.cards := rfl
@[simp] theorem setEm_cardTurn (s : State) (m : Word) : (setEm s m).cardTurn = s.cardTurn := rfl
@[simp] theorem setEm_parts (s : State) (m : Word) : (setEm s m).parts = s.parts := rfl
@[simp] theorem setEm_contexts (s : State) (m : Word) : (setEm s m).contexts = s.contexts := rfl
@[simp] theorem setEm_images (s : State) (m : Word) : (setEm s m).images = s.images := rfl
@[simp] theorem setEm_launches (s : State) (m : Word) : (setEm s m).launches = s.launches := rfl
@[simp] theorem setEm_grans (s : State) (m : Word) : (setEm s m).grans = s.grans := rfl
@[simp] theorem setEm_clines (s : State) (m : Word) : (setEm s m).clines = s.clines := rfl
@[simp] theorem setEm_ccounts (s : State) (m : Word) : (setEm s m).ccounts = s.ccounts := rfl
@[simp] theorem setEm_dieid (s : State) (m : Word) : (setEm s m).dieid = s.dieid := rfl
@[simp] theorem setEm_chip (s : State) (m : Word) : (setEm s m).chip = s.chip := rfl
@[simp] theorem setEm_routes (s : State) (m : Word) : (setEm s m).routes = s.routes := rfl
@[simp] theorem setEm_anchor (s : State) (m : Word) : (setEm s m).anchor = s.anchor := rfl
@[simp] theorem setEm_fw (s : State) (m : Word) : (setEm s m).fw = s.fw := rfl
@[simp] theorem setEm_power (s : State) (m : Word) : (setEm s m).power = s.power := rfl
@[simp] theorem setEm_discards (s : State) (m : Word) : (setEm s m).discards = s.discards := rfl
@[simp] theorem setEm_hostData (s : State) (m : Word) : (setEm s m).hostData = s.hostData := rfl
@[simp] theorem setEm_nextWave (s : State) (m : Word) : (setEm s m).nextWave = s.nextWave := rfl
@[simp] theorem setEm_nextLaunch (s : State) (m : Word) : (setEm s m).nextLaunch = s.nextLaunch := rfl
@[simp] theorem setEm_target (s : State) (m : Word) : (setEm s m).target = s.target := rfl
@[simp] theorem setEm_agenda (s : State) (m : Word) : (setEm s m).agenda = s.agenda := rfl
@[simp] theorem setEm_free (s : State) (m : Word) : (setEm s m).free = s.free := rfl
@[simp] theorem setEm_w_id (s : State) (m : Word) : (setEm s m).w.id = s.w.id := rfl
@[simp] theorem setEm_w_status (s : State) (m : Word) : (setEm s m).w.status = s.w.status := rfl
@[simp] theorem setEm_w_ended (s : State) (m : Word) : (setEm s m).w.ended = s.w.ended := rfl
@[simp] theorem setEm_w_preq (s : State) (m : Word) : (setEm s m).w.preq = s.w.preq := rfl
@[simp] theorem setEm_w_ctx (s : State) (m : Word) : (setEm s m).w.ctx = s.w.ctx := rfl
@[simp] theorem setEm_w_part (s : State) (m : Word) : (setEm s m).w.part = s.w.part := rfl
@[simp] theorem setEm_w_launch (s : State) (m : Word) : (setEm s m).w.launch = s.w.launch := rfl
@[simp] theorem setEm_w_wg (s : State) (m : Word) : (setEm s m).w.wg = s.w.wg := rfl
@[simp] theorem setEm_w_widx (s : State) (m : Word) : (setEm s m).w.widx = s.w.widx := rfl
@[simp] theorem setEm_w_kind (s : State) (m : Word) : (setEm s m).w.kind = s.w.kind := rfl
@[simp] theorem setEm_w_bound (s : State) (m : Word) : (setEm s m).w.bound = s.w.bound := rfl
@[simp] theorem setEm_w_coop (s : State) (m : Word) : (setEm s m).w.coop = s.w.coop := rfl
@[simp] theorem setEm_w_prio (s : State) (m : Word) : (setEm s m).w.prio = s.w.prio := rfl
@[simp] theorem setEm_w_age (s : State) (m : Word) : (setEm s m).w.age = s.w.age := rfl
@[simp] theorem setEm_w_pop (s : State) (m : Word) : (setEm s m).w.pop = s.w.pop := rfl
@[simp] theorem setEm_w_rows (s : State) (m : Word) : (setEm s m).w.rows = s.w.rows := rfl
@[simp] theorem setEm_w_ephBase (s : State) (m : Word) : (setEm s m).w.ephBase = s.w.ephBase := rfl
@[simp] theorem setEm_w_ephCnt (s : State) (m : Word) : (setEm s m).w.ephCnt = s.w.ephCnt := rfl
@[simp] theorem setEm_w_sbase (s : State) (m : Word) : (setEm s m).w.sbase = s.w.sbase := rfl
@[simp] theorem setEm_w_sys (s : State) (m : Word) : (setEm s m).w.sys = s.w.sys := rfl
@[simp] theorem setEm_w_lane (s : State) (m : Word) : (setEm s m).w.lane = s.w.lane := rfl
@[simp] theorem setEm_w_handles (s : State) (m : Word) : (setEm s m).w.handles = s.w.handles := rfl
@[simp] theorem setEm_w_streams (s : State) (m : Word) : (setEm s m).w.streams = s.w.streams := rfl
@[simp] theorem setEm_w_accs (s : State) (m : Word) : (setEm s m).w.accs = s.w.accs := rfl
@[simp] theorem setEm_w_accF64 (s : State) (m : Word) : (setEm s m).w.accF64 = s.w.accF64 := rfl
@[simp] theorem setEm_w_tiles (s : State) (m : Word) : (setEm s m).w.tiles = s.w.tiles := rfl
@[simp] theorem setEm_w_pend (s : State) (m : Word) : (setEm s m).w.pend = s.w.pend := rfl
@[simp] theorem setEm_w_bara (s : State) (m : Word) : (setEm s m).w.bara = s.w.bara := rfl
@[simp] theorem setEm_w_inBar (s : State) (m : Word) : (setEm s m).w.inBar = s.w.inBar := rfl
@[simp] theorem setEm_w_barPub (s : State) (m : Word) : (setEm s m).w.barPub = s.w.barPub := rfl
@[simp] theorem setEm_w_frame (s : State) (m : Word) : (setEm s m).w.frame = s.w.frame := rfl
@[simp] theorem setEm_w_park (s : State) (m : Word) : (setEm s m).w.park = s.w.park := rfl
@[simp] theorem setEm_w_answered (s : State) (m : Word) : (setEm s m).w.answered = s.w.answered := rfl
@[simp] theorem setEm_w_owed (s : State) (m : Word) : (setEm s m).w.owed = s.w.owed := rfl
@[simp] theorem setEm_w_acq (s : State) (m : Word) : (setEm s m).w.acq = s.w.acq := rfl
@[simp] theorem setEm_w_rel (s : State) (m : Word) : (setEm s m).w.rel = s.w.rel := rfl
@[simp] theorem setEm_w_seen (s : State) (m : Word) : (setEm s m).w.seen = s.w.seen := rfl
@[simp] theorem setEm_w_ticket (s : State) (m : Word) : (setEm s m).w.ticket = s.w.ticket := rfl
@[simp] theorem setEm_w_pod (s : State) (m : Word) : (setEm s m).w.pod = s.w.pod := rfl
@[simp] theorem setEm_w_task (s : State) (m : Word) : (setEm s m).w.task = s.w.task := rfl
@[simp] theorem setEm_w_ep (s : State) (m : Word) : (setEm s m).w.ep = s.w.ep := rfl
@[simp] theorem setEm_w_spillIdx (s : State) (m : Word) : (setEm s m).w.spillIdx = s.w.spillIdx := rfl
@[simp] theorem setEm_w_epoch (s : State) (m : Word) : (setEm s m).w.epoch = s.w.epoch := rfl
@[simp] theorem setEm_w_lastIssue (s : State) (m : Word) : (setEm s m).w.lastIssue = s.w.lastIssue := rfl
@[simp] theorem setEm_w_yieldEnd (s : State) (m : Word) : (setEm s m).w.yieldEnd = s.w.yieldEnd := rfl
@[simp] theorem setEm_w_starved (s : State) (m : Word) : (setEm s m).w.starved = s.w.starved := rfl
@[simp] theorem setEm_regs_s (s : State) (m : Word) : (setEm s m).w.regs.s = s.w.regs.s := rfl
@[simp] theorem setEm_regs_v (s : State) (m : Word) : (setEm s m).w.regs.v = s.w.regs.v := rfl
@[simp] theorem setEm_regs_vp (s : State) (m : Word) : (setEm s m).w.regs.vp = s.w.regs.vp := rfl
@[simp] theorem setEm_regs_bad (s : State) (m : Word) : (setEm s m).w.regs.bad = s.w.regs.bad := rfl
@[simp] theorem setEm_regs_c (s : State) (m : Word) : (setEm s m).w.regs.c = s.w.regs.c := rfl
@[simp] theorem setEm_regs_spc (s : State) (m : Word) : (setEm s m).w.regs.spc = s.w.regs.spc := rfl
@[simp] theorem setEm_regs_lpc (s : State) (m : Word) : (setEm s m).w.regs.lpc = s.w.regs.lpc := rfl
@[simp] theorem setEm_regs_lbase (s : State) (m : Word) : (setEm s m).w.regs.lbase = s.w.regs.lbase := rfl
@[simp] theorem setEm_regs_mstack (s : State) (m : Word) : (setEm s m).w.regs.mstack = s.w.regs.mstack := rfl
@[simp] theorem setEm_regs_rstack (s : State) (m : Word) : (setEm s m).w.regs.rstack = s.w.regs.rstack := rfl
@[simp] theorem setEm_regs_msc (s : State) (m : Word) : (setEm s m).w.regs.msc = s.w.regs.msc := rfl
@[simp] theorem setEm_regs_rsc (s : State) (m : Word) : (setEm s m).w.regs.rsc = s.w.regs.rsc := rfl

/-! ### setVp -/

@[simp] theorem setVp_waves (s : State) (n : Nat) (m : Word) : (setVp s n m).waves = s.waves := rfl
@[simp] theorem setVp_clock (s : State) (n : Nat) (m : Word) : (setVp s n m).clock = s.clock := rfl
@[simp] theorem setVp_time (s : State) (n : Nat) (m : Word) : (setVp s n m).time = s.time := rfl
@[simp] theorem setVp_decayed (s : State) (n : Nat) (m : Word) : (setVp s n m).decayed = s.decayed := rfl
@[simp] theorem setVp_mem (s : State) (n : Nat) (m : Word) : (setVp s n m).mem = s.mem := rfl
@[simp] theorem setVp_bad (s : State) (n : Nat) (m : Word) : (setVp s n m).bad = s.bad := rfl
@[simp] theorem setVp_cores (s : State) (n : Nat) (m : Word) : (setVp s n m).cores = s.cores := rfl
@[simp] theorem setVp_engines (s : State) (n : Nat) (m : Word) : (setVp s n m).engines = s.engines := rfl
@[simp] theorem setVp_channels (s : State) (n : Nat) (m : Word) : (setVp s n m).channels = s.channels := rfl
@[simp] theorem setVp_cards (s : State) (n : Nat) (m : Word) : (setVp s n m).cards = s.cards := rfl
@[simp] theorem setVp_cardTurn (s : State) (n : Nat) (m : Word) : (setVp s n m).cardTurn = s.cardTurn := rfl
@[simp] theorem setVp_parts (s : State) (n : Nat) (m : Word) : (setVp s n m).parts = s.parts := rfl
@[simp] theorem setVp_contexts (s : State) (n : Nat) (m : Word) : (setVp s n m).contexts = s.contexts := rfl
@[simp] theorem setVp_images (s : State) (n : Nat) (m : Word) : (setVp s n m).images = s.images := rfl
@[simp] theorem setVp_launches (s : State) (n : Nat) (m : Word) : (setVp s n m).launches = s.launches := rfl
@[simp] theorem setVp_grans (s : State) (n : Nat) (m : Word) : (setVp s n m).grans = s.grans := rfl
@[simp] theorem setVp_clines (s : State) (n : Nat) (m : Word) : (setVp s n m).clines = s.clines := rfl
@[simp] theorem setVp_ccounts (s : State) (n : Nat) (m : Word) : (setVp s n m).ccounts = s.ccounts := rfl
@[simp] theorem setVp_dieid (s : State) (n : Nat) (m : Word) : (setVp s n m).dieid = s.dieid := rfl
@[simp] theorem setVp_chip (s : State) (n : Nat) (m : Word) : (setVp s n m).chip = s.chip := rfl
@[simp] theorem setVp_routes (s : State) (n : Nat) (m : Word) : (setVp s n m).routes = s.routes := rfl
@[simp] theorem setVp_anchor (s : State) (n : Nat) (m : Word) : (setVp s n m).anchor = s.anchor := rfl
@[simp] theorem setVp_fw (s : State) (n : Nat) (m : Word) : (setVp s n m).fw = s.fw := rfl
@[simp] theorem setVp_power (s : State) (n : Nat) (m : Word) : (setVp s n m).power = s.power := rfl
@[simp] theorem setVp_discards (s : State) (n : Nat) (m : Word) : (setVp s n m).discards = s.discards := rfl
@[simp] theorem setVp_hostData (s : State) (n : Nat) (m : Word) : (setVp s n m).hostData = s.hostData := rfl
@[simp] theorem setVp_nextWave (s : State) (n : Nat) (m : Word) : (setVp s n m).nextWave = s.nextWave := rfl
@[simp] theorem setVp_nextLaunch (s : State) (n : Nat) (m : Word) : (setVp s n m).nextLaunch = s.nextLaunch := rfl
@[simp] theorem setVp_target (s : State) (n : Nat) (m : Word) : (setVp s n m).target = s.target := rfl
@[simp] theorem setVp_agenda (s : State) (n : Nat) (m : Word) : (setVp s n m).agenda = s.agenda := rfl
@[simp] theorem setVp_free (s : State) (n : Nat) (m : Word) : (setVp s n m).free = s.free := rfl
@[simp] theorem setVp_w_id (s : State) (n : Nat) (m : Word) : (setVp s n m).w.id = s.w.id := rfl
@[simp] theorem setVp_w_status (s : State) (n : Nat) (m : Word) : (setVp s n m).w.status = s.w.status := rfl
@[simp] theorem setVp_w_ended (s : State) (n : Nat) (m : Word) : (setVp s n m).w.ended = s.w.ended := rfl
@[simp] theorem setVp_w_preq (s : State) (n : Nat) (m : Word) : (setVp s n m).w.preq = s.w.preq := rfl
@[simp] theorem setVp_w_ctx (s : State) (n : Nat) (m : Word) : (setVp s n m).w.ctx = s.w.ctx := rfl
@[simp] theorem setVp_w_part (s : State) (n : Nat) (m : Word) : (setVp s n m).w.part = s.w.part := rfl
@[simp] theorem setVp_w_launch (s : State) (n : Nat) (m : Word) : (setVp s n m).w.launch = s.w.launch := rfl
@[simp] theorem setVp_w_wg (s : State) (n : Nat) (m : Word) : (setVp s n m).w.wg = s.w.wg := rfl
@[simp] theorem setVp_w_widx (s : State) (n : Nat) (m : Word) : (setVp s n m).w.widx = s.w.widx := rfl
@[simp] theorem setVp_w_kind (s : State) (n : Nat) (m : Word) : (setVp s n m).w.kind = s.w.kind := rfl
@[simp] theorem setVp_w_bound (s : State) (n : Nat) (m : Word) : (setVp s n m).w.bound = s.w.bound := rfl
@[simp] theorem setVp_w_coop (s : State) (n : Nat) (m : Word) : (setVp s n m).w.coop = s.w.coop := rfl
@[simp] theorem setVp_w_prio (s : State) (n : Nat) (m : Word) : (setVp s n m).w.prio = s.w.prio := rfl
@[simp] theorem setVp_w_age (s : State) (n : Nat) (m : Word) : (setVp s n m).w.age = s.w.age := rfl
@[simp] theorem setVp_w_pop (s : State) (n : Nat) (m : Word) : (setVp s n m).w.pop = s.w.pop := rfl
@[simp] theorem setVp_w_rows (s : State) (n : Nat) (m : Word) : (setVp s n m).w.rows = s.w.rows := rfl
@[simp] theorem setVp_w_ephBase (s : State) (n : Nat) (m : Word) : (setVp s n m).w.ephBase = s.w.ephBase := rfl
@[simp] theorem setVp_w_ephCnt (s : State) (n : Nat) (m : Word) : (setVp s n m).w.ephCnt = s.w.ephCnt := rfl
@[simp] theorem setVp_w_sbase (s : State) (n : Nat) (m : Word) : (setVp s n m).w.sbase = s.w.sbase := rfl
@[simp] theorem setVp_w_sys (s : State) (n : Nat) (m : Word) : (setVp s n m).w.sys = s.w.sys := rfl
@[simp] theorem setVp_w_lane (s : State) (n : Nat) (m : Word) : (setVp s n m).w.lane = s.w.lane := rfl
@[simp] theorem setVp_w_handles (s : State) (n : Nat) (m : Word) : (setVp s n m).w.handles = s.w.handles := rfl
@[simp] theorem setVp_w_streams (s : State) (n : Nat) (m : Word) : (setVp s n m).w.streams = s.w.streams := rfl
@[simp] theorem setVp_w_accs (s : State) (n : Nat) (m : Word) : (setVp s n m).w.accs = s.w.accs := rfl
@[simp] theorem setVp_w_accF64 (s : State) (n : Nat) (m : Word) : (setVp s n m).w.accF64 = s.w.accF64 := rfl
@[simp] theorem setVp_w_tiles (s : State) (n : Nat) (m : Word) : (setVp s n m).w.tiles = s.w.tiles := rfl
@[simp] theorem setVp_w_pend (s : State) (n : Nat) (m : Word) : (setVp s n m).w.pend = s.w.pend := rfl
@[simp] theorem setVp_w_bara (s : State) (n : Nat) (m : Word) : (setVp s n m).w.bara = s.w.bara := rfl
@[simp] theorem setVp_w_inBar (s : State) (n : Nat) (m : Word) : (setVp s n m).w.inBar = s.w.inBar := rfl
@[simp] theorem setVp_w_barPub (s : State) (n : Nat) (m : Word) : (setVp s n m).w.barPub = s.w.barPub := rfl
@[simp] theorem setVp_w_frame (s : State) (n : Nat) (m : Word) : (setVp s n m).w.frame = s.w.frame := rfl
@[simp] theorem setVp_w_park (s : State) (n : Nat) (m : Word) : (setVp s n m).w.park = s.w.park := rfl
@[simp] theorem setVp_w_answered (s : State) (n : Nat) (m : Word) : (setVp s n m).w.answered = s.w.answered := rfl
@[simp] theorem setVp_w_owed (s : State) (n : Nat) (m : Word) : (setVp s n m).w.owed = s.w.owed := rfl
@[simp] theorem setVp_w_acq (s : State) (n : Nat) (m : Word) : (setVp s n m).w.acq = s.w.acq := rfl
@[simp] theorem setVp_w_rel (s : State) (n : Nat) (m : Word) : (setVp s n m).w.rel = s.w.rel := rfl
@[simp] theorem setVp_w_seen (s : State) (n : Nat) (m : Word) : (setVp s n m).w.seen = s.w.seen := rfl
@[simp] theorem setVp_w_ticket (s : State) (n : Nat) (m : Word) : (setVp s n m).w.ticket = s.w.ticket := rfl
@[simp] theorem setVp_w_pod (s : State) (n : Nat) (m : Word) : (setVp s n m).w.pod = s.w.pod := rfl
@[simp] theorem setVp_w_task (s : State) (n : Nat) (m : Word) : (setVp s n m).w.task = s.w.task := rfl
@[simp] theorem setVp_w_ep (s : State) (n : Nat) (m : Word) : (setVp s n m).w.ep = s.w.ep := rfl
@[simp] theorem setVp_w_spillIdx (s : State) (n : Nat) (m : Word) : (setVp s n m).w.spillIdx = s.w.spillIdx := rfl
@[simp] theorem setVp_w_epoch (s : State) (n : Nat) (m : Word) : (setVp s n m).w.epoch = s.w.epoch := rfl
@[simp] theorem setVp_w_lastIssue (s : State) (n : Nat) (m : Word) : (setVp s n m).w.lastIssue = s.w.lastIssue := rfl
@[simp] theorem setVp_w_yieldEnd (s : State) (n : Nat) (m : Word) : (setVp s n m).w.yieldEnd = s.w.yieldEnd := rfl
@[simp] theorem setVp_w_starved (s : State) (n : Nat) (m : Word) : (setVp s n m).w.starved = s.w.starved := rfl
@[simp] theorem setVp_regs_s (s : State) (n : Nat) (m : Word) : (setVp s n m).w.regs.s = s.w.regs.s := rfl
@[simp] theorem setVp_regs_v (s : State) (n : Nat) (m : Word) : (setVp s n m).w.regs.v = s.w.regs.v := rfl
@[simp] theorem setVp_regs_bad (s : State) (n : Nat) (m : Word) : (setVp s n m).w.regs.bad = s.w.regs.bad := rfl
@[simp] theorem setVp_regs_c (s : State) (n : Nat) (m : Word) : (setVp s n m).w.regs.c = s.w.regs.c := rfl
@[simp] theorem setVp_regs_em (s : State) (n : Nat) (m : Word) : (setVp s n m).w.regs.em = s.w.regs.em := rfl
@[simp] theorem setVp_regs_spc (s : State) (n : Nat) (m : Word) : (setVp s n m).w.regs.spc = s.w.regs.spc := rfl
@[simp] theorem setVp_regs_lpc (s : State) (n : Nat) (m : Word) : (setVp s n m).w.regs.lpc = s.w.regs.lpc := rfl
@[simp] theorem setVp_regs_lbase (s : State) (n : Nat) (m : Word) : (setVp s n m).w.regs.lbase = s.w.regs.lbase := rfl
@[simp] theorem setVp_regs_mstack (s : State) (n : Nat) (m : Word) : (setVp s n m).w.regs.mstack = s.w.regs.mstack := rfl
@[simp] theorem setVp_regs_rstack (s : State) (n : Nat) (m : Word) : (setVp s n m).w.regs.rstack = s.w.regs.rstack := rfl
@[simp] theorem setVp_regs_msc (s : State) (n : Nat) (m : Word) : (setVp s n m).w.regs.msc = s.w.regs.msc := rfl
@[simp] theorem setVp_regs_rsc (s : State) (n : Nat) (m : Word) : (setVp s n m).w.regs.rsc = s.w.regs.rsc := rfl

/-! ### setV -/

@[simp] theorem setV_waves (s : State) (r i : Nat) (x : Word) : (setV s r i x).waves = s.waves := rfl
@[simp] theorem setV_clock (s : State) (r i : Nat) (x : Word) : (setV s r i x).clock = s.clock := rfl
@[simp] theorem setV_time (s : State) (r i : Nat) (x : Word) : (setV s r i x).time = s.time := rfl
@[simp] theorem setV_decayed (s : State) (r i : Nat) (x : Word) : (setV s r i x).decayed = s.decayed := rfl
@[simp] theorem setV_mem (s : State) (r i : Nat) (x : Word) : (setV s r i x).mem = s.mem := rfl
@[simp] theorem setV_bad (s : State) (r i : Nat) (x : Word) : (setV s r i x).bad = s.bad := rfl
@[simp] theorem setV_cores (s : State) (r i : Nat) (x : Word) : (setV s r i x).cores = s.cores := rfl
@[simp] theorem setV_engines (s : State) (r i : Nat) (x : Word) : (setV s r i x).engines = s.engines := rfl
@[simp] theorem setV_channels (s : State) (r i : Nat) (x : Word) : (setV s r i x).channels = s.channels := rfl
@[simp] theorem setV_cards (s : State) (r i : Nat) (x : Word) : (setV s r i x).cards = s.cards := rfl
@[simp] theorem setV_cardTurn (s : State) (r i : Nat) (x : Word) : (setV s r i x).cardTurn = s.cardTurn := rfl
@[simp] theorem setV_parts (s : State) (r i : Nat) (x : Word) : (setV s r i x).parts = s.parts := rfl
@[simp] theorem setV_contexts (s : State) (r i : Nat) (x : Word) : (setV s r i x).contexts = s.contexts := rfl
@[simp] theorem setV_images (s : State) (r i : Nat) (x : Word) : (setV s r i x).images = s.images := rfl
@[simp] theorem setV_launches (s : State) (r i : Nat) (x : Word) : (setV s r i x).launches = s.launches := rfl
@[simp] theorem setV_grans (s : State) (r i : Nat) (x : Word) : (setV s r i x).grans = s.grans := rfl
@[simp] theorem setV_clines (s : State) (r i : Nat) (x : Word) : (setV s r i x).clines = s.clines := rfl
@[simp] theorem setV_ccounts (s : State) (r i : Nat) (x : Word) : (setV s r i x).ccounts = s.ccounts := rfl
@[simp] theorem setV_dieid (s : State) (r i : Nat) (x : Word) : (setV s r i x).dieid = s.dieid := rfl
@[simp] theorem setV_chip (s : State) (r i : Nat) (x : Word) : (setV s r i x).chip = s.chip := rfl
@[simp] theorem setV_routes (s : State) (r i : Nat) (x : Word) : (setV s r i x).routes = s.routes := rfl
@[simp] theorem setV_anchor (s : State) (r i : Nat) (x : Word) : (setV s r i x).anchor = s.anchor := rfl
@[simp] theorem setV_fw (s : State) (r i : Nat) (x : Word) : (setV s r i x).fw = s.fw := rfl
@[simp] theorem setV_power (s : State) (r i : Nat) (x : Word) : (setV s r i x).power = s.power := rfl
@[simp] theorem setV_discards (s : State) (r i : Nat) (x : Word) : (setV s r i x).discards = s.discards := rfl
@[simp] theorem setV_hostData (s : State) (r i : Nat) (x : Word) : (setV s r i x).hostData = s.hostData := rfl
@[simp] theorem setV_nextWave (s : State) (r i : Nat) (x : Word) : (setV s r i x).nextWave = s.nextWave := rfl
@[simp] theorem setV_nextLaunch (s : State) (r i : Nat) (x : Word) : (setV s r i x).nextLaunch = s.nextLaunch := rfl
@[simp] theorem setV_target (s : State) (r i : Nat) (x : Word) : (setV s r i x).target = s.target := rfl
@[simp] theorem setV_agenda (s : State) (r i : Nat) (x : Word) : (setV s r i x).agenda = s.agenda := rfl
@[simp] theorem setV_free (s : State) (r i : Nat) (x : Word) : (setV s r i x).free = s.free := rfl
@[simp] theorem setV_w_id (s : State) (r i : Nat) (x : Word) : (setV s r i x).w.id = s.w.id := rfl
@[simp] theorem setV_w_status (s : State) (r i : Nat) (x : Word) : (setV s r i x).w.status = s.w.status := rfl
@[simp] theorem setV_w_ended (s : State) (r i : Nat) (x : Word) : (setV s r i x).w.ended = s.w.ended := rfl
@[simp] theorem setV_w_preq (s : State) (r i : Nat) (x : Word) : (setV s r i x).w.preq = s.w.preq := rfl
@[simp] theorem setV_w_ctx (s : State) (r i : Nat) (x : Word) : (setV s r i x).w.ctx = s.w.ctx := rfl
@[simp] theorem setV_w_part (s : State) (r i : Nat) (x : Word) : (setV s r i x).w.part = s.w.part := rfl
@[simp] theorem setV_w_launch (s : State) (r i : Nat) (x : Word) : (setV s r i x).w.launch = s.w.launch := rfl
@[simp] theorem setV_w_wg (s : State) (r i : Nat) (x : Word) : (setV s r i x).w.wg = s.w.wg := rfl
@[simp] theorem setV_w_widx (s : State) (r i : Nat) (x : Word) : (setV s r i x).w.widx = s.w.widx := rfl
@[simp] theorem setV_w_kind (s : State) (r i : Nat) (x : Word) : (setV s r i x).w.kind = s.w.kind := rfl
@[simp] theorem setV_w_bound (s : State) (r i : Nat) (x : Word) : (setV s r i x).w.bound = s.w.bound := rfl
@[simp] theorem setV_w_coop (s : State) (r i : Nat) (x : Word) : (setV s r i x).w.coop = s.w.coop := rfl
@[simp] theorem setV_w_prio (s : State) (r i : Nat) (x : Word) : (setV s r i x).w.prio = s.w.prio := rfl
@[simp] theorem setV_w_age (s : State) (r i : Nat) (x : Word) : (setV s r i x).w.age = s.w.age := rfl
@[simp] theorem setV_w_pop (s : State) (r i : Nat) (x : Word) : (setV s r i x).w.pop = s.w.pop := rfl
@[simp] theorem setV_w_rows (s : State) (r i : Nat) (x : Word) : (setV s r i x).w.rows = s.w.rows := rfl
@[simp] theorem setV_w_ephBase (s : State) (r i : Nat) (x : Word) : (setV s r i x).w.ephBase = s.w.ephBase := rfl
@[simp] theorem setV_w_ephCnt (s : State) (r i : Nat) (x : Word) : (setV s r i x).w.ephCnt = s.w.ephCnt := rfl
@[simp] theorem setV_w_sbase (s : State) (r i : Nat) (x : Word) : (setV s r i x).w.sbase = s.w.sbase := rfl
@[simp] theorem setV_w_sys (s : State) (r i : Nat) (x : Word) : (setV s r i x).w.sys = s.w.sys := rfl
@[simp] theorem setV_w_lane (s : State) (r i : Nat) (x : Word) : (setV s r i x).w.lane = s.w.lane := rfl
@[simp] theorem setV_w_handles (s : State) (r i : Nat) (x : Word) : (setV s r i x).w.handles = s.w.handles := rfl
@[simp] theorem setV_w_streams (s : State) (r i : Nat) (x : Word) : (setV s r i x).w.streams = s.w.streams := rfl
@[simp] theorem setV_w_accs (s : State) (r i : Nat) (x : Word) : (setV s r i x).w.accs = s.w.accs := rfl
@[simp] theorem setV_w_accF64 (s : State) (r i : Nat) (x : Word) : (setV s r i x).w.accF64 = s.w.accF64 := rfl
@[simp] theorem setV_w_tiles (s : State) (r i : Nat) (x : Word) : (setV s r i x).w.tiles = s.w.tiles := rfl
@[simp] theorem setV_w_pend (s : State) (r i : Nat) (x : Word) : (setV s r i x).w.pend = s.w.pend := rfl
@[simp] theorem setV_w_bara (s : State) (r i : Nat) (x : Word) : (setV s r i x).w.bara = s.w.bara := rfl
@[simp] theorem setV_w_inBar (s : State) (r i : Nat) (x : Word) : (setV s r i x).w.inBar = s.w.inBar := rfl
@[simp] theorem setV_w_barPub (s : State) (r i : Nat) (x : Word) : (setV s r i x).w.barPub = s.w.barPub := rfl
@[simp] theorem setV_w_frame (s : State) (r i : Nat) (x : Word) : (setV s r i x).w.frame = s.w.frame := rfl
@[simp] theorem setV_w_park (s : State) (r i : Nat) (x : Word) : (setV s r i x).w.park = s.w.park := rfl
@[simp] theorem setV_w_answered (s : State) (r i : Nat) (x : Word) : (setV s r i x).w.answered = s.w.answered := rfl
@[simp] theorem setV_w_owed (s : State) (r i : Nat) (x : Word) : (setV s r i x).w.owed = s.w.owed := rfl
@[simp] theorem setV_w_acq (s : State) (r i : Nat) (x : Word) : (setV s r i x).w.acq = s.w.acq := rfl
@[simp] theorem setV_w_rel (s : State) (r i : Nat) (x : Word) : (setV s r i x).w.rel = s.w.rel := rfl
@[simp] theorem setV_w_seen (s : State) (r i : Nat) (x : Word) : (setV s r i x).w.seen = s.w.seen := rfl
@[simp] theorem setV_w_ticket (s : State) (r i : Nat) (x : Word) : (setV s r i x).w.ticket = s.w.ticket := rfl
@[simp] theorem setV_w_pod (s : State) (r i : Nat) (x : Word) : (setV s r i x).w.pod = s.w.pod := rfl
@[simp] theorem setV_w_task (s : State) (r i : Nat) (x : Word) : (setV s r i x).w.task = s.w.task := rfl
@[simp] theorem setV_w_ep (s : State) (r i : Nat) (x : Word) : (setV s r i x).w.ep = s.w.ep := rfl
@[simp] theorem setV_w_spillIdx (s : State) (r i : Nat) (x : Word) : (setV s r i x).w.spillIdx = s.w.spillIdx := rfl
@[simp] theorem setV_w_epoch (s : State) (r i : Nat) (x : Word) : (setV s r i x).w.epoch = s.w.epoch := rfl
@[simp] theorem setV_w_lastIssue (s : State) (r i : Nat) (x : Word) : (setV s r i x).w.lastIssue = s.w.lastIssue := rfl
@[simp] theorem setV_w_yieldEnd (s : State) (r i : Nat) (x : Word) : (setV s r i x).w.yieldEnd = s.w.yieldEnd := rfl
@[simp] theorem setV_w_starved (s : State) (r i : Nat) (x : Word) : (setV s r i x).w.starved = s.w.starved := rfl
@[simp] theorem setV_regs_s (s : State) (r i : Nat) (x : Word) : (setV s r i x).w.regs.s = s.w.regs.s := rfl
@[simp] theorem setV_regs_vp (s : State) (r i : Nat) (x : Word) : (setV s r i x).w.regs.vp = s.w.regs.vp := rfl
@[simp] theorem setV_regs_bad (s : State) (r i : Nat) (x : Word) : (setV s r i x).w.regs.bad = s.w.regs.bad := rfl
@[simp] theorem setV_regs_c (s : State) (r i : Nat) (x : Word) : (setV s r i x).w.regs.c = s.w.regs.c := rfl
@[simp] theorem setV_regs_em (s : State) (r i : Nat) (x : Word) : (setV s r i x).w.regs.em = s.w.regs.em := rfl
@[simp] theorem setV_regs_spc (s : State) (r i : Nat) (x : Word) : (setV s r i x).w.regs.spc = s.w.regs.spc := rfl
@[simp] theorem setV_regs_lpc (s : State) (r i : Nat) (x : Word) : (setV s r i x).w.regs.lpc = s.w.regs.lpc := rfl
@[simp] theorem setV_regs_lbase (s : State) (r i : Nat) (x : Word) : (setV s r i x).w.regs.lbase = s.w.regs.lbase := rfl
@[simp] theorem setV_regs_mstack (s : State) (r i : Nat) (x : Word) : (setV s r i x).w.regs.mstack = s.w.regs.mstack := rfl
@[simp] theorem setV_regs_rstack (s : State) (r i : Nat) (x : Word) : (setV s r i x).w.regs.rstack = s.w.regs.rstack := rfl
@[simp] theorem setV_regs_msc (s : State) (r i : Nat) (x : Word) : (setV s r i x).w.regs.msc = s.w.regs.msc := rfl
@[simp] theorem setV_regs_rsc (s : State) (r i : Nat) (x : Word) : (setV s r i x).w.regs.rsc = s.w.regs.rsc := rfl

/-! ### modPart -/

@[simp] theorem modPart_w (s : State) (n : Nat) (f : Part → Part) : (modPart s n f).w = s.w := rfl
@[simp] theorem modPart_waves (s : State) (n : Nat) (f : Part → Part) : (modPart s n f).waves = s.waves := rfl
@[simp] theorem modPart_clock (s : State) (n : Nat) (f : Part → Part) : (modPart s n f).clock = s.clock := rfl
@[simp] theorem modPart_time (s : State) (n : Nat) (f : Part → Part) : (modPart s n f).time = s.time := rfl
@[simp] theorem modPart_decayed (s : State) (n : Nat) (f : Part → Part) : (modPart s n f).decayed = s.decayed := rfl
@[simp] theorem modPart_mem (s : State) (n : Nat) (f : Part → Part) : (modPart s n f).mem = s.mem := rfl
@[simp] theorem modPart_bad (s : State) (n : Nat) (f : Part → Part) : (modPart s n f).bad = s.bad := rfl
@[simp] theorem modPart_cores (s : State) (n : Nat) (f : Part → Part) : (modPart s n f).cores = s.cores := rfl
@[simp] theorem modPart_engines (s : State) (n : Nat) (f : Part → Part) : (modPart s n f).engines = s.engines := rfl
@[simp] theorem modPart_channels (s : State) (n : Nat) (f : Part → Part) : (modPart s n f).channels = s.channels := rfl
@[simp] theorem modPart_cards (s : State) (n : Nat) (f : Part → Part) : (modPart s n f).cards = s.cards := rfl
@[simp] theorem modPart_cardTurn (s : State) (n : Nat) (f : Part → Part) : (modPart s n f).cardTurn = s.cardTurn := rfl
@[simp] theorem modPart_contexts (s : State) (n : Nat) (f : Part → Part) : (modPart s n f).contexts = s.contexts := rfl
@[simp] theorem modPart_images (s : State) (n : Nat) (f : Part → Part) : (modPart s n f).images = s.images := rfl
@[simp] theorem modPart_launches (s : State) (n : Nat) (f : Part → Part) : (modPart s n f).launches = s.launches := rfl
@[simp] theorem modPart_grans (s : State) (n : Nat) (f : Part → Part) : (modPart s n f).grans = s.grans := rfl
@[simp] theorem modPart_clines (s : State) (n : Nat) (f : Part → Part) : (modPart s n f).clines = s.clines := rfl
@[simp] theorem modPart_ccounts (s : State) (n : Nat) (f : Part → Part) : (modPart s n f).ccounts = s.ccounts := rfl
@[simp] theorem modPart_dieid (s : State) (n : Nat) (f : Part → Part) : (modPart s n f).dieid = s.dieid := rfl
@[simp] theorem modPart_chip (s : State) (n : Nat) (f : Part → Part) : (modPart s n f).chip = s.chip := rfl
@[simp] theorem modPart_routes (s : State) (n : Nat) (f : Part → Part) : (modPart s n f).routes = s.routes := rfl
@[simp] theorem modPart_anchor (s : State) (n : Nat) (f : Part → Part) : (modPart s n f).anchor = s.anchor := rfl
@[simp] theorem modPart_fw (s : State) (n : Nat) (f : Part → Part) : (modPart s n f).fw = s.fw := rfl
@[simp] theorem modPart_power (s : State) (n : Nat) (f : Part → Part) : (modPart s n f).power = s.power := rfl
@[simp] theorem modPart_discards (s : State) (n : Nat) (f : Part → Part) : (modPart s n f).discards = s.discards := rfl
@[simp] theorem modPart_hostData (s : State) (n : Nat) (f : Part → Part) : (modPart s n f).hostData = s.hostData := rfl
@[simp] theorem modPart_nextWave (s : State) (n : Nat) (f : Part → Part) : (modPart s n f).nextWave = s.nextWave := rfl
@[simp] theorem modPart_nextLaunch (s : State) (n : Nat) (f : Part → Part) : (modPart s n f).nextLaunch = s.nextLaunch := rfl
@[simp] theorem modPart_target (s : State) (n : Nat) (f : Part → Part) : (modPart s n f).target = s.target := rfl
@[simp] theorem modPart_agenda (s : State) (n : Nat) (f : Part → Part) : (modPart s n f).agenda = s.agenda := rfl
@[simp] theorem modPart_free (s : State) (n : Nat) (f : Part → Part) : (modPart s n f).free = s.free := rfl

/-! ### modCtx -/

@[simp] theorem modCtx_w (s : State) (n : Nat) (f : Context → Context) : (modCtx s n f).w = s.w := rfl
@[simp] theorem modCtx_waves (s : State) (n : Nat) (f : Context → Context) : (modCtx s n f).waves = s.waves := rfl
@[simp] theorem modCtx_clock (s : State) (n : Nat) (f : Context → Context) : (modCtx s n f).clock = s.clock := rfl
@[simp] theorem modCtx_time (s : State) (n : Nat) (f : Context → Context) : (modCtx s n f).time = s.time := rfl
@[simp] theorem modCtx_decayed (s : State) (n : Nat) (f : Context → Context) : (modCtx s n f).decayed = s.decayed := rfl
@[simp] theorem modCtx_mem (s : State) (n : Nat) (f : Context → Context) : (modCtx s n f).mem = s.mem := rfl
@[simp] theorem modCtx_bad (s : State) (n : Nat) (f : Context → Context) : (modCtx s n f).bad = s.bad := rfl
@[simp] theorem modCtx_cores (s : State) (n : Nat) (f : Context → Context) : (modCtx s n f).cores = s.cores := rfl
@[simp] theorem modCtx_engines (s : State) (n : Nat) (f : Context → Context) : (modCtx s n f).engines = s.engines := rfl
@[simp] theorem modCtx_channels (s : State) (n : Nat) (f : Context → Context) : (modCtx s n f).channels = s.channels := rfl
@[simp] theorem modCtx_cards (s : State) (n : Nat) (f : Context → Context) : (modCtx s n f).cards = s.cards := rfl
@[simp] theorem modCtx_cardTurn (s : State) (n : Nat) (f : Context → Context) : (modCtx s n f).cardTurn = s.cardTurn := rfl
@[simp] theorem modCtx_parts (s : State) (n : Nat) (f : Context → Context) : (modCtx s n f).parts = s.parts := rfl
@[simp] theorem modCtx_images (s : State) (n : Nat) (f : Context → Context) : (modCtx s n f).images = s.images := rfl
@[simp] theorem modCtx_launches (s : State) (n : Nat) (f : Context → Context) : (modCtx s n f).launches = s.launches := rfl
@[simp] theorem modCtx_grans (s : State) (n : Nat) (f : Context → Context) : (modCtx s n f).grans = s.grans := rfl
@[simp] theorem modCtx_clines (s : State) (n : Nat) (f : Context → Context) : (modCtx s n f).clines = s.clines := rfl
@[simp] theorem modCtx_ccounts (s : State) (n : Nat) (f : Context → Context) : (modCtx s n f).ccounts = s.ccounts := rfl
@[simp] theorem modCtx_dieid (s : State) (n : Nat) (f : Context → Context) : (modCtx s n f).dieid = s.dieid := rfl
@[simp] theorem modCtx_chip (s : State) (n : Nat) (f : Context → Context) : (modCtx s n f).chip = s.chip := rfl
@[simp] theorem modCtx_routes (s : State) (n : Nat) (f : Context → Context) : (modCtx s n f).routes = s.routes := rfl
@[simp] theorem modCtx_anchor (s : State) (n : Nat) (f : Context → Context) : (modCtx s n f).anchor = s.anchor := rfl
@[simp] theorem modCtx_fw (s : State) (n : Nat) (f : Context → Context) : (modCtx s n f).fw = s.fw := rfl
@[simp] theorem modCtx_power (s : State) (n : Nat) (f : Context → Context) : (modCtx s n f).power = s.power := rfl
@[simp] theorem modCtx_discards (s : State) (n : Nat) (f : Context → Context) : (modCtx s n f).discards = s.discards := rfl
@[simp] theorem modCtx_hostData (s : State) (n : Nat) (f : Context → Context) : (modCtx s n f).hostData = s.hostData := rfl
@[simp] theorem modCtx_nextWave (s : State) (n : Nat) (f : Context → Context) : (modCtx s n f).nextWave = s.nextWave := rfl
@[simp] theorem modCtx_nextLaunch (s : State) (n : Nat) (f : Context → Context) : (modCtx s n f).nextLaunch = s.nextLaunch := rfl
@[simp] theorem modCtx_target (s : State) (n : Nat) (f : Context → Context) : (modCtx s n f).target = s.target := rfl
@[simp] theorem modCtx_agenda (s : State) (n : Nat) (f : Context → Context) : (modCtx s n f).agenda = s.agenda := rfl
@[simp] theorem modCtx_free (s : State) (n : Nat) (f : Context → Context) : (modCtx s n f).free = s.free := rfl

/-! ### modCore -/

@[simp] theorem modCore_w (s : State) (n : Nat) (f : Core → Core) : (modCore s n f).w = s.w := rfl
@[simp] theorem modCore_waves (s : State) (n : Nat) (f : Core → Core) : (modCore s n f).waves = s.waves := rfl
@[simp] theorem modCore_clock (s : State) (n : Nat) (f : Core → Core) : (modCore s n f).clock = s.clock := rfl
@[simp] theorem modCore_time (s : State) (n : Nat) (f : Core → Core) : (modCore s n f).time = s.time := rfl
@[simp] theorem modCore_decayed (s : State) (n : Nat) (f : Core → Core) : (modCore s n f).decayed = s.decayed := rfl
@[simp] theorem modCore_mem (s : State) (n : Nat) (f : Core → Core) : (modCore s n f).mem = s.mem := rfl
@[simp] theorem modCore_bad (s : State) (n : Nat) (f : Core → Core) : (modCore s n f).bad = s.bad := rfl
@[simp] theorem modCore_engines (s : State) (n : Nat) (f : Core → Core) : (modCore s n f).engines = s.engines := rfl
@[simp] theorem modCore_channels (s : State) (n : Nat) (f : Core → Core) : (modCore s n f).channels = s.channels := rfl
@[simp] theorem modCore_cards (s : State) (n : Nat) (f : Core → Core) : (modCore s n f).cards = s.cards := rfl
@[simp] theorem modCore_cardTurn (s : State) (n : Nat) (f : Core → Core) : (modCore s n f).cardTurn = s.cardTurn := rfl
@[simp] theorem modCore_parts (s : State) (n : Nat) (f : Core → Core) : (modCore s n f).parts = s.parts := rfl
@[simp] theorem modCore_contexts (s : State) (n : Nat) (f : Core → Core) : (modCore s n f).contexts = s.contexts := rfl
@[simp] theorem modCore_images (s : State) (n : Nat) (f : Core → Core) : (modCore s n f).images = s.images := rfl
@[simp] theorem modCore_launches (s : State) (n : Nat) (f : Core → Core) : (modCore s n f).launches = s.launches := rfl
@[simp] theorem modCore_grans (s : State) (n : Nat) (f : Core → Core) : (modCore s n f).grans = s.grans := rfl
@[simp] theorem modCore_clines (s : State) (n : Nat) (f : Core → Core) : (modCore s n f).clines = s.clines := rfl
@[simp] theorem modCore_ccounts (s : State) (n : Nat) (f : Core → Core) : (modCore s n f).ccounts = s.ccounts := rfl
@[simp] theorem modCore_dieid (s : State) (n : Nat) (f : Core → Core) : (modCore s n f).dieid = s.dieid := rfl
@[simp] theorem modCore_chip (s : State) (n : Nat) (f : Core → Core) : (modCore s n f).chip = s.chip := rfl
@[simp] theorem modCore_routes (s : State) (n : Nat) (f : Core → Core) : (modCore s n f).routes = s.routes := rfl
@[simp] theorem modCore_anchor (s : State) (n : Nat) (f : Core → Core) : (modCore s n f).anchor = s.anchor := rfl
@[simp] theorem modCore_fw (s : State) (n : Nat) (f : Core → Core) : (modCore s n f).fw = s.fw := rfl
@[simp] theorem modCore_power (s : State) (n : Nat) (f : Core → Core) : (modCore s n f).power = s.power := rfl
@[simp] theorem modCore_discards (s : State) (n : Nat) (f : Core → Core) : (modCore s n f).discards = s.discards := rfl
@[simp] theorem modCore_hostData (s : State) (n : Nat) (f : Core → Core) : (modCore s n f).hostData = s.hostData := rfl
@[simp] theorem modCore_nextWave (s : State) (n : Nat) (f : Core → Core) : (modCore s n f).nextWave = s.nextWave := rfl
@[simp] theorem modCore_nextLaunch (s : State) (n : Nat) (f : Core → Core) : (modCore s n f).nextLaunch = s.nextLaunch := rfl
@[simp] theorem modCore_target (s : State) (n : Nat) (f : Core → Core) : (modCore s n f).target = s.target := rfl
@[simp] theorem modCore_agenda (s : State) (n : Nat) (f : Core → Core) : (modCore s n f).agenda = s.agenda := rfl
@[simp] theorem modCore_free (s : State) (n : Nat) (f : Core → Core) : (modCore s n f).free = s.free := rfl

/-! ### modEngine -/

@[simp] theorem modEngine_w (s : State) (n : Nat) (f : Engine → Engine) : (modEngine s n f).w = s.w := rfl
@[simp] theorem modEngine_waves (s : State) (n : Nat) (f : Engine → Engine) : (modEngine s n f).waves = s.waves := rfl
@[simp] theorem modEngine_clock (s : State) (n : Nat) (f : Engine → Engine) : (modEngine s n f).clock = s.clock := rfl
@[simp] theorem modEngine_time (s : State) (n : Nat) (f : Engine → Engine) : (modEngine s n f).time = s.time := rfl
@[simp] theorem modEngine_decayed (s : State) (n : Nat) (f : Engine → Engine) : (modEngine s n f).decayed = s.decayed := rfl
@[simp] theorem modEngine_mem (s : State) (n : Nat) (f : Engine → Engine) : (modEngine s n f).mem = s.mem := rfl
@[simp] theorem modEngine_bad (s : State) (n : Nat) (f : Engine → Engine) : (modEngine s n f).bad = s.bad := rfl
@[simp] theorem modEngine_cores (s : State) (n : Nat) (f : Engine → Engine) : (modEngine s n f).cores = s.cores := rfl
@[simp] theorem modEngine_channels (s : State) (n : Nat) (f : Engine → Engine) : (modEngine s n f).channels = s.channels := rfl
@[simp] theorem modEngine_cards (s : State) (n : Nat) (f : Engine → Engine) : (modEngine s n f).cards = s.cards := rfl
@[simp] theorem modEngine_cardTurn (s : State) (n : Nat) (f : Engine → Engine) : (modEngine s n f).cardTurn = s.cardTurn := rfl
@[simp] theorem modEngine_parts (s : State) (n : Nat) (f : Engine → Engine) : (modEngine s n f).parts = s.parts := rfl
@[simp] theorem modEngine_contexts (s : State) (n : Nat) (f : Engine → Engine) : (modEngine s n f).contexts = s.contexts := rfl
@[simp] theorem modEngine_images (s : State) (n : Nat) (f : Engine → Engine) : (modEngine s n f).images = s.images := rfl
@[simp] theorem modEngine_launches (s : State) (n : Nat) (f : Engine → Engine) : (modEngine s n f).launches = s.launches := rfl
@[simp] theorem modEngine_grans (s : State) (n : Nat) (f : Engine → Engine) : (modEngine s n f).grans = s.grans := rfl
@[simp] theorem modEngine_clines (s : State) (n : Nat) (f : Engine → Engine) : (modEngine s n f).clines = s.clines := rfl
@[simp] theorem modEngine_ccounts (s : State) (n : Nat) (f : Engine → Engine) : (modEngine s n f).ccounts = s.ccounts := rfl
@[simp] theorem modEngine_dieid (s : State) (n : Nat) (f : Engine → Engine) : (modEngine s n f).dieid = s.dieid := rfl
@[simp] theorem modEngine_chip (s : State) (n : Nat) (f : Engine → Engine) : (modEngine s n f).chip = s.chip := rfl
@[simp] theorem modEngine_routes (s : State) (n : Nat) (f : Engine → Engine) : (modEngine s n f).routes = s.routes := rfl
@[simp] theorem modEngine_anchor (s : State) (n : Nat) (f : Engine → Engine) : (modEngine s n f).anchor = s.anchor := rfl
@[simp] theorem modEngine_fw (s : State) (n : Nat) (f : Engine → Engine) : (modEngine s n f).fw = s.fw := rfl
@[simp] theorem modEngine_power (s : State) (n : Nat) (f : Engine → Engine) : (modEngine s n f).power = s.power := rfl
@[simp] theorem modEngine_discards (s : State) (n : Nat) (f : Engine → Engine) : (modEngine s n f).discards = s.discards := rfl
@[simp] theorem modEngine_hostData (s : State) (n : Nat) (f : Engine → Engine) : (modEngine s n f).hostData = s.hostData := rfl
@[simp] theorem modEngine_nextWave (s : State) (n : Nat) (f : Engine → Engine) : (modEngine s n f).nextWave = s.nextWave := rfl
@[simp] theorem modEngine_nextLaunch (s : State) (n : Nat) (f : Engine → Engine) : (modEngine s n f).nextLaunch = s.nextLaunch := rfl
@[simp] theorem modEngine_target (s : State) (n : Nat) (f : Engine → Engine) : (modEngine s n f).target = s.target := rfl
@[simp] theorem modEngine_agenda (s : State) (n : Nat) (f : Engine → Engine) : (modEngine s n f).agenda = s.agenda := rfl
@[simp] theorem modEngine_free (s : State) (n : Nat) (f : Engine → Engine) : (modEngine s n f).free = s.free := rfl

/-! ### setChannel -/

@[simp] theorem setChannel_w (s : State) (c n : Nat) (l : List Job) : (setChannel s c n l).w = s.w := rfl
@[simp] theorem setChannel_waves (s : State) (c n : Nat) (l : List Job) : (setChannel s c n l).waves = s.waves := rfl
@[simp] theorem setChannel_clock (s : State) (c n : Nat) (l : List Job) : (setChannel s c n l).clock = s.clock := rfl
@[simp] theorem setChannel_time (s : State) (c n : Nat) (l : List Job) : (setChannel s c n l).time = s.time := rfl
@[simp] theorem setChannel_decayed (s : State) (c n : Nat) (l : List Job) : (setChannel s c n l).decayed = s.decayed := rfl
@[simp] theorem setChannel_mem (s : State) (c n : Nat) (l : List Job) : (setChannel s c n l).mem = s.mem := rfl
@[simp] theorem setChannel_bad (s : State) (c n : Nat) (l : List Job) : (setChannel s c n l).bad = s.bad := rfl
@[simp] theorem setChannel_cores (s : State) (c n : Nat) (l : List Job) : (setChannel s c n l).cores = s.cores := rfl
@[simp] theorem setChannel_engines (s : State) (c n : Nat) (l : List Job) : (setChannel s c n l).engines = s.engines := rfl
@[simp] theorem setChannel_cards (s : State) (c n : Nat) (l : List Job) : (setChannel s c n l).cards = s.cards := rfl
@[simp] theorem setChannel_cardTurn (s : State) (c n : Nat) (l : List Job) : (setChannel s c n l).cardTurn = s.cardTurn := rfl
@[simp] theorem setChannel_parts (s : State) (c n : Nat) (l : List Job) : (setChannel s c n l).parts = s.parts := rfl
@[simp] theorem setChannel_contexts (s : State) (c n : Nat) (l : List Job) : (setChannel s c n l).contexts = s.contexts := rfl
@[simp] theorem setChannel_images (s : State) (c n : Nat) (l : List Job) : (setChannel s c n l).images = s.images := rfl
@[simp] theorem setChannel_launches (s : State) (c n : Nat) (l : List Job) : (setChannel s c n l).launches = s.launches := rfl
@[simp] theorem setChannel_grans (s : State) (c n : Nat) (l : List Job) : (setChannel s c n l).grans = s.grans := rfl
@[simp] theorem setChannel_clines (s : State) (c n : Nat) (l : List Job) : (setChannel s c n l).clines = s.clines := rfl
@[simp] theorem setChannel_ccounts (s : State) (c n : Nat) (l : List Job) : (setChannel s c n l).ccounts = s.ccounts := rfl
@[simp] theorem setChannel_dieid (s : State) (c n : Nat) (l : List Job) : (setChannel s c n l).dieid = s.dieid := rfl
@[simp] theorem setChannel_chip (s : State) (c n : Nat) (l : List Job) : (setChannel s c n l).chip = s.chip := rfl
@[simp] theorem setChannel_routes (s : State) (c n : Nat) (l : List Job) : (setChannel s c n l).routes = s.routes := rfl
@[simp] theorem setChannel_anchor (s : State) (c n : Nat) (l : List Job) : (setChannel s c n l).anchor = s.anchor := rfl
@[simp] theorem setChannel_fw (s : State) (c n : Nat) (l : List Job) : (setChannel s c n l).fw = s.fw := rfl
@[simp] theorem setChannel_power (s : State) (c n : Nat) (l : List Job) : (setChannel s c n l).power = s.power := rfl
@[simp] theorem setChannel_discards (s : State) (c n : Nat) (l : List Job) : (setChannel s c n l).discards = s.discards := rfl
@[simp] theorem setChannel_hostData (s : State) (c n : Nat) (l : List Job) : (setChannel s c n l).hostData = s.hostData := rfl
@[simp] theorem setChannel_nextWave (s : State) (c n : Nat) (l : List Job) : (setChannel s c n l).nextWave = s.nextWave := rfl
@[simp] theorem setChannel_nextLaunch (s : State) (c n : Nat) (l : List Job) : (setChannel s c n l).nextLaunch = s.nextLaunch := rfl
@[simp] theorem setChannel_target (s : State) (c n : Nat) (l : List Job) : (setChannel s c n l).target = s.target := rfl
@[simp] theorem setChannel_agenda (s : State) (c n : Nat) (l : List Job) : (setChannel s c n l).agenda = s.agenda := rfl
@[simp] theorem setChannel_free (s : State) (c n : Nat) (l : List Job) : (setChannel s c n l).free = s.free := rfl

/-! ### The scalar stream -/

@[simp] theorem run_id (w : Wave) (clock : Nat) : (w.run clock).id = w.id := rfl
@[simp] theorem run_status (w : Wave) (clock : Nat) : (w.run clock).status = .ready := rfl
@[simp] theorem run_ended (w : Wave) (clock : Nat) : (w.run clock).ended = w.ended := rfl
@[simp] theorem run_preq (w : Wave) (clock : Nat) : (w.run clock).preq = w.preq := rfl
@[simp] theorem run_ctx (w : Wave) (clock : Nat) : (w.run clock).ctx = w.ctx := rfl
@[simp] theorem run_part (w : Wave) (clock : Nat) : (w.run clock).part = w.part := rfl
@[simp] theorem run_launch (w : Wave) (clock : Nat) : (w.run clock).launch = w.launch := rfl
@[simp] theorem run_wg (w : Wave) (clock : Nat) : (w.run clock).wg = w.wg := rfl
@[simp] theorem run_widx (w : Wave) (clock : Nat) : (w.run clock).widx = w.widx := rfl
@[simp] theorem run_kind (w : Wave) (clock : Nat) : (w.run clock).kind = w.kind := rfl
@[simp] theorem run_bound (w : Wave) (clock : Nat) : (w.run clock).bound = w.bound := rfl
@[simp] theorem run_coop (w : Wave) (clock : Nat) : (w.run clock).coop = w.coop := rfl
@[simp] theorem run_prio (w : Wave) (clock : Nat) : (w.run clock).prio = w.prio := rfl
@[simp] theorem run_age (w : Wave) (clock : Nat) : (w.run clock).age = w.age := rfl
@[simp] theorem run_pop (w : Wave) (clock : Nat) : (w.run clock).pop = w.pop := rfl
@[simp] theorem run_rows (w : Wave) (clock : Nat) : (w.run clock).rows = w.rows := rfl
@[simp] theorem run_ephBase (w : Wave) (clock : Nat) : (w.run clock).ephBase = w.ephBase := rfl
@[simp] theorem run_ephCnt (w : Wave) (clock : Nat) : (w.run clock).ephCnt = w.ephCnt := rfl
@[simp] theorem run_sbase (w : Wave) (clock : Nat) : (w.run clock).sbase = w.sbase := rfl
@[simp] theorem run_regs (w : Wave) (clock : Nat) : (w.run clock).regs = w.regs := rfl
@[simp] theorem run_sys (w : Wave) (clock : Nat) : (w.run clock).sys = w.sys := rfl
@[simp] theorem run_lane (w : Wave) (clock : Nat) : (w.run clock).lane = w.lane := rfl
@[simp] theorem run_handles (w : Wave) (clock : Nat) : (w.run clock).handles = w.handles := rfl
@[simp] theorem run_streams (w : Wave) (clock : Nat) : (w.run clock).streams = w.streams := rfl
@[simp] theorem run_accs (w : Wave) (clock : Nat) : (w.run clock).accs = w.accs := rfl
@[simp] theorem run_accF64 (w : Wave) (clock : Nat) : (w.run clock).accF64 = w.accF64 := rfl
@[simp] theorem run_tiles (w : Wave) (clock : Nat) : (w.run clock).tiles = w.tiles := rfl
@[simp] theorem run_pend (w : Wave) (clock : Nat) : (w.run clock).pend = w.pend := rfl
@[simp] theorem run_bara (w : Wave) (clock : Nat) : (w.run clock).bara = w.bara := rfl
@[simp] theorem run_inBar (w : Wave) (clock : Nat) : (w.run clock).inBar = w.inBar := rfl
@[simp] theorem run_barPub (w : Wave) (clock : Nat) : (w.run clock).barPub = w.barPub := rfl
@[simp] theorem run_frame (w : Wave) (clock : Nat) : (w.run clock).frame = w.frame := rfl
@[simp] theorem run_park (w : Wave) (clock : Nat) : (w.run clock).park = none := rfl
@[simp] theorem run_answered (w : Wave) (clock : Nat) : (w.run clock).answered = none := rfl
@[simp] theorem run_owed (w : Wave) (clock : Nat) : (w.run clock).owed = w.owed := rfl
@[simp] theorem run_acq (w : Wave) (clock : Nat) : (w.run clock).acq = w.acq := rfl
@[simp] theorem run_rel (w : Wave) (clock : Nat) : (w.run clock).rel = w.rel := rfl
@[simp] theorem run_seen (w : Wave) (clock : Nat) : (w.run clock).seen = w.seen := rfl
@[simp] theorem run_ticket (w : Wave) (clock : Nat) : (w.run clock).ticket = w.ticket := rfl
@[simp] theorem run_pod (w : Wave) (clock : Nat) : (w.run clock).pod = w.pod := rfl
@[simp] theorem run_task (w : Wave) (clock : Nat) : (w.run clock).task = w.task := rfl
@[simp] theorem run_ep (w : Wave) (clock : Nat) : (w.run clock).ep = w.ep := rfl
@[simp] theorem run_spillIdx (w : Wave) (clock : Nat) : (w.run clock).spillIdx = w.spillIdx := rfl
@[simp] theorem run_epoch (w : Wave) (clock : Nat) : (w.run clock).epoch = w.epoch := rfl
@[simp] theorem run_lastIssue (w : Wave) (clock : Nat) : (w.run clock).lastIssue = clock := rfl
@[simp] theorem run_yieldEnd (w : Wave) (clock : Nat) : (w.run clock).yieldEnd = w.yieldEnd := rfl
@[simp] theorem run_starved (w : Wave) (clock : Nat) : (w.run clock).starved = false := rfl
@[simp] theorem goto_waves (s : State) (pc : DWord) : (goto s pc).waves = s.waves := rfl
@[simp] theorem goto_clock (s : State) (pc : DWord) : (goto s pc).clock = s.clock := rfl
@[simp] theorem goto_time (s : State) (pc : DWord) : (goto s pc).time = s.time := rfl
@[simp] theorem goto_decayed (s : State) (pc : DWord) : (goto s pc).decayed = s.decayed := rfl
@[simp] theorem goto_mem (s : State) (pc : DWord) : (goto s pc).mem = s.mem := rfl
@[simp] theorem goto_bad (s : State) (pc : DWord) : (goto s pc).bad = s.bad := rfl
@[simp] theorem goto_cores (s : State) (pc : DWord) : (goto s pc).cores = s.cores := rfl
@[simp] theorem goto_engines (s : State) (pc : DWord) : (goto s pc).engines = s.engines := rfl
@[simp] theorem goto_channels (s : State) (pc : DWord) : (goto s pc).channels = s.channels := rfl
@[simp] theorem goto_cards (s : State) (pc : DWord) : (goto s pc).cards = s.cards := rfl
@[simp] theorem goto_cardTurn (s : State) (pc : DWord) : (goto s pc).cardTurn = s.cardTurn := rfl
@[simp] theorem goto_parts (s : State) (pc : DWord) : (goto s pc).parts = s.parts := rfl
@[simp] theorem goto_contexts (s : State) (pc : DWord) : (goto s pc).contexts = s.contexts := rfl
@[simp] theorem goto_images (s : State) (pc : DWord) : (goto s pc).images = s.images := rfl
@[simp] theorem goto_launches (s : State) (pc : DWord) : (goto s pc).launches = s.launches := rfl
@[simp] theorem goto_grans (s : State) (pc : DWord) : (goto s pc).grans = s.grans := rfl
@[simp] theorem goto_clines (s : State) (pc : DWord) : (goto s pc).clines = s.clines := rfl
@[simp] theorem goto_ccounts (s : State) (pc : DWord) : (goto s pc).ccounts = s.ccounts := rfl
@[simp] theorem goto_dieid (s : State) (pc : DWord) : (goto s pc).dieid = s.dieid := rfl
@[simp] theorem goto_chip (s : State) (pc : DWord) : (goto s pc).chip = s.chip := rfl
@[simp] theorem goto_routes (s : State) (pc : DWord) : (goto s pc).routes = s.routes := rfl
@[simp] theorem goto_anchor (s : State) (pc : DWord) : (goto s pc).anchor = s.anchor := rfl
@[simp] theorem goto_fw (s : State) (pc : DWord) : (goto s pc).fw = s.fw := rfl
@[simp] theorem goto_power (s : State) (pc : DWord) : (goto s pc).power = s.power := rfl
@[simp] theorem goto_discards (s : State) (pc : DWord) : (goto s pc).discards = s.discards := rfl
@[simp] theorem goto_hostData (s : State) (pc : DWord) : (goto s pc).hostData = s.hostData := rfl
@[simp] theorem goto_nextWave (s : State) (pc : DWord) : (goto s pc).nextWave = s.nextWave := rfl
@[simp] theorem goto_nextLaunch (s : State) (pc : DWord) : (goto s pc).nextLaunch = s.nextLaunch := rfl
@[simp] theorem goto_target (s : State) (pc : DWord) : (goto s pc).target = s.target := rfl
@[simp] theorem goto_agenda (s : State) (pc : DWord) : (goto s pc).agenda = s.agenda := rfl
@[simp] theorem goto_free (s : State) (pc : DWord) : (goto s pc).free = s.free := rfl
@[simp] theorem goto_w_id (s : State) (pc : DWord) : (goto s pc).w.id = s.w.id := rfl
@[simp] theorem goto_w_status (s : State) (pc : DWord) : (goto s pc).w.status = .ready := rfl
@[simp] theorem goto_w_ended (s : State) (pc : DWord) : (goto s pc).w.ended = s.w.ended := rfl
@[simp] theorem goto_w_preq (s : State) (pc : DWord) : (goto s pc).w.preq = s.w.preq := rfl
@[simp] theorem goto_w_ctx (s : State) (pc : DWord) : (goto s pc).w.ctx = s.w.ctx := rfl
@[simp] theorem goto_w_part (s : State) (pc : DWord) : (goto s pc).w.part = s.w.part := rfl
@[simp] theorem goto_w_launch (s : State) (pc : DWord) : (goto s pc).w.launch = s.w.launch := rfl
@[simp] theorem goto_w_wg (s : State) (pc : DWord) : (goto s pc).w.wg = s.w.wg := rfl
@[simp] theorem goto_w_widx (s : State) (pc : DWord) : (goto s pc).w.widx = s.w.widx := rfl
@[simp] theorem goto_w_kind (s : State) (pc : DWord) : (goto s pc).w.kind = s.w.kind := rfl
@[simp] theorem goto_w_bound (s : State) (pc : DWord) : (goto s pc).w.bound = s.w.bound := rfl
@[simp] theorem goto_w_coop (s : State) (pc : DWord) : (goto s pc).w.coop = s.w.coop := rfl
@[simp] theorem goto_w_prio (s : State) (pc : DWord) : (goto s pc).w.prio = s.w.prio := rfl
@[simp] theorem goto_w_age (s : State) (pc : DWord) : (goto s pc).w.age = s.w.age := rfl
@[simp] theorem goto_w_pop (s : State) (pc : DWord) : (goto s pc).w.pop = s.w.pop := rfl
@[simp] theorem goto_w_rows (s : State) (pc : DWord) : (goto s pc).w.rows = s.w.rows := rfl
@[simp] theorem goto_w_ephBase (s : State) (pc : DWord) : (goto s pc).w.ephBase = s.w.ephBase := rfl
@[simp] theorem goto_w_ephCnt (s : State) (pc : DWord) : (goto s pc).w.ephCnt = s.w.ephCnt := rfl
@[simp] theorem goto_w_sbase (s : State) (pc : DWord) : (goto s pc).w.sbase = s.w.sbase := rfl
@[simp] theorem goto_w_sys (s : State) (pc : DWord) : (goto s pc).w.sys = s.w.sys := rfl
@[simp] theorem goto_w_lane (s : State) (pc : DWord) : (goto s pc).w.lane = s.w.lane := rfl
@[simp] theorem goto_w_handles (s : State) (pc : DWord) : (goto s pc).w.handles = s.w.handles := rfl
@[simp] theorem goto_w_streams (s : State) (pc : DWord) : (goto s pc).w.streams = s.w.streams := rfl
@[simp] theorem goto_w_accs (s : State) (pc : DWord) : (goto s pc).w.accs = s.w.accs := rfl
@[simp] theorem goto_w_accF64 (s : State) (pc : DWord) : (goto s pc).w.accF64 = s.w.accF64 := rfl
@[simp] theorem goto_w_tiles (s : State) (pc : DWord) : (goto s pc).w.tiles = s.w.tiles := rfl
@[simp] theorem goto_w_pend (s : State) (pc : DWord) : (goto s pc).w.pend = s.w.pend := rfl
@[simp] theorem goto_w_bara (s : State) (pc : DWord) : (goto s pc).w.bara = s.w.bara := rfl
@[simp] theorem goto_w_inBar (s : State) (pc : DWord) : (goto s pc).w.inBar = s.w.inBar := rfl
@[simp] theorem goto_w_barPub (s : State) (pc : DWord) : (goto s pc).w.barPub = s.w.barPub := rfl
@[simp] theorem goto_w_frame (s : State) (pc : DWord) : (goto s pc).w.frame = s.w.frame := rfl
@[simp] theorem goto_w_park (s : State) (pc : DWord) : (goto s pc).w.park = none := rfl
@[simp] theorem goto_w_answered (s : State) (pc : DWord) : (goto s pc).w.answered = none := rfl
@[simp] theorem goto_w_owed (s : State) (pc : DWord) : (goto s pc).w.owed = s.w.owed := rfl
@[simp] theorem goto_w_acq (s : State) (pc : DWord) : (goto s pc).w.acq = s.w.acq := rfl
@[simp] theorem goto_w_rel (s : State) (pc : DWord) : (goto s pc).w.rel = s.w.rel := rfl
@[simp] theorem goto_w_seen (s : State) (pc : DWord) : (goto s pc).w.seen = s.w.seen := rfl
@[simp] theorem goto_w_ticket (s : State) (pc : DWord) : (goto s pc).w.ticket = s.w.ticket := rfl
@[simp] theorem goto_w_pod (s : State) (pc : DWord) : (goto s pc).w.pod = s.w.pod := rfl
@[simp] theorem goto_w_task (s : State) (pc : DWord) : (goto s pc).w.task = s.w.task := rfl
@[simp] theorem goto_w_ep (s : State) (pc : DWord) : (goto s pc).w.ep = s.w.ep := rfl
@[simp] theorem goto_w_spillIdx (s : State) (pc : DWord) : (goto s pc).w.spillIdx = s.w.spillIdx := rfl
@[simp] theorem goto_w_epoch (s : State) (pc : DWord) : (goto s pc).w.epoch = s.w.epoch := rfl
@[simp] theorem goto_w_lastIssue (s : State) (pc : DWord) : (goto s pc).w.lastIssue = s.clock := rfl
@[simp] theorem goto_w_yieldEnd (s : State) (pc : DWord) : (goto s pc).w.yieldEnd = s.w.yieldEnd := rfl
@[simp] theorem goto_w_starved (s : State) (pc : DWord) : (goto s pc).w.starved = false := rfl
@[simp] theorem goto_regs_s (s : State) (pc : DWord) : (goto s pc).w.regs.s = s.w.regs.s := rfl
@[simp] theorem goto_regs_v (s : State) (pc : DWord) : (goto s pc).w.regs.v = s.w.regs.v := rfl
@[simp] theorem goto_regs_vp (s : State) (pc : DWord) : (goto s pc).w.regs.vp = s.w.regs.vp := rfl
@[simp] theorem goto_regs_bad (s : State) (pc : DWord) : (goto s pc).w.regs.bad = s.w.regs.bad := rfl
@[simp] theorem goto_regs_c (s : State) (pc : DWord) : (goto s pc).w.regs.c = s.w.regs.c := rfl
@[simp] theorem goto_regs_em (s : State) (pc : DWord) : (goto s pc).w.regs.em = s.w.regs.em := rfl
@[simp] theorem goto_regs_spc (s : State) (pc : DWord) : (goto s pc).w.regs.spc = pc := rfl
@[simp] theorem goto_regs_lpc (s : State) (pc : DWord) : (goto s pc).w.regs.lpc = s.w.regs.lpc := rfl
@[simp] theorem goto_regs_lbase (s : State) (pc : DWord) : (goto s pc).w.regs.lbase = s.w.regs.lbase := rfl
@[simp] theorem goto_regs_mstack (s : State) (pc : DWord) : (goto s pc).w.regs.mstack = s.w.regs.mstack := rfl
@[simp] theorem goto_regs_rstack (s : State) (pc : DWord) : (goto s pc).w.regs.rstack = s.w.regs.rstack := rfl
@[simp] theorem goto_regs_msc (s : State) (pc : DWord) : (goto s pc).w.regs.msc = s.w.regs.msc := rfl
@[simp] theorem goto_regs_rsc (s : State) (pc : DWord) : (goto s pc).w.regs.rsc = s.w.regs.rsc := rfl
@[simp] theorem advance_waves (s : State) : (advance s).waves = s.waves := rfl
@[simp] theorem advance_clock (s : State) : (advance s).clock = s.clock := rfl
@[simp] theorem advance_time (s : State) : (advance s).time = s.time := rfl
@[simp] theorem advance_decayed (s : State) : (advance s).decayed = s.decayed := rfl
@[simp] theorem advance_mem (s : State) : (advance s).mem = s.mem := rfl
@[simp] theorem advance_bad (s : State) : (advance s).bad = s.bad := rfl
@[simp] theorem advance_cores (s : State) : (advance s).cores = s.cores := rfl
@[simp] theorem advance_engines (s : State) : (advance s).engines = s.engines := rfl
@[simp] theorem advance_channels (s : State) : (advance s).channels = s.channels := rfl
@[simp] theorem advance_cards (s : State) : (advance s).cards = s.cards := rfl
@[simp] theorem advance_cardTurn (s : State) : (advance s).cardTurn = s.cardTurn := rfl
@[simp] theorem advance_parts (s : State) : (advance s).parts = s.parts := rfl
@[simp] theorem advance_contexts (s : State) : (advance s).contexts = s.contexts := rfl
@[simp] theorem advance_images (s : State) : (advance s).images = s.images := rfl
@[simp] theorem advance_launches (s : State) : (advance s).launches = s.launches := rfl
@[simp] theorem advance_grans (s : State) : (advance s).grans = s.grans := rfl
@[simp] theorem advance_clines (s : State) : (advance s).clines = s.clines := rfl
@[simp] theorem advance_ccounts (s : State) : (advance s).ccounts = s.ccounts := rfl
@[simp] theorem advance_dieid (s : State) : (advance s).dieid = s.dieid := rfl
@[simp] theorem advance_chip (s : State) : (advance s).chip = s.chip := rfl
@[simp] theorem advance_routes (s : State) : (advance s).routes = s.routes := rfl
@[simp] theorem advance_anchor (s : State) : (advance s).anchor = s.anchor := rfl
@[simp] theorem advance_fw (s : State) : (advance s).fw = s.fw := rfl
@[simp] theorem advance_power (s : State) : (advance s).power = s.power := rfl
@[simp] theorem advance_discards (s : State) : (advance s).discards = s.discards := rfl
@[simp] theorem advance_hostData (s : State) : (advance s).hostData = s.hostData := rfl
@[simp] theorem advance_nextWave (s : State) : (advance s).nextWave = s.nextWave := rfl
@[simp] theorem advance_nextLaunch (s : State) : (advance s).nextLaunch = s.nextLaunch := rfl
@[simp] theorem advance_target (s : State) : (advance s).target = s.target := rfl
@[simp] theorem advance_agenda (s : State) : (advance s).agenda = s.agenda := rfl
@[simp] theorem advance_free (s : State) : (advance s).free = s.free := rfl
@[simp] theorem advance_w_id (s : State) : (advance s).w.id = s.w.id := rfl
@[simp] theorem advance_w_status (s : State) : (advance s).w.status = .ready := rfl
@[simp] theorem advance_w_ended (s : State) : (advance s).w.ended = s.w.ended := rfl
@[simp] theorem advance_w_preq (s : State) : (advance s).w.preq = s.w.preq := rfl
@[simp] theorem advance_w_ctx (s : State) : (advance s).w.ctx = s.w.ctx := rfl
@[simp] theorem advance_w_part (s : State) : (advance s).w.part = s.w.part := rfl
@[simp] theorem advance_w_launch (s : State) : (advance s).w.launch = s.w.launch := rfl
@[simp] theorem advance_w_wg (s : State) : (advance s).w.wg = s.w.wg := rfl
@[simp] theorem advance_w_widx (s : State) : (advance s).w.widx = s.w.widx := rfl
@[simp] theorem advance_w_kind (s : State) : (advance s).w.kind = s.w.kind := rfl
@[simp] theorem advance_w_bound (s : State) : (advance s).w.bound = s.w.bound := rfl
@[simp] theorem advance_w_coop (s : State) : (advance s).w.coop = s.w.coop := rfl
@[simp] theorem advance_w_prio (s : State) : (advance s).w.prio = s.w.prio := rfl
@[simp] theorem advance_w_age (s : State) : (advance s).w.age = s.w.age := rfl
@[simp] theorem advance_w_pop (s : State) : (advance s).w.pop = s.w.pop := rfl
@[simp] theorem advance_w_rows (s : State) : (advance s).w.rows = s.w.rows := rfl
@[simp] theorem advance_w_ephBase (s : State) : (advance s).w.ephBase = s.w.ephBase := rfl
@[simp] theorem advance_w_ephCnt (s : State) : (advance s).w.ephCnt = s.w.ephCnt := rfl
@[simp] theorem advance_w_sbase (s : State) : (advance s).w.sbase = s.w.sbase := rfl
@[simp] theorem advance_w_sys (s : State) : (advance s).w.sys = s.w.sys := rfl
@[simp] theorem advance_w_lane (s : State) : (advance s).w.lane = s.w.lane := rfl
@[simp] theorem advance_w_handles (s : State) : (advance s).w.handles = s.w.handles := rfl
@[simp] theorem advance_w_streams (s : State) : (advance s).w.streams = s.w.streams := rfl
@[simp] theorem advance_w_accs (s : State) : (advance s).w.accs = s.w.accs := rfl
@[simp] theorem advance_w_accF64 (s : State) : (advance s).w.accF64 = s.w.accF64 := rfl
@[simp] theorem advance_w_tiles (s : State) : (advance s).w.tiles = s.w.tiles := rfl
@[simp] theorem advance_w_pend (s : State) : (advance s).w.pend = s.w.pend := rfl
@[simp] theorem advance_w_bara (s : State) : (advance s).w.bara = s.w.bara := rfl
@[simp] theorem advance_w_inBar (s : State) : (advance s).w.inBar = s.w.inBar := rfl
@[simp] theorem advance_w_barPub (s : State) : (advance s).w.barPub = s.w.barPub := rfl
@[simp] theorem advance_w_frame (s : State) : (advance s).w.frame = s.w.frame := rfl
@[simp] theorem advance_w_park (s : State) : (advance s).w.park = none := rfl
@[simp] theorem advance_w_answered (s : State) : (advance s).w.answered = none := rfl
@[simp] theorem advance_w_owed (s : State) : (advance s).w.owed = s.w.owed := rfl
@[simp] theorem advance_w_acq (s : State) : (advance s).w.acq = s.w.acq := rfl
@[simp] theorem advance_w_rel (s : State) : (advance s).w.rel = s.w.rel := rfl
@[simp] theorem advance_w_seen (s : State) : (advance s).w.seen = s.w.seen := rfl
@[simp] theorem advance_w_ticket (s : State) : (advance s).w.ticket = s.w.ticket := rfl
@[simp] theorem advance_w_pod (s : State) : (advance s).w.pod = s.w.pod := rfl
@[simp] theorem advance_w_task (s : State) : (advance s).w.task = s.w.task := rfl
@[simp] theorem advance_w_ep (s : State) : (advance s).w.ep = s.w.ep := rfl
@[simp] theorem advance_w_spillIdx (s : State) : (advance s).w.spillIdx = s.w.spillIdx := rfl
@[simp] theorem advance_w_epoch (s : State) : (advance s).w.epoch = s.w.epoch := rfl
@[simp] theorem advance_w_lastIssue (s : State) : (advance s).w.lastIssue = s.clock := rfl
@[simp] theorem advance_w_yieldEnd (s : State) : (advance s).w.yieldEnd = s.w.yieldEnd := rfl
@[simp] theorem advance_w_starved (s : State) : (advance s).w.starved = false := rfl
@[simp] theorem advance_regs_s (s : State) : (advance s).w.regs.s = s.w.regs.s := rfl
@[simp] theorem advance_regs_v (s : State) : (advance s).w.regs.v = s.w.regs.v := rfl
@[simp] theorem advance_regs_vp (s : State) : (advance s).w.regs.vp = s.w.regs.vp := rfl
@[simp] theorem advance_regs_bad (s : State) : (advance s).w.regs.bad = s.w.regs.bad := rfl
@[simp] theorem advance_regs_c (s : State) : (advance s).w.regs.c = s.w.regs.c := rfl
@[simp] theorem advance_regs_em (s : State) : (advance s).w.regs.em = s.w.regs.em := rfl
@[simp] theorem advance_regs_spc (s : State) : (advance s).w.regs.spc = s.w.regs.spc + 4 := rfl
@[simp] theorem advance_regs_lpc (s : State) : (advance s).w.regs.lpc = s.w.regs.lpc := rfl
@[simp] theorem advance_regs_lbase (s : State) : (advance s).w.regs.lbase = s.w.regs.lbase := rfl
@[simp] theorem advance_regs_mstack (s : State) : (advance s).w.regs.mstack = s.w.regs.mstack := rfl
@[simp] theorem advance_regs_rstack (s : State) : (advance s).w.regs.rstack = s.w.regs.rstack := rfl
@[simp] theorem advance_regs_msc (s : State) : (advance s).w.regs.msc = s.w.regs.msc := rfl
@[simp] theorem advance_regs_rsc (s : State) : (advance s).w.regs.rsc = s.w.regs.rsc := rfl
@[simp] theorem waitHere_waves (s : State) : (waitHere s).waves = s.waves := rfl
@[simp] theorem waitHere_clock (s : State) : (waitHere s).clock = s.clock := rfl
@[simp] theorem waitHere_time (s : State) : (waitHere s).time = s.time := rfl
@[simp] theorem waitHere_decayed (s : State) : (waitHere s).decayed = s.decayed := rfl
@[simp] theorem waitHere_mem (s : State) : (waitHere s).mem = s.mem := rfl
@[simp] theorem waitHere_bad (s : State) : (waitHere s).bad = s.bad := rfl
@[simp] theorem waitHere_cores (s : State) : (waitHere s).cores = s.cores := rfl
@[simp] theorem waitHere_engines (s : State) : (waitHere s).engines = s.engines := rfl
@[simp] theorem waitHere_channels (s : State) : (waitHere s).channels = s.channels := rfl
@[simp] theorem waitHere_cards (s : State) : (waitHere s).cards = s.cards := rfl
@[simp] theorem waitHere_cardTurn (s : State) : (waitHere s).cardTurn = s.cardTurn := rfl
@[simp] theorem waitHere_parts (s : State) : (waitHere s).parts = s.parts := rfl
@[simp] theorem waitHere_contexts (s : State) : (waitHere s).contexts = s.contexts := rfl
@[simp] theorem waitHere_images (s : State) : (waitHere s).images = s.images := rfl
@[simp] theorem waitHere_launches (s : State) : (waitHere s).launches = s.launches := rfl
@[simp] theorem waitHere_grans (s : State) : (waitHere s).grans = s.grans := rfl
@[simp] theorem waitHere_clines (s : State) : (waitHere s).clines = s.clines := rfl
@[simp] theorem waitHere_ccounts (s : State) : (waitHere s).ccounts = s.ccounts := rfl
@[simp] theorem waitHere_dieid (s : State) : (waitHere s).dieid = s.dieid := rfl
@[simp] theorem waitHere_chip (s : State) : (waitHere s).chip = s.chip := rfl
@[simp] theorem waitHere_routes (s : State) : (waitHere s).routes = s.routes := rfl
@[simp] theorem waitHere_anchor (s : State) : (waitHere s).anchor = s.anchor := rfl
@[simp] theorem waitHere_fw (s : State) : (waitHere s).fw = s.fw := rfl
@[simp] theorem waitHere_power (s : State) : (waitHere s).power = s.power := rfl
@[simp] theorem waitHere_discards (s : State) : (waitHere s).discards = s.discards := rfl
@[simp] theorem waitHere_hostData (s : State) : (waitHere s).hostData = s.hostData := rfl
@[simp] theorem waitHere_nextWave (s : State) : (waitHere s).nextWave = s.nextWave := rfl
@[simp] theorem waitHere_nextLaunch (s : State) : (waitHere s).nextLaunch = s.nextLaunch := rfl
@[simp] theorem waitHere_target (s : State) : (waitHere s).target = s.target := rfl
@[simp] theorem waitHere_agenda (s : State) : (waitHere s).agenda = s.agenda := rfl
@[simp] theorem waitHere_free (s : State) : (waitHere s).free = s.free := rfl
@[simp] theorem waitHere_w_id (s : State) : (waitHere s).w.id = s.w.id := rfl
@[simp] theorem waitHere_w_ended (s : State) : (waitHere s).w.ended = s.w.ended := rfl
@[simp] theorem waitHere_w_preq (s : State) : (waitHere s).w.preq = s.w.preq := rfl
@[simp] theorem waitHere_w_ctx (s : State) : (waitHere s).w.ctx = s.w.ctx := rfl
@[simp] theorem waitHere_w_part (s : State) : (waitHere s).w.part = s.w.part := rfl
@[simp] theorem waitHere_w_launch (s : State) : (waitHere s).w.launch = s.w.launch := rfl
@[simp] theorem waitHere_w_wg (s : State) : (waitHere s).w.wg = s.w.wg := rfl
@[simp] theorem waitHere_w_widx (s : State) : (waitHere s).w.widx = s.w.widx := rfl
@[simp] theorem waitHere_w_kind (s : State) : (waitHere s).w.kind = s.w.kind := rfl
@[simp] theorem waitHere_w_bound (s : State) : (waitHere s).w.bound = s.w.bound := rfl
@[simp] theorem waitHere_w_coop (s : State) : (waitHere s).w.coop = s.w.coop := rfl
@[simp] theorem waitHere_w_prio (s : State) : (waitHere s).w.prio = s.w.prio := rfl
@[simp] theorem waitHere_w_age (s : State) : (waitHere s).w.age = s.w.age := rfl
@[simp] theorem waitHere_w_pop (s : State) : (waitHere s).w.pop = s.w.pop := rfl
@[simp] theorem waitHere_w_rows (s : State) : (waitHere s).w.rows = s.w.rows := rfl
@[simp] theorem waitHere_w_ephBase (s : State) : (waitHere s).w.ephBase = s.w.ephBase := rfl
@[simp] theorem waitHere_w_ephCnt (s : State) : (waitHere s).w.ephCnt = s.w.ephCnt := rfl
@[simp] theorem waitHere_w_sbase (s : State) : (waitHere s).w.sbase = s.w.sbase := rfl
@[simp] theorem waitHere_w_regs (s : State) : (waitHere s).w.regs = s.w.regs := rfl
@[simp] theorem waitHere_w_sys (s : State) : (waitHere s).w.sys = s.w.sys := rfl
@[simp] theorem waitHere_w_lane (s : State) : (waitHere s).w.lane = s.w.lane := rfl
@[simp] theorem waitHere_w_handles (s : State) : (waitHere s).w.handles = s.w.handles := rfl
@[simp] theorem waitHere_w_streams (s : State) : (waitHere s).w.streams = s.w.streams := rfl
@[simp] theorem waitHere_w_accs (s : State) : (waitHere s).w.accs = s.w.accs := rfl
@[simp] theorem waitHere_w_accF64 (s : State) : (waitHere s).w.accF64 = s.w.accF64 := rfl
@[simp] theorem waitHere_w_tiles (s : State) : (waitHere s).w.tiles = s.w.tiles := rfl
@[simp] theorem waitHere_w_pend (s : State) : (waitHere s).w.pend = s.w.pend := rfl
@[simp] theorem waitHere_w_bara (s : State) : (waitHere s).w.bara = s.w.bara := rfl
@[simp] theorem waitHere_w_inBar (s : State) : (waitHere s).w.inBar = s.w.inBar := rfl
@[simp] theorem waitHere_w_barPub (s : State) : (waitHere s).w.barPub = s.w.barPub := rfl
@[simp] theorem waitHere_w_frame (s : State) : (waitHere s).w.frame = s.w.frame := rfl
@[simp] theorem waitHere_w_park (s : State) : (waitHere s).w.park = s.w.park := rfl
@[simp] theorem waitHere_w_answered (s : State) : (waitHere s).w.answered = s.w.answered := rfl
@[simp] theorem waitHere_w_owed (s : State) : (waitHere s).w.owed = s.w.owed := rfl
@[simp] theorem waitHere_w_acq (s : State) : (waitHere s).w.acq = s.w.acq := rfl
@[simp] theorem waitHere_w_rel (s : State) : (waitHere s).w.rel = s.w.rel := rfl
@[simp] theorem waitHere_w_seen (s : State) : (waitHere s).w.seen = s.w.seen := rfl
@[simp] theorem waitHere_w_ticket (s : State) : (waitHere s).w.ticket = s.w.ticket := rfl
@[simp] theorem waitHere_w_pod (s : State) : (waitHere s).w.pod = s.w.pod := rfl
@[simp] theorem waitHere_w_task (s : State) : (waitHere s).w.task = s.w.task := rfl
@[simp] theorem waitHere_w_ep (s : State) : (waitHere s).w.ep = s.w.ep := rfl
@[simp] theorem waitHere_w_spillIdx (s : State) : (waitHere s).w.spillIdx = s.w.spillIdx := rfl
@[simp] theorem waitHere_w_epoch (s : State) : (waitHere s).w.epoch = s.w.epoch := rfl
@[simp] theorem waitHere_w_lastIssue (s : State) : (waitHere s).w.lastIssue = s.w.lastIssue := rfl
@[simp] theorem waitHere_w_yieldEnd (s : State) : (waitHere s).w.yieldEnd = s.w.yieldEnd := rfl
@[simp] theorem waitHere_w_starved (s : State) : (waitHere s).w.starved = s.w.starved := rfl

theorem advance_eq (s : State) :
    advance s = { s with w := { s.w.run s.clock with regs := { s.w.regs with spc := s.w.regs.spc + 4 } } } := rfl

theorem goto_eq (s : State) (pc : DWord) :
    goto s pc = { s with w := { s.w.run s.clock with regs := { s.w.regs with spc := pc } } } := rfl

theorem waitHere_eq (s : State) :
    waitHere s = { s with w := { s.w with status := if s.w.status = .ready then .waiting else s.w.status } } := rfl

end Sys2Proof.Machine
end

