-- ==== Sys2Proof/Laws/Ops.lean ====
section
/-! SUPPORT. What the shared operations over a wave's registers and the scalar stream can do, said once: register reads
after register writes, the two ways a scalar instruction goes, a trap's two ways, and what a step does. -/

namespace Sys2Proof.Machine

/-! ### Registers -/

theorem getS_setS (s : State) (n m : Nat) (x : DWord) :
    getS (setS s n x).w m = if m = n then x else getS s.w m :=
  SMap.getD_write 0 s.w.regs.s n m x

@[simp] theorem getS_setS_self (s : State) (n : Nat) (x : DWord) : getS (setS s n x).w n = x := by
  simp [getS_setS]

theorem getVp_setVp (s : State) (n m : Nat) (x : Word) :
    getVp (setVp s n x).w m = if m = n then x else getVp s.w m :=
  SMap.getD_write 0 s.w.regs.vp n m x

theorem getV_setV_key (s : State) (r i q j : Nat) (x : Word) :
    getV (setV s r i x).w q j = if 32 * q + j = 32 * r + i then x else getV s.w q j :=
  SMap.getD_write 0 s.w.regs.v (32 * r + i) (32 * q + j) x

/-- A lane of a vector register is written, and no other lane of any register. -/
theorem getV_setV (s : State) (r i q j : Nat) (x : Word) (hi : i < 32) (hj : j < 32) :
    getV (setV s r i x).w q j = if q = r ∧ j = i then x else getV s.w q j := by
  rw [getV_setV_key]
  by_cases h : q = r ∧ j = i
  · rw [if_pos h, if_pos (by omega)]
  · rw [if_neg h, if_neg (by omega)]

@[simp] theorem getS_advance (s : State) (n : Nat) : getS (advance s).w n = getS s.w n := rfl
@[simp] theorem getV_advance (s : State) (r i : Nat) : getV (advance s).w r i = getV s.w r i := rfl
@[simp] theorem getVp_advance (s : State) (n : Nat) : getVp (advance s).w n = getVp s.w n := rfl
@[simp] theorem getC_advance (s : State) (n : Nat) : getC (advance s).w n = getC s.w n := rfl
@[simp] theorem getS_goto (s : State) (pc : DWord) (n : Nat) : getS (goto s pc).w n = getS s.w n := rfl
@[simp] theorem getS_waitHere (s : State) (n : Nat) : getS (waitHere s).w n = getS s.w n := rfl
@[simp] theorem getS_setC (s : State) (n m : Nat) (b : Bool) : getS (setC s n b).w m = getS s.w m := rfl
@[simp] theorem getS_setV (s : State) (r i m : Nat) (x : Word) : getS (setV s r i x).w m = getS s.w m := rfl
@[simp] theorem getV_setS (s : State) (n r i : Nat) (x : DWord) : getV (setS s n x).w r i = getV s.w r i := rfl
@[simp] theorem getVp_setS (s : State) (n m : Nat) (x : DWord) : getVp (setS s n x).w m = getVp s.w m := rfl
@[simp] theorem getC_setS (s : State) (n m : Nat) (x : DWord) : getC (setS s n x).w m = getC s.w m := rfl

/-! ### The scalar stream -/

/-- A scalar instruction that reads and writes scalar registers: it waits, or it has its effect. -/
theorem scalarOp_cases (s : State) (rs : List Nat) (d : Nat) (k : State → State) :
    ((rs.any (writerS s.w) || busyS s.w d) = true ∧ scalarOp s rs d k = waitHere s) ∨
    ((rs.any (writerS s.w) || busyS s.w d) = false ∧ scalarOp s rs d k = k s) := by
  unfold scalarOp
  cases h : (rs.any (writerS s.w) || busyS s.w d) <;> simp

theorem scalarOp_ready {s : State} {rs : List Nat} {d : Nat} (k : State → State)
    (hr : ∀ n ∈ rs, writerS s.w n = false) (hd : busyS s.w d = false) : scalarOp s rs d k = k s := by
  have : rs.any (writerS s.w) = false := by
    rw [List.any_eq_false]
    intro n hn
    simp [hr n hn]
  simp [scalarOp, this, hd]

theorem scalarOp_blocked {s : State} {rs : List Nat} {d : Nat} (k : State → State)
    (h : (∃ n ∈ rs, writerS s.w n = true) ∨ busyS s.w d = true) : scalarOp s rs d k = waitHere s := by
  unfold scalarOp
  rw [if_pos]
  rw [Bool.or_eq_true, List.any_eq_true]
  exact h

theorem scalarRead_cases (s : State) (rs : List Nat) (k : State → State) :
    (rs.any (writerS s.w) = true ∧ scalarRead s rs k = waitHere s) ∨
    (rs.any (writerS s.w) = false ∧ scalarRead s rs k = k s) := by
  unfold scalarRead
  cases h : rs.any (writerS s.w) <;> simp

theorem scalarRead_ready {s : State} {rs : List Nat} (k : State → State) (hr : ∀ n ∈ rs, writerS s.w n = false) :
    scalarRead s rs k = k s := by
  have : rs.any (writerS s.w) = false := by
    rw [List.any_eq_false]
    intro n hn
    simp [hr n hn]
  simp [scalarRead, this]

/-- A scalar trap waits for the lane stream and its pushes, or is taken. -/
theorem scalarTrapAt_cases (s : State) (resume : DWord) (code timm : Nat) (fa fg : DWord) :
    (laneComplete s = false ∧ scalarTrapAt s resume code timm fa fg = waitHere s) ∨
    (laneComplete s = true ∧ scalarTrapAt s resume code timm fa fg =
      takeTrap s { code := code, imp := false, lane := false, timm := timm, epc := s.w.regs.spc, elpc := 0,
                   faddr := fa, fagent := fg, resume := resume }) := by
  unfold scalarTrapAt
  cases h : laneComplete s <;> simp

/-- What giving up a park and its SC operations leaves alone. -/
theorem unpark_same (s : State) :
    (unpark s).w.sys = s.w.sys ∧ (unpark s).w.ctx = s.w.ctx ∧ (unpark s).w.part = s.w.part ∧ (unpark s).w.task = s.w.task ∧
    (unpark s).w.regs = s.w.regs ∧ (unpark s).contexts = s.contexts := by
  unfold unpark dropTickets
  dsimp only
  split <;> simp

/-- A trap with no handler to enter, or inside it, posts the cause and ends the wave. -/
theorem takeTrap_none (s : State) (c : Cause) (h : s.w.sys.handler = true ∨ (ctxOf s s.w.ctx).handler = 0) :
    takeTrap s c = quitWave (postCause (modLane (unpark s) (fun l =>
        { l with q := [], batch := 0, seq := l.seq + l.q.length })) s.w.ctx s.w.part
      { code := c.code, imp := c.imp, await := false, task := s.w.task, faddr := c.faddr, fagent := c.fagent,
        access := c.access, agent := (unpark s).w.word }) .faulted := by
  obtain ⟨h1, h2, h3, h4, -, h5⟩ := unpark_same s
  unfold takeTrap
  dsimp only
  rw [if_pos, h2, h3, h4]
  rw [Bool.or_eq_true, decide_eq_true_eq, h1, h2, ctxOf, h5]
  exact h

/-- A lane instruction that may issue now has its effect from the state its due results have landed in. -/
theorem laneStart_ready (s : State) (i : Instr) (k : State → State)
    (h1 : ¬ (landDue s).clock < (landDue s).w.lane.nextIssue) (h2 : scoreboard (landDue s).w i = false)
    (h3 : stallTrap (landDue s).w (landDue s).clock i = false) (h4 : rowBad (landDue s).w i = false) :
    laneStart s i k = k (landDue s) := by
  simp only [laneStart, h2, h3, h4]
  split <;> simp [h1]

/-- One whose cycle has not come, or that waits for a result, and that has not issued before, goes back to the head of the queue. -/
theorem laneStart_held (s : State) (i : Instr) (k : State → State)
    (h : (landDue s).clock < (landDue s).w.lane.nextIssue ∨ scoreboard (landDue s).w i = true)
    (hr : (landDue s).w.lane.issue.regs = none) :
    laneStart s i k = unissue (landDue s) := by
  simp only [laneStart, hr]
  rw [if_neg (by simp), if_pos]
  rw [Bool.or_eq_true, decide_eq_true_eq]
  exact h

/-! ### Records by number -/

theorem partOf_modPart (s : State) (n m : Nat) (f : Part → Part) :
    partOf (modPart s n f) m = if m = n then f (partOf s n) else partOf s m :=
  SMap.getD_put s.parts n m _ _

theorem ctxOf_modCtx (s : State) (n m : Nat) (f : Context → Context) :
    ctxOf (modCtx s n f) m = if m = n then f (ctxOf s n) else ctxOf s m :=
  SMap.getD_put s.contexts n m _ _

theorem coreOf_modCore (s : State) (n m : Nat) (f : Core → Core) :
    coreOf (modCore s n f) m = if m = n then f (coreOf s n) else coreOf s m :=
  SMap.getD_put s.cores n m _ _

theorem engineOf_modEngine (s : State) (n m : Nat) (f : Engine → Engine) :
    engineOf (modEngine s n f) m = if m = n then f (engineOf s n) else engineOf s m :=
  SMap.getD_put s.engines n m _ _

@[simp] theorem partOf_modW (s : State) (n : Nat) (f : Wave → Wave) : partOf (modW s f) n = partOf s n := rfl
@[simp] theorem ctxOf_modW (s : State) (n : Nat) (f : Wave → Wave) : ctxOf (modW s f) n = ctxOf s n := rfl
@[simp] theorem coreOf_modW (s : State) (n : Nat) (f : Wave → Wave) : coreOf (modW s f) n = coreOf s n := rfl
@[simp] theorem engineOf_modW (s : State) (n : Nat) (f : Wave → Wave) : engineOf (modW s f) n = engineOf s n := rfl

/-! ### Steps -/

/-- A step with a move named by the agenda runs that move. -/
theorem step_cons (s : State) (t : Turn) (rest : List Turn) (h : s.agenda = t :: rest) :
    step s = run t { s with agenda := rest } := by
  simp [step, h]

/-- A step with an empty agenda runs the policy's move. -/
theorem step_nil (s : State) (h : s.agenda = []) : step s = run (auto s) s := by
  simp [step, h]

end Sys2Proof.Machine
end

