-- ==== Sys2Proof/Laws/PerInstr.lean ====
section
/-! SUPPORT. The family `Encoded`, one lemma for each constructor of `Instr`: an instruction has its words in at
most one of the three formats (scalar words of chapter 04, lane words of chapter 04, packets of chapter 22). -/

namespace Sys2Proof.Laws.Encoded

open Sys2Proof

/-- In how many of the three formats an instruction has words. -/
def formats (i : Instr) : Nat :=
  (if (encodeScalar i).isSome then 1 else 0) + (if (encodeLane i).isSome then 1 else 0) +
    (if (encodePacket i).isSome then 1 else 0)

/-- An instruction has its words in one format, or, a device step, in none. -/
def Statement (i : Instr) : Prop := formats i ≤ 1

theorem add (d a b : BitVec 8) : Statement (.add d a b) := Nat.le_of_ble_eq_true rfl
theorem sub (d a b : BitVec 8) : Statement (.sub d a b) := Nat.le_of_ble_eq_true rfl
theorem and (d a b : BitVec 8) : Statement (.and d a b) := Nat.le_of_ble_eq_true rfl
theorem or (d a b : BitVec 8) : Statement (.or d a b) := Nat.le_of_ble_eq_true rfl
theorem xor (d a b : BitVec 8) : Statement (.xor d a b) := Nat.le_of_ble_eq_true rfl
theorem shl (d a b : BitVec 8) : Statement (.shl d a b) := Nat.le_of_ble_eq_true rfl
theorem shr (d a b : BitVec 8) : Statement (.shr d a b) := Nat.le_of_ble_eq_true rfl
theorem sar (d a b : BitVec 8) : Statement (.sar d a b) := Nat.le_of_ble_eq_true rfl
theorem mul (d a b : BitVec 8) : Statement (.mul d a b) := Nat.le_of_ble_eq_true rfl
theorem mulh (d a b : BitVec 8) : Statement (.mulh d a b) := Nat.le_of_ble_eq_true rfl
theorem mulhu (d a b : BitVec 8) : Statement (.mulhu d a b) := Nat.le_of_ble_eq_true rfl
theorem andn (d a b : BitVec 8) : Statement (.andn d a b) := Nat.le_of_ble_eq_true rfl
theorem min (d a b : BitVec 8) : Statement (.min d a b) := Nat.le_of_ble_eq_true rfl
theorem max (d a b : BitVec 8) : Statement (.max d a b) := Nat.le_of_ble_eq_true rfl
theorem minu (d a b : BitVec 8) : Statement (.minu d a b) := Nat.le_of_ble_eq_true rfl
theorem maxu (d a b : BitVec 8) : Statement (.maxu d a b) := Nat.le_of_ble_eq_true rfl
theorem popc (d a : BitVec 8) : Statement (.popc d a) := Nat.le_of_ble_eq_true rfl
theorem clz (d a : BitVec 8) : Statement (.clz d a) := Nat.le_of_ble_eq_true rfl
theorem ctz (d a : BitVec 8) : Statement (.ctz d a) := Nat.le_of_ble_eq_true rfl
theorem brev (d a : BitVec 8) : Statement (.brev d a) := Nat.le_of_ble_eq_true rfl
theorem sel (d a b : BitVec 8) (n : BitVec 2) : Statement (.sel d a b n) := Nat.le_of_ble_eq_true rfl
theorem addi (d a : BitVec 8) (i : BitVec 10) : Statement (.addi d a i) := Nat.le_of_ble_eq_true rfl
theorem andi (d a : BitVec 8) (i : BitVec 10) : Statement (.andi d a i) := Nat.le_of_ble_eq_true rfl
theorem ori (d a : BitVec 8) (i : BitVec 10) : Statement (.ori d a i) := Nat.le_of_ble_eq_true rfl
theorem xori (d a : BitVec 8) (i : BitVec 10) : Statement (.xori d a i) := Nat.le_of_ble_eq_true rfl
theorem shli (d a : BitVec 8) (n : BitVec 6) : Statement (.shli d a n) := Nat.le_of_ble_eq_true rfl
theorem shri (d a : BitVec 8) (n : BitVec 6) : Statement (.shri d a n) := Nat.le_of_ble_eq_true rfl
theorem sari (d a : BitVec 8) (n : BitVec 6) : Statement (.sari d a n) := Nat.le_of_ble_eq_true rfl
theorem roti (d a : BitVec 8) (n : BitVec 6) : Statement (.roti d a n) := Nat.le_of_ble_eq_true rfl
theorem muli (d a : BitVec 8) (i : BitVec 10) : Statement (.muli d a i) := Nat.le_of_ble_eq_true rfl
theorem movz (d : BitVec 8) (h : BitVec 2) (i : BitVec 16) : Statement (.movz d h i) := Nat.le_of_ble_eq_true rfl
theorem movk (d : BitVec 8) (h : BitVec 2) (i : BitVec 16) : Statement (.movk d h i) := Nat.le_of_ble_eq_true rfl
theorem cmp (d : BitVec 3) (c : BitVec 5) (a b : BitVec 8) : Statement (.cmp d c a b) := Nat.le_of_ble_eq_true rfl
theorem cmpi (d : BitVec 3) (c : BitVec 5) (a : BitVec 8) (i : BitVec 10) : Statement (.cmpi d c a i) := Nat.le_of_ble_eq_true rfl
theorem clog (d a b : BitVec 3) (t : BitVec 4) : Statement (.clog d a b t) := Nat.le_of_ble_eq_true rfl
theorem brc (n : BitVec 1) (c : BitVec 3) (o : BitVec 22) : Statement (.brc n c o) := Nat.le_of_ble_eq_true rfl
theorem call (o : BitVec 22) : Statement (.call o) := Nat.le_of_ble_eq_true rfl
theorem jmpr (a : BitVec 8) : Statement (.jmpr a) := Nat.le_of_ble_eq_true rfl
theorem callr (a : BitVec 8) : Statement (.callr a) := Nat.le_of_ble_eq_true rfl
theorem lrun (n : BitVec 6) (i : BitVec 20) : Statement (.lrun n i) := Nat.le_of_ble_eq_true rfl
theorem lnext (n : BitVec 6) : Statement (.lnext n) := Nat.le_of_ble_eq_true rfl
theorem mpush (p : BitVec 8) : Statement (.mpush p) := Nat.le_of_ble_eq_true rfl
theorem msets (a : BitVec 8) : Statement (.msets a) := Nat.le_of_ble_eq_true rfl
theorem mget (d : BitVec 8) : Statement (.mget d) := Nat.le_of_ble_eq_true rfl
theorem ballot (d p : BitVec 8) : Statement (.ballot d p) := Nat.le_of_ble_eq_true rfl
theorem vpset (a p : BitVec 8) : Statement (.vpset a p) := Nat.le_of_ble_eq_true rfl
theorem tloop (v : BitVec 10) (o : BitVec 16) : Statement (.tloop v o) := Nat.le_of_ble_eq_true rfl
theorem srfl (d : BitVec 8) (v : BitVec 10) : Statement (.srfl d v) := Nat.le_of_ble_eq_true rfl
theorem slane (d : BitVec 8) (v : BitVec 10) (a : BitVec 8) : Statement (.slane d v a) := Nat.le_of_ble_eq_true rfl
theorem sld (d a : BitVec 8) (o : BitVec 10) : Statement (.sld d a o) := Nat.le_of_ble_eq_true rfl
theorem sldw (d a : BitVec 8) (o : BitVec 10) : Statement (.sldw d a o) := Nat.le_of_ble_eq_true rfl
theorem sst (s a : BitVec 8) (o : BitVec 10) : Statement (.sst s a o) := Nat.le_of_ble_eq_true rfl
theorem sstw (s a : BitVec 8) (o : BitVec 10) : Statement (.sstw s a o) := Nat.le_of_ble_eq_true rfl
theorem saadd (d a b : BitVec 8) (o : BitVec 2) : Statement (.saadd d a b o) := Nat.le_of_ble_eq_true rfl
theorem saswp (d a b : BitVec 8) (o : BitVec 2) : Statement (.saswp d a b o) := Nat.le_of_ble_eq_true rfl
theorem sacas (d a b : BitVec 8) (o : BitVec 2) : Statement (.sacas d a b o) := Nat.le_of_ble_eq_true rfl
theorem samaxu (d a b : BitVec 8) (o : BitVec 2) : Statement (.samaxu d a b o) := Nat.le_of_ble_eq_true rfl
theorem fence (s : BitVec 3) (o : BitVec 2) (a b : BitVec 6) : Statement (.fence s o a b) := Nat.le_of_ble_eq_true rfl
theorem srd (d : BitVec 8) (r : BitVec 18) : Statement (.srd d r) := Nat.le_of_ble_eq_true rfl
theorem swr (s : BitVec 8) (r : BitVec 18) : Statement (.swr s r) := Nat.le_of_ble_eq_true rfl
theorem blinktrig (s : BitVec 8) : Statement (.blinktrig s) := Nat.le_of_ble_eq_true rfl
theorem trap (i : BitVec 18) : Statement (.trap i) := Nat.le_of_ble_eq_true rfl
theorem bar (g a : BitVec 8) : Statement (.bar g a) := Nat.le_of_ble_eq_true rfl
theorem bara (g a : BitVec 8) : Statement (.bara g a) := Nat.le_of_ble_eq_true rfl
theorem barw (g : BitVec 8) : Statement (.barw g) := Nat.le_of_ble_eq_true rfl
theorem oresa (d a : BitVec 8) (n : BitVec 4) : Statement (.oresa d a n) := Nat.le_of_ble_eq_true rfl
theorem oresb (d a : BitVec 8) (n : BitVec 4) : Statement (.oresb d a n) := Nat.le_of_ble_eq_true rfl
theorem orel (n : BitVec 4) : Statement (.orel n) := Nat.le_of_ble_eq_true rfl
theorem orec (d : BitVec 8) (n : BitVec 4) : Statement (.orec d n) := Nat.le_of_ble_eq_true rfl
theorem tsubmit (d a : BitVec 8) : Statement (.tsubmit d a) := Nat.le_of_ble_eq_true rfl
theorem tsignal (a : BitVec 8) : Statement (.tsignal a) := Nat.le_of_ble_eq_true rfl
theorem rtake (d a : BitVec 8) : Statement (.rtake d a) := Nat.le_of_ble_eq_true rfl
theorem tcancel (a : BitVec 8) : Statement (.tcancel a) := Nat.le_of_ble_eq_true rfl
theorem incup (d a b : BitVec 8) : Statement (.incup d a b) := Nat.le_of_ble_eq_true rfl
theorem incrd (d a : BitVec 8) : Statement (.incrd d a) := Nat.le_of_ble_eq_true rfl
theorem bndchk (d a b : BitVec 8) : Statement (.bndchk d a b) := Nat.le_of_ble_eq_true rfl
theorem incrst (a : BitVec 8) : Statement (.incrst a) := Nat.le_of_ble_eq_true rfl
theorem qbind (s : BitVec 8) (q : BitVec 5) : Statement (.qbind s q) := Nat.le_of_ble_eq_true rfl
theorem qcnt (s : BitVec 8) (q : BitVec 5) : Statement (.qcnt s q) := Nat.le_of_ble_eq_true rfl
theorem qpushs (s : BitVec 8) (q : BitVec 5) : Statement (.qpushs s q) := Nat.le_of_ble_eq_true rfl
theorem qpops (s : BitVec 8) (q : BitVec 5) : Statement (.qpops s q) := Nat.le_of_ble_eq_true rfl
theorem gcfg (s : BitVec 8) (g : BitVec 3) : Statement (.gcfg s g) := Nat.le_of_ble_eq_true rfl
theorem gstart (g : BitVec 3) : Statement (.gstart g) := Nat.le_of_ble_eq_true rfl
theorem gstop (g : BitVec 3) : Statement (.gstop g) := Nat.le_of_ble_eq_true rfl
theorem gstat (s : BitVec 8) (g : BitVec 3) : Statement (.gstat s g) := Nat.le_of_ble_eq_true rfl
theorem vadd (x : LArith) : Statement (.vadd x) := Nat.le_of_ble_eq_true rfl
theorem vsub (x : LArith) : Statement (.vsub x) := Nat.le_of_ble_eq_true rfl
theorem vmul (x : LArith) : Statement (.vmul x) := Nat.le_of_ble_eq_true rfl
theorem vmulh (x : LArith) : Statement (.vmulh x) := Nat.le_of_ble_eq_true rfl
theorem vmulhu (x : LArith) : Statement (.vmulhu x) := Nat.le_of_ble_eq_true rfl
theorem vmad (x : LArith) : Statement (.vmad x) := Nat.le_of_ble_eq_true rfl
theorem vand (x : LArith) : Statement (.vand x) := Nat.le_of_ble_eq_true rfl
theorem vor (x : LArith) : Statement (.vor x) := Nat.le_of_ble_eq_true rfl
theorem vxor (x : LArith) : Statement (.vxor x) := Nat.le_of_ble_eq_true rfl
theorem vandn (x : LArith) : Statement (.vandn x) := Nat.le_of_ble_eq_true rfl
theorem vshl (x : LArith) : Statement (.vshl x) := Nat.le_of_ble_eq_true rfl
theorem vshr (x : LArith) : Statement (.vshr x) := Nat.le_of_ble_eq_true rfl
theorem vsar (x : LArith) : Statement (.vsar x) := Nat.le_of_ble_eq_true rfl
theorem vmin (x : LArith) : Statement (.vmin x) := Nat.le_of_ble_eq_true rfl
theorem vmax (x : LArith) : Statement (.vmax x) := Nat.le_of_ble_eq_true rfl
theorem vminu (x : LArith) : Statement (.vminu x) := Nat.le_of_ble_eq_true rfl
theorem vmaxu (x : LArith) : Statement (.vmaxu x) := Nat.le_of_ble_eq_true rfl
theorem vpopc (x : LArith) : Statement (.vpopc x) := Nat.le_of_ble_eq_true rfl
theorem vclz (x : LArith) : Statement (.vclz x) := Nat.le_of_ble_eq_true rfl
theorem vbrev (x : LArith) : Statement (.vbrev x) := Nat.le_of_ble_eq_true rfl
theorem vbfe (x : LArith) : Statement (.vbfe x) := Nat.le_of_ble_eq_true rfl
theorem vbfi (x : LArith) : Statement (.vbfi x) := Nat.le_of_ble_eq_true rfl
theorem vcmp (x : LArith) : Statement (.vcmp x) := Nat.le_of_ble_eq_true rfl
theorem vsel (x : LArith) : Statement (.vsel x) := Nat.le_of_ble_eq_true rfl
theorem vmov (x : LArith) : Statement (.vmov x) := Nat.le_of_ble_eq_true rfl
theorem vadd64 (x : LArith) : Statement (.vadd64 x) := Nat.le_of_ble_eq_true rfl
theorem vsub64 (x : LArith) : Statement (.vsub64 x) := Nat.le_of_ble_eq_true rfl
theorem vmul64 (x : LArith) : Statement (.vmul64 x) := Nat.le_of_ble_eq_true rfl
theorem vshl64 (x : LArith) : Statement (.vshl64 x) := Nat.le_of_ble_eq_true rfl
theorem vshr64 (x : LArith) : Statement (.vshr64 x) := Nat.le_of_ble_eq_true rfl
theorem vlaneid (x : LArith) : Statement (.vlaneid x) := Nat.le_of_ble_eq_true rfl
theorem vmix (x : LArith) : Statement (.vmix x) := Nat.le_of_ble_eq_true rfl
theorem vfadd (x : LArith) : Statement (.vfadd x) := Nat.le_of_ble_eq_true rfl
theorem vfsub (x : LArith) : Statement (.vfsub x) := Nat.le_of_ble_eq_true rfl
theorem vfmul (x : LArith) : Statement (.vfmul x) := Nat.le_of_ble_eq_true rfl
theorem vfma (x : LArith) : Statement (.vfma x) := Nat.le_of_ble_eq_true rfl
theorem vfmin (x : LArith) : Statement (.vfmin x) := Nat.le_of_ble_eq_true rfl
theorem vfmax (x : LArith) : Statement (.vfmax x) := Nat.le_of_ble_eq_true rfl
theorem vfcmp (x : LArith) : Statement (.vfcmp x) := Nat.le_of_ble_eq_true rfl
theorem vfdiv (x : LArith) : Statement (.vfdiv x) := Nat.le_of_ble_eq_true rfl
theorem vfsqrt (x : LArith) : Statement (.vfsqrt x) := Nat.le_of_ble_eq_true rfl
theorem vfrcp (x : LArith) : Statement (.vfrcp x) := Nat.le_of_ble_eq_true rfl
theorem vfrsq (x : LArith) : Statement (.vfrsq x) := Nat.le_of_ble_eq_true rfl
theorem vexp2 (x : LArith) : Statement (.vexp2 x) := Nat.le_of_ble_eq_true rfl
theorem vlog2 (x : LArith) : Statement (.vlog2 x) := Nat.le_of_ble_eq_true rfl
theorem vsinpi (x : LArith) : Statement (.vsinpi x) := Nat.le_of_ble_eq_true rfl
theorem vcospi (x : LArith) : Statement (.vcospi x) := Nat.le_of_ble_eq_true rfl
theorem vfrnd (x : LArith) : Statement (.vfrnd x) := Nat.le_of_ble_eq_true rfl
theorem vfclass (x : LArith) : Statement (.vfclass x) := Nat.le_of_ble_eq_true rfl
theorem vfldexp (x : LArith) : Statement (.vfldexp x) := Nat.le_of_ble_eq_true rfl
theorem vfdot2 (x : LArith) : Statement (.vfdot2 x) := Nat.le_of_ble_eq_true rfl
theorem vfdot4 (x : LArith) : Statement (.vfdot4 x) := Nat.le_of_ble_eq_true rfl
theorem vcvt (x : LArith) : Statement (.vcvt x) := Nat.le_of_ble_eq_true rfl
theorem vcvtpk (x : LArith) : Statement (.vcvtpk x) := Nat.le_of_ble_eq_true rfl
theorem vqblk (x : LArith) : Statement (.vqblk x) := Nat.le_of_ble_eq_true rfl
theorem vdqblk (x : LArith) : Statement (.vdqblk x) := Nat.le_of_ble_eq_true rfl
theorem vshfl (x : LArith) : Statement (.vshfl x) := Nat.le_of_ble_eq_true rfl
theorem vscan (x : LArith) : Statement (.vscan x) := Nat.le_of_ble_eq_true rfl
theorem vradd (x : LArith) : Statement (.vradd x) := Nat.le_of_ble_eq_true rfl
theorem vrmin (x : LArith) : Statement (.vrmin x) := Nat.le_of_ble_eq_true rfl
theorem vrmax (x : LArith) : Statement (.vrmax x) := Nat.le_of_ble_eq_true rfl
theorem vcompact (x : LArith) : Statement (.vcompact x) := Nat.le_of_ble_eq_true rfl
theorem vmatch (x : LArith) : Statement (.vmatch x) := Nat.le_of_ble_eq_true rfl
theorem vprank (x : LArith) : Statement (.vprank x) := Nat.le_of_ble_eq_true rfl
theorem vld (x : LMem) : Statement (.vld x) := Nat.le_of_ble_eq_true rfl
theorem vst (x : LMem) : Statement (.vst x) := Nat.le_of_ble_eq_true rfl
theorem vldc (x : LMem) : Statement (.vldc x) := Nat.le_of_ble_eq_true rfl
theorem vstc (x : LMem) : Statement (.vstc x) := Nat.le_of_ble_eq_true rfl
theorem vldro (x : LMem) : Statement (.vldro x) := Nat.le_of_ble_eq_true rfl
theorem vatom (x : LMem) : Statement (.vatom x) := Nat.le_of_ble_eq_true rfl
theorem vcas (x : LMem) : Statement (.vcas x) := Nat.le_of_ble_eq_true rfl
theorem vpref (x : LMem) : Statement (.vpref x) := Nat.le_of_ble_eq_true rfl
theorem vqpush (x : LArith) : Statement (.vqpush x) := Nat.le_of_ble_eq_true rfl
theorem vqpop (x : LArith) : Statement (.vqpop x) := Nat.le_of_ble_eq_true rfl
theorem wemit (x : LArith) : Statement (.wemit x) := Nat.le_of_ble_eq_true rfl
theorem rspawn (x : LArith) : Statement (.rspawn x) := Nat.le_of_ble_eq_true rfl
theorem rcont (x : LArith) : Statement (.rcont x) := Nat.le_of_ble_eq_true rfl
theorem racc (x : LArith) : Statement (.racc x) := Nat.le_of_ble_eq_true rfl
theorem mma (x : LMma) : Statement (.mma x) := Nat.le_of_ble_eq_true rfl
theorem mmas (x : LMma) (orm : BitVec 4) : Statement (.mmas x orm) := Nat.le_of_ble_eq_true rfl
theorem mrd (x : LMrw) : Statement (.mrd x) := Nat.le_of_ble_eq_true rfl
theorem mwr (x : LMrw) : Statement (.mwr x) := Nat.le_of_ble_eq_true rfl
theorem mzero (stall : BitVec 4) (m : BitVec 2) : Statement (.mzero stall m) := Nat.le_of_ble_eq_true rfl
theorem mwait (stall : BitVec 4) : Statement (.mwait stall) := Nat.le_of_ble_eq_true rfl
theorem osto (x : LRec) : Statement (.osto x) := Nat.le_of_ble_eq_true rfl
theorem olod (x : LRec) : Statement (.olod x) := Nat.le_of_ble_eq_true rfl
theorem mepi (x : LEpi) : Statement (.mepi x) := Nat.le_of_ble_eq_true rfl
theorem vnop (stall : BitVec 4) : Statement (.vnop stall) := Nat.le_of_ble_eq_true rfl
theorem vtrapif (x : LArith) : Statement (.vtrapif x) := Nat.le_of_ble_eq_true rfl
theorem nop (h : Hdr) : Statement (.nop h) := Nat.le_of_ble_eq_true rfl
theorem ctxcfg (h : Hdr) (handler lbase rt spill w6 tmpl : BitVec 64) : Statement (.ctxcfg h handler lbase rt spill w6 tmpl) := Nat.le_of_ble_eq_true rfl
theorem launch (h : Hdr) (desc argb w4 groups : BitVec 64) : Statement (.launch h desc argb w4 groups) := Nat.le_of_ble_eq_true rfl
theorem graph (h : Hdr) (desc argb w4 groups nodes w7 : BitVec 64) : Statement (.graph h desc argb w4 groups nodes w7) := Nat.le_of_ble_eq_true rfl
theorem task (h : Hdr) (r0 r1 r2 r3 r4 r5 r6 r7 : BitVec 64) : Statement (.task h r0 r1 r2 r3 r4 r5 r6 r7) := Nat.le_of_ble_eq_true rfl
theorem signal (h : Hdr) (idx w3 : BitVec 64) : Statement (.signal h idx w3) := Nat.le_of_ble_eq_true rfl
theorem cancelLaunch (h : Hdr) (w2 seq : BitVec 64) : Statement (.cancelLaunch h w2 seq) := Nat.le_of_ble_eq_true rfl
theorem cancelTask (h : Hdr) (w2 idx : BitVec 64) : Statement (.cancelTask h w2 idx) := Nat.le_of_ble_eq_true rfl
theorem frame (h : Hdr) (desc w3 : BitVec 64) : Statement (.frame h desc w3) := Nat.le_of_ble_eq_true rfl
theorem mapSetTableBase (h : Hdr) (w2 base w4 w5 : BitVec 64) : Statement (.mapSetTableBase h w2 base w4 w5) := Nat.le_of_ble_eq_true rfl
theorem mapWriteEntry (h : Hdr) (w2 addr entry w5 : BitVec 64) : Statement (.mapWriteEntry h w2 addr entry w5) := Nat.le_of_ble_eq_true rfl
theorem mapMigrate (h : Hdr) (w2 page pa w5 : BitVec 64) : Statement (.mapMigrate h w2 page pa w5) := Nat.le_of_ble_eq_true rfl
theorem copy (h : Hdr) (start off : BitVec 64) : Statement (.copy h start off) := Nat.le_of_ble_eq_true rfl
theorem fenceCommand (h : Hdr) : Statement (.fenceCommand h) := Nat.le_of_ble_eq_true rfl
theorem codecwb (h : Hdr) (page count : BitVec 64) : Statement (.codecwb h page count) := Nat.le_of_ble_eq_true rfl
theorem countrdBound (h : Hdr) (w2 w3 buf w5 : BitVec 64) : Statement (.countrdBound h w2 w3 buf w5) := Nat.le_of_ble_eq_true rfl
theorem countrdCodec (h : Hdr) (w2 page buf w5 : BitVec 64) : Statement (.countrdCodec h w2 page buf w5) := Nat.le_of_ble_eq_true rfl
theorem countrdMeridian (h : Hdr) (w2 w3 buf w5 : BitVec 64) : Statement (.countrdMeridian h w2 w3 buf w5) := Nat.le_of_ble_eq_true rfl
theorem countrdFlush (h : Hdr) (w2 j buf w5 : BitVec 64) : Statement (.countrdFlush h w2 j buf w5) := Nat.le_of_ble_eq_true rfl
theorem blink (h : Hdr) (ctl thr : BitVec 64) : Statement (.blink h ctl thr) := Nat.le_of_ble_eq_true rfl
theorem snapread (h : Hdr) (buf bytes : BitVec 64) : Statement (.snapread h buf bytes) := Nat.le_of_ble_eq_true rfl
theorem capread (h : Hdr) (w2 buf : BitVec 64) : Statement (.capread h w2 buf) := Nat.le_of_ble_eq_true rfl
theorem faultansResume (h : Hdr) (id w3 : BitVec 64) : Statement (.faultansResume h id w3) := Nat.le_of_ble_eq_true rfl
theorem faultansFail (h : Hdr) (id w3 : BitVec 64) : Statement (.faultansFail h id w3) := Nat.le_of_ble_eq_true rfl
theorem switch (h : Hdr) (area w3 : BitVec 64) : Statement (.switch h area w3) := Nat.le_of_ble_eq_true rfl
theorem restore (h : Hdr) (area w3 : BitVec 64) : Statement (.restore h area w3) := Nat.le_of_ble_eq_true rfl
theorem ringrst (h : Hdr) (w2 head seq w5 : BitVec 64) : Statement (.ringrst h w2 head seq w5) := Nat.le_of_ble_eq_true rfl
theorem power (h : Hdr) (w2 w3 : BitVec 64) : Statement (.power h w2 w3) := Nat.le_of_ble_eq_true rfl
theorem partcfg (h : Hdr) (w2 mask w4 w5 : BitVec 64) : Statement (.partcfg h w2 mask w4 w5) := Nat.le_of_ble_eq_true rfl
theorem image (h : Hdr) (addr w3 : BitVec 64) : Statement (.image h addr w3) := Nat.le_of_ble_eq_true rfl
theorem attest (h : Hdr) (buf w3 n0 n1 n2 n3 n4 n5 n6 n7 : BitVec 64) : Statement (.attest h buf w3 n0 n1 n2 n3 n4 n5 n6 n7) := Nat.le_of_ble_eq_true rfl
theorem illegalScalarWord (w : BitVec 32) : Statement (.illegalScalarWord w) := Nat.le_of_ble_eq_true rfl
theorem routeTableProgram (rows : List Route) (anchor : BitVec 12) : Statement (.routeTableProgram rows anchor) := Nat.le_of_ble_eq_true rfl
theorem remoteRequest (r : RemoteReq) : Statement (.remoteRequest r) := Nat.le_of_ble_eq_true rfl
theorem copyStart (w : Nat) (va value tmpl : BitVec 64) : Statement (.copyStart w va value tmpl) := Nat.le_of_ble_eq_true rfl
theorem kick (w : Nat) (va value : BitVec 64) : Statement (.kick w va value) := Nat.le_of_ble_eq_true rfl
theorem codecMerge (ctx : Nat) (va data : BitVec 64) : Statement (.codecMerge ctx va data) := Nat.le_of_ble_eq_true rfl
theorem powerWindow (watts : Nat) : Statement (.powerWindow watts) := Nat.le_of_ble_eq_true rfl
theorem recoveryFetch (image : List Byte) : Statement (.recoveryFetch image) := Nat.le_of_ble_eq_true rfl
theorem blinkMessage (p : Nat) (tag : BitVec 16) : Statement (.blinkMessage p tag) := Nat.le_of_ble_eq_true rfl
theorem unreliablePacketDiscard (port : BitVec 3) : Statement (.unreliablePacketDiscard port) := Nat.le_of_ble_eq_true rfl
theorem hostAccess (h : HostAcc) : Statement (.hostAccess h) := Nat.le_of_ble_eq_true rfl
theorem doorbell (ctx : BitVec 16) (value : BitVec 64) : Statement (.doorbell ctx value) := Nat.le_of_ble_eq_true rfl
theorem ret : Statement (.ret) := Nat.le_of_ble_eq_true rfl
theorem exit : Statement (.exit) := Nat.le_of_ble_eq_true rfl
theorem lwait : Statement (.lwait) := Nat.le_of_ble_eq_true rfl
theorem yield : Statement (.yield) := Nat.le_of_ble_eq_true rfl
theorem kpoint : Statement (.kpoint) := Nat.le_of_ble_eq_true rfl
theorem snop : Statement (.snop) := Nat.le_of_ble_eq_true rfl
theorem melse : Statement (.melse) := Nat.le_of_ble_eq_true rfl
theorem mpop : Statement (.mpop) := Nat.le_of_ble_eq_true rfl
theorem mrest : Statement (.mrest) := Nat.le_of_ble_eq_true rfl
theorem laneResultLand : Statement (.laneResultLand) := Nat.le_of_ble_eq_true rfl
theorem variableWriteLand : Statement (.variableWriteLand) := Nat.le_of_ble_eq_true rfl
theorem loadDataReturn : Statement (.loadDataReturn) := Nat.le_of_ble_eq_true rfl
theorem scOperationPerform : Statement (.scOperationPerform) := Nat.le_of_ble_eq_true rfl
theorem llsDecay : Statement (.llsDecay) := Nat.le_of_ble_eq_true rfl
theorem starvation : Statement (.starvation) := Nat.le_of_ble_eq_true rfl
theorem yieldWindowEnd : Statement (.yieldWindowEnd) := Nat.le_of_ble_eq_true rfl
theorem workgroupPlacement : Statement (.workgroupPlacement) := Nat.le_of_ble_eq_true rfl
theorem coopReserve : Statement (.coopReserve) := Nat.le_of_ble_eq_true rfl
theorem wavePlace : Statement (.wavePlace) := Nat.le_of_ble_eq_true rfl
theorem admission : Statement (.admission) := Nat.le_of_ble_eq_true rfl
theorem deal : Statement (.deal) := Nat.le_of_ble_eq_true rfl
theorem dispatch : Statement (.dispatch) := Nat.le_of_ble_eq_true rfl
theorem finderProbe : Statement (.finderProbe) := Nat.le_of_ble_eq_true rfl
theorem probeServe : Statement (.probeServe) := Nat.le_of_ble_eq_true rfl
theorem sweepVisit : Statement (.sweepVisit) := Nat.le_of_ble_eq_true rfl
theorem incumbentPropagate : Statement (.incumbentPropagate) := Nat.le_of_ble_eq_true rfl
theorem coreGate : Statement (.coreGate) := Nat.le_of_ble_eq_true rfl
theorem coreWake : Statement (.coreWake) := Nat.le_of_ble_eq_true rfl
theorem corePowerUp : Statement (.corePowerUp) := Nat.le_of_ble_eq_true rfl
theorem matrixOpStart : Statement (.matrixOpStart) := Nat.le_of_ble_eq_true rfl
theorem matrixStep : Statement (.matrixStep) := Nat.le_of_ble_eq_true rfl
theorem subnormalAssist : Statement (.subnormalAssist) := Nat.le_of_ble_eq_true rfl
theorem matrixOpFinish : Statement (.matrixOpFinish) := Nat.le_of_ble_eq_true rfl
theorem recordRelease : Statement (.recordRelease) := Nat.le_of_ble_eq_true rfl
theorem copyJobBegin : Statement (.copyJobBegin) := Nat.le_of_ble_eq_true rfl
theorem copyJobComplete : Statement (.copyJobComplete) := Nat.le_of_ble_eq_true rfl
theorem cardTake : Statement (.cardTake) := Nat.le_of_ble_eq_true rfl
theorem cardComplete : Statement (.cardComplete) := Nat.le_of_ble_eq_true rfl
theorem remotePushServe : Statement (.remotePushServe) := Nat.le_of_ble_eq_true rfl
theorem queueWaitServe : Statement (.queueWaitServe) := Nat.le_of_ble_eq_true rfl
theorem streamFiring : Statement (.streamFiring) := Nat.le_of_ble_eq_true rfl
theorem nodeWaveLaunch : Statement (.nodeWaveLaunch) := Nat.le_of_ble_eq_true rfl
theorem nodeWaveTimeout : Statement (.nodeWaveTimeout) := Nat.le_of_ble_eq_true rfl
theorem traversalBatchDeal : Statement (.traversalBatchDeal) := Nat.le_of_ble_eq_true rfl
theorem traversalBinTimeout : Statement (.traversalBinTimeout) := Nat.le_of_ble_eq_true rfl
theorem prefetchTimeout : Statement (.prefetchTimeout) := Nat.le_of_ble_eq_true rfl
theorem traversalDone : Statement (.traversalDone) := Nat.le_of_ble_eq_true rfl
theorem shadingWaveForm : Statement (.shadingWaveForm) := Nat.le_of_ble_eq_true rfl
theorem shadingBinTimeout : Statement (.shadingBinTimeout) := Nat.le_of_ble_eq_true rfl
theorem jamRule : Statement (.jamRule) := Nat.le_of_ble_eq_true rfl
theorem spillReturn : Statement (.spillReturn) := Nat.le_of_ble_eq_true rfl
theorem frameDrain : Statement (.frameDrain) := Nat.le_of_ble_eq_true rfl
theorem codecEncode : Statement (.codecEncode) := Nat.le_of_ble_eq_true rfl
theorem migration : Statement (.migration) := Nat.le_of_ble_eq_true rfl
theorem waveSave : Statement (.waveSave) := Nat.le_of_ble_eq_true rfl
theorem preemptTimeout : Statement (.preemptTimeout) := Nat.le_of_ble_eq_true rfl
theorem dieBoot : Statement (.dieBoot) := Nat.le_of_ble_eq_true rfl
theorem blinkPin : Statement (.blinkPin) := Nat.le_of_ble_eq_true rfl
theorem blinkHoldoffEnd : Statement (.blinkHoldoffEnd) := Nat.le_of_ble_eq_true rfl
theorem ringHalt : Statement (.ringHalt) := Nat.le_of_ble_eq_true rfl
theorem commandComplete : Statement (.commandComplete) := Nat.le_of_ble_eq_true rfl

end Sys2Proof.Laws.Encoded
end

