-- ==== Sys2Proof/Tests/Slice0.lean ====
section
/-! SUPPORT. The model's own tests: every row's decoding from a word of the spec, a refused term for each check of
`Instr.wf`, small steps with the values the spec's rules and worked examples give, and states that meet the
hypotheses of the statements. -/

namespace Sys2Proof.Tests

set_option Elab.async false

open Sys2Proof.Machine

/-- Every active lane: no predicate. -/
def always : Pred := { pe := false, pn := false, pi := 0 }

/-- An arithmetic-form instruction with every field at its neutral value. -/
def plain : LArith :=
  { stall := 0, pred := always, ty := .b32, vd := 0, va := 0, b := .vec 0, c := .vec 0, m := Mods.neutral }

/-- A memory-form instruction with every field at its neutral value. -/
def plainMem : LMem :=
  { stall := 0, pred := always, size := .b32, vd := 0, va := 0, vc := 0, base := .vec 0, off := 0, aop := 0,
    order := .rlx, scope := .wave }

/-! ### Decoding -/

/-- One word of each scalar row, from the fixed bits and the field places the opcode table gives. -/
theorem test_scalar_words_1 :
    decodeScalar 0x06151A9C = .add 0x85 0x46 0xA7 ∧
    decodeScalar 0x06151A9D = .sub 0x85 0x46 0xA7 ∧
    decodeScalar 0x06151A9E = .and 0x85 0x46 0xA7 ∧
    decodeScalar 0x06151A9F = .or 0x85 0x46 0xA7 ∧
    decodeScalar 0x0A151A9C = .xor 0x85 0x46 0xA7 ∧
    decodeScalar 0x0A151A9D = .shl 0x85 0x46 0xA7 ∧
    decodeScalar 0x0A151A9E = .shr 0x85 0x46 0xA7 ∧
    decodeScalar 0x0A151A9F = .sar 0x85 0x46 0xA7 ∧
    decodeScalar 0x0E151A9C = .mul 0x85 0x46 0xA7 ∧
    decodeScalar 0x0E151A9D = .mulh 0x85 0x46 0xA7 ∧
    decodeScalar 0x0E151A9E = .mulhu 0x85 0x46 0xA7 ∧
    decodeScalar 0x0E151A9F = .andn 0x85 0x46 0xA7 := by decide

/-- One word of each scalar row, from the fixed bits and the field places the opcode table gives. -/
theorem test_scalar_words_2 :
    decodeScalar 0x12151A9C = .min 0x85 0x46 0xA7 ∧
    decodeScalar 0x12151A9D = .max 0x85 0x46 0xA7 ∧
    decodeScalar 0x12151A9E = .minu 0x85 0x46 0xA7 ∧
    decodeScalar 0x12151A9F = .maxu 0x85 0x46 0xA7 ∧
    decodeScalar 0x16151800 = .popc 0x85 0x46 ∧
    decodeScalar 0x16151801 = .clz 0x85 0x46 ∧
    decodeScalar 0x16151802 = .ctz 0x85 0x46 ∧
    decodeScalar 0x16151803 = .brev 0x85 0x46 ∧
    decodeScalar 0x1A151A9E = .sel 0x85 0x46 0xA7 2 ∧
    decodeScalar 0x1E1519FD = .addi 0x85 0x46 0x1FD ∧
    decodeScalar 0x221519FD = .andi 0x85 0x46 0x1FD ∧
    decodeScalar 0x261519FD = .ori 0x85 0x46 0x1FD := by decide

/-- One word of each scalar row, from the fixed bits and the field places the opcode table gives. -/
theorem test_scalar_words_3 :
    decodeScalar 0x2A1519FD = .xori 0x85 0x46 0x1FD ∧
    decodeScalar 0x2E151821 = .shli 0x85 0x46 0x21 ∧
    decodeScalar 0x2E151921 = .shri 0x85 0x46 0x21 ∧
    decodeScalar 0x2E151A21 = .sari 0x85 0x46 0x21 ∧
    decodeScalar 0x2E151B21 = .roti 0x85 0x46 0x21 ∧
    decodeScalar 0x321519FD = .muli 0x85 0x46 0x1FD ∧
    decodeScalar 0x36168421 = .movz 0x85 2 0x8421 ∧
    decodeScalar 0x3A168421 = .movk 0x85 2 0x8421 ∧
    decodeScalar 0x3DA69E14 = .cmp 3 9 0xA7 0x85 ∧
    decodeScalar 0x41A69EA3 = .cmpi 3 9 0xA7 0x2A3 ∧
    decodeScalar 0x45CB2000 = .clog 3 4 5 9 ∧
    decodeScalar 0x4B200003 = .brc 1 4 0x200003 := by decide

/-- One word of each scalar row, from the fixed bits and the field places the opcode table gives. -/
theorem test_scalar_words_4 :
    decodeScalar 0x4DE00003 = .call 0x200003 ∧
    decodeScalar 0x50021400 = .jmpr 0x85 ∧
    decodeScalar 0x50021401 = .callr 0x85 ∧
    decodeScalar 0x50000002 = .ret ∧
    decodeScalar 0x50000003 = .exit ∧
    decodeScalar 0x56180007 = .lrun 0x21 0x80007 ∧
    decodeScalar 0x5A100000 = .lnext 0x21 ∧
    decodeScalar 0x5C000000 = .lwait ∧
    decodeScalar 0x5C000001 = .yield ∧
    decodeScalar 0x5C000002 = .kpoint ∧
    decodeScalar 0x5C000003 = .snop ∧
    decodeScalar 0x60000214 = .mpush 0x85 := by decide

/-- One word of each scalar row, from the fixed bits and the field places the opcode table gives. -/
theorem test_scalar_words_5 :
    decodeScalar 0x60000001 = .melse ∧
    decodeScalar 0x60000002 = .mpop ∧
    decodeScalar 0x60021403 = .msets 0x85 ∧
    decodeScalar 0x66140000 = .mget 0x85 ∧
    decodeScalar 0x66140119 = .ballot 0x85 0x46 ∧
    decodeScalar 0x64000002 = .mrest ∧
    decodeScalar 0x6402151B = .vpset 0x85 0x46 ∧
    decodeScalar 0x69FD8421 = .tloop 0x1FD 0x8421 ∧
    decodeScalar 0x6E16A300 = .srfl 0x85 0x2A3 ∧
    decodeScalar 0x7216A3A7 = .slane 0x85 0x2A3 0xA7 ∧
    decodeScalar 0x761519FD = .sld 0x85 0x46 0x1FD ∧
    decodeScalar 0x7A1519FD = .sldw 0x85 0x46 0x1FD := by decide

/-- One word of each scalar row, from the fixed bits and the field places the opcode table gives. -/
theorem test_scalar_words_6 :
    decodeScalar 0x7E1519FD = .sst 0x85 0x46 0x1FD ∧
    decodeScalar 0x821519FD = .sstw 0x85 0x46 0x1FD ∧
    decodeScalar 0x86151A9E = .saadd 0x85 0x46 0xA7 2 ∧
    decodeScalar 0x8A151A9E = .saswp 0x85 0x46 0xA7 2 ∧
    decodeScalar 0x8E151A9E = .sacas 0x85 0x46 0xA7 2 ∧
    decodeScalar 0x92151A9E = .samaxu 0x85 0x46 0xA7 2 ∧
    decodeScalar 0x95D0A400 = .fence 3 2 0x21 0x12 ∧
    decodeScalar 0x9A16000A = .srd 0x85 0x2000A ∧
    decodeScalar 0x9E16000A = .swr 0x85 0x2000A ∧
    decodeScalar 0xA002000A = .trap 0x2000A ∧
    decodeScalar 0xA6151800 = .bar 0x85 0x46 ∧
    decodeScalar 0xA6151801 = .bara 0x85 0x46 := by decide

/-- One word of each scalar row, from the fixed bits and the field places the opcode table gives. -/
theorem test_scalar_words_7 :
    decodeScalar 0xA6140002 = .barw 0x85 ∧
    decodeScalar 0xAA151824 = .oresa 0x85 0x46 9 ∧
    decodeScalar 0xAA151825 = .oresb 0x85 0x46 9 ∧
    decodeScalar 0xA8000026 = .orel 9 ∧
    decodeScalar 0xAA140027 = .orec 0x85 9 ∧
    decodeScalar 0xAE151800 = .tsubmit 0x85 0x46 ∧
    decodeScalar 0xAC021401 = .tsignal 0x85 ∧
    decodeScalar 0xAE151802 = .rtake 0x85 0x46 ∧
    decodeScalar 0xAC021403 = .tcancel 0x85 ∧
    decodeScalar 0xB2151A9C = .incup 0x85 0x46 0xA7 ∧
    decodeScalar 0xB2151801 = .incrd 0x85 0x46 ∧
    decodeScalar 0xB2151A9E = .bndchk 0x85 0x46 0xA7 := by decide

/-- One word of each scalar row, from the fixed bits and the field places the opcode table gives. -/
theorem test_scalar_words_8 :
    decodeScalar 0xB0021403 = .incrst 0x85 ∧
    decodeScalar 0xB6152000 = .qbind 0x85 9 ∧
    decodeScalar 0xB6152001 = .qcnt 0x85 9 ∧
    decodeScalar 0xB6152002 = .qpushs 0x85 9 ∧
    decodeScalar 0xB6152003 = .qpops 0x85 9 ∧
    decodeScalar 0xBA160000 = .gcfg 0x85 4 ∧
    decodeScalar 0xB8018001 = .gstart 3 ∧
    decodeScalar 0xB8018002 = .gstop 3 ∧
    decodeScalar 0xBA160003 = .gstat 0x85 4 := by decide

/-- Scalar words of the worked examples (Tables 04-2, 06-10, 09-2, 09-3, 09-5, 10-4, 12-2, 12-3, 13-4, 15-3,
15-6, 17-5, 19-3; chapters 20 and 27). -/
theorem test_scalar_example_1 :
    decodeScalar 0x040C0408 = .add 3 1 2 ∧
    decodeScalar 0x1C1013F8 = .addi 4 4 0x3F8 ∧
    decodeScalar 0x341A1234 = .movz 6 2 0x1234 ∧
    decodeScalar 0x3C880C10 = .cmp 1 2 3 4 ∧
    decodeScalar 0x40001400 = .cmpi 0 0 5 0 ∧
    decodeScalar 0x45030000 = .clog 2 0 1 8 ∧
    decodeScalar 0x4A7FFFFD = .brc 1 1 0x3FFFFD ∧
    decodeScalar 0x6809FFFE = .tloop 9 0xFFFE ∧
    decodeScalar 0x54000005 = .lrun 0 5 ∧
    decodeScalar 0x701C0302 = .slane 7 3 2 ∧
    decodeScalar 0x74200802 = .sld 8 2 2 ∧
    decodeScalar 0x8424080D = .saadd 9 2 3 1 ∧
    decodeScalar 0x95C08400 = .fence 3 2 1 2 ∧
    decodeScalar 0x98280010 = .srd 10 0x010 ∧
    decodeScalar 0xB42C6003 = .qpops 11 3 ∧
    decodeScalar 0xB8010001 = .gstart 2 ∧
    decodeScalar 0x38292C1B = .movk 10 1 0x2C1B ∧
    decodeScalar 0x302C2BFD = .muli 11 10 0x3FD ∧
    decodeScalar 0x0C302C29 = .mulh 12 11 10 ∧
    decodeScalar 0x143C2801 = .clz 15 10 ∧
    decodeScalar 0x2C502B20 = .roti 20 10 32 ∧
    decodeScalar 0x1834282D = .sel 13 10 11 1 := by decide

/-- Scalar words of the worked examples (Tables 04-2, 06-10, 09-2, 09-3, 09-5, 10-4, 12-2, 12-3, 13-4, 15-3,
15-6, 17-5, 19-3; chapters 20 and 27). -/
theorem test_scalar_example_2 :
    decodeScalar 0x9C44000B = .swr 17 0x00B ∧
    decodeScalar 0x50000003 = .exit ∧
    decodeScalar 0x6000000C = .mpush 3 ∧
    decodeScalar 0x60000001 = .melse ∧
    decodeScalar 0x60000002 = .mpop ∧
    decodeScalar 0x60001003 = .msets 4 ∧
    decodeScalar 0x64200000 = .mget 8 ∧
    decodeScalar 0x64240009 = .ballot 9 2 ∧
    decodeScalar 0x64000002 = .mrest ∧
    decodeScalar 0x64001817 = .vpset 6 5 ∧
    decodeScalar 0xA4041000 = .bar 1 4 ∧
    decodeScalar 0xA4081001 = .bara 2 4 ∧
    decodeScalar 0xA4080002 = .barw 2 ∧
    decodeScalar 0x6C240400 = .srfl 9 4 ∧
    decodeScalar 0xA8242000 = .oresa 9 8 0 ∧
    decodeScalar 0xA8282005 = .oresb 10 8 1 ∧
    decodeScalar 0xA8000006 = .orel 1 ∧
    decodeScalar 0xA814000F = .orec 5 3 ∧
    decodeScalar 0x78140802 = .sldw 5 2 2 ∧
    decodeScalar 0x7C200BFE = .sst 8 2 0x3FE ∧
    decodeScalar 0x800C1000 = .sstw 3 4 0 ∧
    decodeScalar 0x8824080E = .saswp 9 2 3 2 := by decide

/-- Scalar words of the worked examples (Tables 04-2, 06-10, 09-2, 09-3, 09-5, 10-4, 12-2, 12-3, 13-4, 15-3,
15-6, 17-5, 19-3; chapters 20 and 27). -/
theorem test_scalar_example_3 :
    decodeScalar 0x8C1C0823 = .sacas 7 2 8 3 ∧
    decodeScalar 0x9028102C = .samaxu 10 4 11 0 ∧
    decodeScalar 0x967FFE00 = .fence 4 3 0x3F 0x3F ∧
    decodeScalar 0xB4102000 = .qbind 4 1 ∧
    decodeScalar 0xB4242001 = .qcnt 9 1 ∧
    decodeScalar 0xB40C4002 = .qpushs 3 2 ∧
    decodeScalar 0xB8148000 = .gcfg 5 1 ∧
    decodeScalar 0xB8010002 = .gstop 2 ∧
    decodeScalar 0xB8190003 = .gstat 6 2 ∧
    decodeScalar 0xAC141000 = .tsubmit 5 4 ∧
    decodeScalar 0xAC001801 = .tsignal 6 ∧
    decodeScalar 0xAC1C2002 = .rtake 7 8 ∧
    decodeScalar 0xAC002403 = .tcancel 9 ∧
    decodeScalar 0xB014181C = .incup 5 6 7 ∧
    decodeScalar 0xB0202401 = .incrd 8 9 ∧
    decodeScalar 0xB0282C32 = .bndchk 10 11 12 ∧
    decodeScalar 0xB0001003 = .incrst 4 ∧
    decodeScalar 0xA0000015 = .trap 0x15 ∧
    decodeScalar 0x5C000002 = .kpoint ∧
    decodeScalar 0x50000002 = .ret ∧
    decodeScalar 0x49C00019 = .brc 0 7 0x19 ∧
    decodeScalar 0x38B37C00 = .movk 44 3 0x7C00 := by decide

/-- Lane words of the worked examples (Tables 03-8, 04-9, 07-5, 08-4, 10-7, 12-9, 15-4, 18-5; R174; chapters 23
and 25). -/
theorem test_lane_example_1 :
    (decodeLane (0x3FC00000#32 ++ 0x80000000#32 ++ 0x03008230#32)).toOption = some (.vfadd { plain with ty := .f32, vd := 8, va := 12, b := .imm 0x3FC00000 }) ∧
    (decodeLane (0x00000000#32 ++ 0x10000000#32 ++ 0x00414101#32)).toOption = some (.vadd { plain with ty := .i32, vd := 20, va := 1, stall := 4 }) ∧
    (decodeLane (0x00000000#32 ++ 0x00000008#32 ++ 0x0200B232#32)).toOption = some (.vfmul { plain with ty := .f32, vd := 11, va := 8, b := .vec 8 }) ∧
    (decodeLane (0x0000281A#32 ++ 0x42202804#32 ++ 0x02408233#32)).toOption = some (.vfma { plain with ty := .f32, vd := 8, va := 9, b := .scal 4, c := .vec 10, pred := { pe := true, pn := false, pi := 2 }, m := { Mods.neutral with rnd := .rtz, negb := true, xarg := 3, xmode := .rot } }) ∧
    (decodeLane (0x00000000#32 ++ 0x3C000000#32 ++ 0x000000F0#32)).toOption = some (.vnop 15) ∧
    (decodeLane (0x00008800#32 ++ 0x0000000C#32 ++ 0x02C0A101#32)).toOption = some (.vadd { plain with ty := .i32, vd := 10, va := 11, b := .vec 12, m := { Mods.neutral with sat := true, negb := true } }) ∧
    (decodeLane (0x00030000#32 ++ 0x40000806#32 ++ 0x05414006#32)).toOption = some (.vmad { plain with vd := 20, va := 21, b := .scal 6, c := .queue 2 }) ∧
    (decodeLane (0x00000000#32 ++ 0x00000028#32 ++ 0x07C1E005#32)).toOption = some (.vmulhu { plain with vd := 30, va := 31, b := .vec 40 }) ∧
    (decodeLane (0x00030002#32 ++ 0x80000000#32 ++ 0x01404D0C#32)).toOption = some (.vshr { plain with ty := .b16x2, vd := 4, va := 5, b := .imm 0x00030002 }) ∧
    (decodeLane (0x00000000#32 ++ 0x00000000#32 ++ 0x00801012#32)).toOption = some (.vpopc { plain with vd := 1, va := 2 }) ∧
    (decodeLane (0x00000C04#32 ++ 0x80000000#32 ++ 0x00C07115#32)).toOption = some (.vbfe { plain with ty := .i32, vd := 7, va := 3, b := .imm 0x0C04 }) ∧
    (decodeLane (0x00000810#32 ++ 0x80001C00#32 ++ 0x01805016#32)).toOption = some (.vbfi { plain with vd := 5, va := 6, b := .imm 0x0810, c := .vec 7 }) := by decide

/-- Lane words of the worked examples (Tables 03-8, 04-9, 07-5, 08-4, 10-7, 12-9, 15-4, 18-5; R174; chapters 23
and 25). -/
theorem test_lane_example_2 :
    (decodeLane (0x0018010D#32 ++ 0x00000009#32 ++ 0x02003017#32)).toOption = some (.vcmp { plain with vd := 3, va := 8, b := .vec 9, m := { Mods.neutral with aux4 := 6, fs := true, xarg := 1, xmode := .dn } }) ∧
    (decodeLane (0x00000000#32 ++ 0x43101409#32 ++ 0x00C02018#32)).toOption = some (.vsel { plain with vd := 2, va := 3, b := .scal 9, c := .vec 5, pred := { pe := true, pn := true, pi := 1 } }) ∧
    (decodeLane (0x000000FA#32 ++ 0x00000000#32 ++ 0x0340C019#32)).toOption = some (.vmov { plain with vd := 12, va := 13, m := { Mods.neutral with xarg := 31, xmode := .rot } }) ∧
    (decodeLane (0xFFFFFFFF#32 ++ 0x80000000#32 ++ 0x0000C019#32)).toOption = some (.vmov { plain with vd := 12, b := .imm 0xFFFFFFFF }) ∧
    (decodeLane (0x00000000#32 ++ 0x40000004#32 ++ 0x0481051A#32)).toOption = some (.vadd64 { plain with ty := .i64, vd := 16, va := 18, b := .scal 4 }) ∧
    (decodeLane (0x00000000#32 ++ 0x00000005#32 ++ 0x0581441D#32)).toOption = some (.vshl64 { plain with ty := .b64, vd := 20, va := 22, b := .vec 5 }) ∧
    (decodeLane (0x00000000#32 ++ 0x00000000#32 ++ 0x0000901F#32)).toOption = some (.vlaneid { plain with vd := 9 }) ∧
    (decodeLane (0x00000000#32 ++ 0x40000003#32 ++ 0x00006020#32)).toOption = some (.vmix { plain with vd := 6, b := .scal 3 }) ∧
    (decodeLane (0x00001200#32 ++ 0x00002C0A#32 ++ 0x02408233#32)).toOption = some (.vfma { plain with ty := .f32, vd := 8, va := 9, b := .vec 10, c := .vec 11, m := { Mods.neutral with absa := true, negc := true } }) ∧
    (decodeLane (0x00008000#32 ++ 0x00000006#32 ++ 0x01404630#32)).toOption = some (.vfadd { plain with ty := .f16x2, vd := 4, va := 5, b := .vec 6, m := { Mods.neutral with sat := true } }) ∧
    (decodeLane (0x00180000#32 ++ 0x0000000C#32 ++ 0x02802336#32)).toOption = some (.vfcmp { plain with ty := .f64, vd := 2, va := 10, b := .vec 12, m := { Mods.neutral with aux4 := 6 } }) ∧
    (decodeLane (0x00006000#32 ++ 0x00000000#32 ++ 0x0541423B#32)).toOption = some (.vexp2 { plain with ty := .f32, vd := 20, va := 21, m := { Mods.neutral with rnd := .rdn } }) := by decide

/-- Lane words of the worked examples (Tables 03-8, 04-9, 07-5, 08-4, 10-7, 12-9, 15-4, 18-5; R174; chapters 23
and 25). -/
theorem test_lane_example_3 :
    (decodeLane (0x00000000#32 ++ 0x00000005#32 ++ 0x0300A341#32)).toOption = some (.vfldexp { plain with ty := .f64, vd := 10, va := 12, b := .vec 5 }) ∧
    (decodeLane (0x00000000#32 ++ 0x00001003#32 ++ 0x00801742#32)).toOption = some (.vfdot2 { plain with ty := .bf16x2, vd := 1, va := 2, b := .vec 3, c := .vec 4 }) ∧
    (decodeLane (0x0061E000#32 ++ 0x00000C00#32 ++ 0x02007248#32)).toOption = some (.vcvt { plain with ty := .f32, vd := 7, va := 8, c := .scal 3, m := { Mods.neutral with aux10 := 1, aux4 := 8, sat := true, rnd := .rdn } }) ∧
    (decodeLane (0x00000000#32 ++ 0x00000000#32 ++ 0x00C1024A#32)).toOption = some (.vqblk { plain with ty := .f32, vd := 16, va := 3 }) ∧
    (decodeLane (0x00000000#32 ++ 0x00000005#32 ++ 0x01009050#32)).toOption = some (.vshfl { plain with vd := 9, va := 4, b := .vec 5 }) ∧
    (decodeLane (0x00000000#32 ++ 0x00001000#32 ++ 0x00003057#32)).toOption = some (.vprank { plain with vd := 3, c := .vec 4 }) ∧
    (decodeLane (0x00180000#32 ++ 0x00000014#32 ++ 0x04018249#32)).toOption = some (.vcvtpk { plain with ty := .f32, vd := 24, va := 16, b := .vec 20, m := { Mods.neutral with aux4 := 6 } }) ∧
    (decodeLane (0x00400000#32 ++ 0x00000000#32 ++ 0x02003070#32)).toOption = some (.vqpush { plain with vd := 3, va := 8, m := { Mods.neutral with aux10 := 1 } }) ∧
    (decodeLane (0x00000000#32 ++ 0xC0000005#32 ++ 0x0000A071#32)).toOption = some (.vqpop { plain with vd := 10, b := .queue 5 }) ∧
    (decodeLane (0x00000000#32 ++ 0x00000000#32 ++ 0x08002078#32)).toOption = some (.rspawn { plain with vd := 2, va := 32 }) ∧
    (decodeLane (0x00000000#32 ++ 0x00000000#32 ++ 0x00000079#32)).toOption = some (.rcont plain) ∧
    (decodeLane (0x00000001#32 ++ 0x80002800#32 ++ 0x0A00007A#32)).toOption = some (.racc { plain with va := 40, b := .imm 1, c := .vec 10 }) := by decide

/-- Lane words of the worked examples (Tables 03-8, 04-9, 07-5, 08-4, 10-7, 12-9, 15-4, 18-5; R174; chapters 23
and 25). -/
theorem test_lane_example_4 :
    (decodeLane (0x00000000#32 ++ 0x42102805#32 ++ 0x0A00007A#32)).toOption = some (.racc { plain with va := 40, b := .scal 5, c := .vec 10, pred := { pe := true, pn := false, pi := 1 } }) ∧
    (decodeLane (0xFFFFFFFF#32 ++ 0x80000000#32 ++ 0x010000F1#32)).toOption = some (.vtrapif { plain with va := 4, b := .imm 0xFFFFFFFF }) ∧
    (decodeLane (0x0004000A#32 ++ 0x00000004#32 ++ 0x0000C560#32)).toOption = some (.vld { plainMem with size := .b64, vd := 12, base := .vec 4, off := 0x40, order := .acq, scope := .cluster }) ∧
    (decodeLane (0x00010013#32 ++ 0x40000004#32 ++ 0x01400461#32)).toOption = some (.vst { plainMem with size := .b32, va := 5, base := .scal 4, off := 0x10, order := .rel, scope := .part }) ∧
    (decodeLane (0x00000003#32 ++ 0x40000004#32 ++ 0x00014462#32)).toOption = some (.vldc { plainMem with size := .b32, vd := 20, base := .scal 4, scope := .part }) ∧
    (decodeLane (0x0000001B#32 ++ 0x42100008#32 ++ 0x01800563#32)).toOption = some (.vstc { plainMem with size := .b64, va := 6, base := .scal 8, order := .sc, scope := .part, pred := { pe := true, pn := false, pi := 1 } }) ∧
    (decodeLane (0x00100000#32 ++ 0x00000002#32 ++ 0x00010664#32)).toOption = some (.vldro { plainMem with size := .b128, vd := 16, base := .vec 2, off := 0x100 }) ∧
    (decodeLane (0x00000003#32 ++ 0x00000002#32 ++ 0x02408465#32)).toOption = some (.vatom { plainMem with size := .b32, vd := 8, va := 9, base := .vec 2, scope := .part }) ∧
    (decodeLane (0x00004173#32 ++ 0x40000006#32 ++ 0x02C0A465#32)).toOption = some (.vatom { plainMem with size := .b32, vd := 10, va := 11, base := .scal 6, off := 4, aop := 11, order := .rel, scope := .part }) ∧
    (decodeLane (0x0000001B#32 ++ 0x00004002#32 ++ 0x0380C566#32)).toOption = some (.vcas { plainMem with size := .b64, vd := 12, va := 14, vc := 16, base := .vec 2, order := .sc, scope := .part }) ∧
    (decodeLane (0xFFFC0000#32 ++ 0x00000002#32 ++ 0x00000067#32)).toOption = some (.vpref { plainMem with size := .b8, base := .vec 2, off := 0xFFFC0 }) ∧
    (decodeLane (0x00000003#32 ++ 0x00000006#32 ++ 0x02800261#32)).toOption = some (.vst { plainMem with size := .b16, va := 10, base := .vec 6, scope := .part }) := by decide

/-- Lane words of the worked examples (Tables 03-8, 04-9, 07-5, 08-4, 10-7, 12-9, 15-4, 18-5; R174; chapters 23
and 25). -/
theorem test_lane_example_5 :
    (decodeLane (0x0000001B#32 ++ 0x00003001#32 ++ 0x00000080#32)).toOption = some (.mma { stall := 0, m := 0, ra := 0, b := .record 1, shape := 12, sbs := 0, fmtA := .f16, fmtB := .f16 }) ∧
    (decodeLane (0x15500000#32 ++ 0x40003014#32 ++ 0x00C02081#32)).toOption = some (.mmas { stall := 0, m := 2, ra := 3, b := .slice 20, shape := 12, sbs := 21, fmtA := .fp4, fmtB := .fp4 } 5) ∧
    (decodeLane (0x00000200#32 ++ 0x00001800#32 ++ 0x00014082#32)).toOption = some (.mrd { stall := 0, pred := always, v := 20, sd := 6, m := 0, cnt := 1, col := 0, rblk := 0 }) ∧
    (decodeLane (0x00000000#32 ++ 0x00000000#32 ++ 0x00000085#32)).toOption = some (.mwait 0) ∧
    (decodeLane (0x00010008#32 ++ 0x00002C00#32 ++ 0x02800086#32)).toOption = some (.osto { stall := 0, pred := always, o := 0, v := 10, off := 11, cnt := 1, stride := 8 }) ∧
    (decodeLane (0x0D0000EA#32 ++ 0x40003009#32 ++ 0x01001088#32)).toOption = some (.mepi { stall := 0, pred := always, m := 1, va := 4, scale := 9, shape := 12, sfold := 13, sat := false, fold := true, clr := true, relu := true, ofmt := .bf16, rblk := 2 }) := by decide

/-- A word of each lane row the examples leave out, laid out by Tables 04-4 to 04-7, 10-5 and 10-6. -/
theorem test_lane_words_1 :
    (decodeLane (0x00000400#32 ++ 0x0000000A#32 ++ 0x02006C02#32)).toOption = some (.vsub { plain with ty := .i16x2, vd := 6, va := 8, b := .vec 10, m := { Mods.neutral with nega := true } }) ∧
    (decodeLane (0x00000400#32 ++ 0x0000000A#32 ++ 0x02006C0E#32)).toOption = some (.vmin { plain with ty := .i16x2, vd := 6, va := 8, b := .vec 10, m := { Mods.neutral with nega := true } }) ∧
    (decodeLane (0x00000400#32 ++ 0x0000000A#32 ++ 0x02006C0F#32)).toOption = some (.vmax { plain with ty := .i16x2, vd := 6, va := 8, b := .vec 10, m := { Mods.neutral with nega := true } }) ∧
    (decodeLane (0x00000000#32 ++ 0x0000000A#32 ++ 0x02006D03#32)).toOption = some (.vmul { plain with ty := .b16x2, vd := 6, va := 8, b := .vec 10 }) ∧
    (decodeLane (0x00000000#32 ++ 0x0000000A#32 ++ 0x02006104#32)).toOption = some (.vmulh { plain with ty := .i32, vd := 6, va := 8, b := .vec 10 }) ∧
    (decodeLane (0x00000000#32 ++ 0x40000003#32 ++ 0x02006407#32)).toOption = some (.vand { plain with ty := .b64, vd := 6, va := 8, b := .scal 3 }) ∧
    (decodeLane (0x00000000#32 ++ 0x40000003#32 ++ 0x02006408#32)).toOption = some (.vor { plain with ty := .b64, vd := 6, va := 8, b := .scal 3 }) ∧
    (decodeLane (0x00000000#32 ++ 0x40000003#32 ++ 0x02006409#32)).toOption = some (.vxor { plain with ty := .b64, vd := 6, va := 8, b := .scal 3 }) ∧
    (decodeLane (0x00000000#32 ++ 0x40000003#32 ++ 0x0200640A#32)).toOption = some (.vandn { plain with ty := .b64, vd := 6, va := 8, b := .scal 3 }) ∧
    (decodeLane (0x12345678#32 ++ 0x80000000#32 ++ 0x02006B0B#32)).toOption = some (.vshl { plain with ty := .b8x4, vd := 6, va := 8, b := .imm 305419896 }) ∧
    (decodeLane (0x00000000#32 ++ 0x0000000A#32 ++ 0x02006A0D#32)).toOption = some (.vsar { plain with ty := .i8x4, vd := 6, va := 8, b := .vec 10 }) ∧
    (decodeLane (0x00000000#32 ++ 0x0000000A#32 ++ 0x02006B10#32)).toOption = some (.vminu { plain with ty := .b8x4, vd := 6, va := 8, b := .vec 10 }) := by decide

/-- A word of each lane row the examples leave out, laid out by Tables 04-4 to 04-7, 10-5 and 10-6. -/
theorem test_lane_words_2 :
    (decodeLane (0x00000000#32 ++ 0x0000000A#32 ++ 0x02006D11#32)).toOption = some (.vmaxu { plain with ty := .b16x2, vd := 6, va := 8, b := .vec 10 }) ∧
    (decodeLane (0x00000000#32 ++ 0x00000000#32 ++ 0x02006013#32)).toOption = some (.vclz { plain with ty := .b32, vd := 6, va := 8 }) ∧
    (decodeLane (0x00000000#32 ++ 0x00000000#32 ++ 0x02006014#32)).toOption = some (.vbrev { plain with ty := .b32, vd := 6, va := 8 }) ∧
    (decodeLane (0x00000000#32 ++ 0x0000000A#32 ++ 0x0200651B#32)).toOption = some (.vsub64 { plain with ty := .i64, vd := 6, va := 8, b := .vec 10 }) ∧
    (decodeLane (0x00000000#32 ++ 0x0000000A#32 ++ 0x0200641C#32)).toOption = some (.vmul64 { plain with ty := .b64, vd := 6, va := 8, b := .vec 10 }) ∧
    (decodeLane (0x00000000#32 ++ 0xC0000007#32 ++ 0x0200651E#32)).toOption = some (.vshr64 { plain with ty := .i64, vd := 6, va := 8, b := .queue 7 }) ∧
    (decodeLane (0x00004000#32 ++ 0x0000000A#32 ++ 0x02006831#32)).toOption = some (.vfsub { plain with ty := .e4m3x4, vd := 6, va := 8, b := .vec 10, m := { Mods.neutral with rnd := .rup } }) ∧
    (decodeLane (0x00000200#32 ++ 0x0000000A#32 ++ 0x02006734#32)).toOption = some (.vfmin { plain with ty := .bf16x2, vd := 6, va := 8, b := .vec 10, m := { Mods.neutral with absa := true } }) ∧
    (decodeLane (0x00000800#32 ++ 0x0000000A#32 ++ 0x02006935#32)).toOption = some (.vfmax { plain with ty := .e5m2x4, vd := 6, va := 8, b := .vec 10, m := { Mods.neutral with negb := true } }) ∧
    (decodeLane (0x00002000#32 ++ 0x0000000A#32 ++ 0x02006337#32)).toOption = some (.vfdiv { plain with ty := .f64, vd := 6, va := 8, b := .vec 10, m := { Mods.neutral with rnd := .rtz } }) ∧
    (decodeLane (0x00000400#32 ++ 0x00000000#32 ++ 0x02006238#32)).toOption = some (.vfsqrt { plain with ty := .f32, vd := 6, va := 8, m := { Mods.neutral with nega := true } }) ∧
    (decodeLane (0x00000400#32 ++ 0x00000000#32 ++ 0x02006239#32)).toOption = some (.vfrcp { plain with ty := .f32, vd := 6, va := 8, m := { Mods.neutral with nega := true } }) := by decide

/-- A word of each lane row the examples leave out, laid out by Tables 04-4 to 04-7, 10-5 and 10-6. -/
theorem test_lane_words_3 :
    (decodeLane (0x00000400#32 ++ 0x00000000#32 ++ 0x0200623A#32)).toOption = some (.vfrsq { plain with ty := .f32, vd := 6, va := 8, m := { Mods.neutral with nega := true } }) ∧
    (decodeLane (0x00000400#32 ++ 0x00000000#32 ++ 0x0200623C#32)).toOption = some (.vlog2 { plain with ty := .f32, vd := 6, va := 8, m := { Mods.neutral with nega := true } }) ∧
    (decodeLane (0x00000400#32 ++ 0x00000000#32 ++ 0x0200623D#32)).toOption = some (.vsinpi { plain with ty := .f32, vd := 6, va := 8, m := { Mods.neutral with nega := true } }) ∧
    (decodeLane (0x00000400#32 ++ 0x00000000#32 ++ 0x0200623E#32)).toOption = some (.vcospi { plain with ty := .f32, vd := 6, va := 8, m := { Mods.neutral with nega := true } }) ∧
    (decodeLane (0x00006000#32 ++ 0x00000000#32 ++ 0x0200663F#32)).toOption = some (.vfrnd { plain with ty := .f16x2, vd := 6, va := 8, m := { Mods.neutral with rnd := .rdn } }) ∧
    (decodeLane (0x00000000#32 ++ 0x00000000#32 ++ 0x02007340#32)).toOption = some (.vfclass { plain with ty := .f64, vd := 7, va := 8 }) ∧
    (decodeLane (0x00001000#32 ++ 0x0005540A#32 ++ 0x02006943#32)).toOption = some (.vfdot4 { plain with ty := .e5m2x4, vd := 6, va := 8, b := .vec 10, c := .vec 341, m := { Mods.neutral with negc := true } }) ∧
    (decodeLane (0x00000000#32 ++ 0x0000000A#32 ++ 0x0200624B#32)).toOption = some (.vdqblk { plain with ty := .f32, vd := 6, va := 8, b := .vec 10 }) ∧
    (decodeLane (0x00000200#32 ++ 0x00000000#32 ++ 0x02006551#32)).toOption = some (.vscan { plain with ty := .i64, vd := 6, va := 8, m := { Mods.neutral with absa := true } }) ∧
    (decodeLane (0x00002000#32 ++ 0x00000000#32 ++ 0x02006352#32)).toOption = some (.vradd { plain with ty := .f64, vd := 6, va := 8, m := { Mods.neutral with rnd := .rtz } }) ∧
    (decodeLane (0x00000000#32 ++ 0x00000000#32 ++ 0x02006053#32)).toOption = some (.vrmin { plain with ty := .b32, vd := 6, va := 8 }) ∧
    (decodeLane (0x00000400#32 ++ 0x00000000#32 ++ 0x02006254#32)).toOption = some (.vrmax { plain with ty := .f32, vd := 6, va := 8, m := { Mods.neutral with nega := true } }) := by decide

/-- A word of each lane row the examples leave out, laid out by Tables 04-4 to 04-7, 10-5 and 10-6. -/
theorem test_lane_words_4 :
    (decodeLane (0x00000000#32 ++ 0x00002400#32 ++ 0x02006455#32)).toOption = some (.vcompact { plain with ty := .b64, vd := 6, va := 8, c := .vec 9 }) ∧
    (decodeLane (0x00000000#32 ++ 0x00000000#32 ++ 0x02007456#32)).toOption = some (.vmatch { plain with ty := .b64, vd := 7, va := 8 }) ∧
    (decodeLane (0x003C0000#32 ++ 0x40000003#32 ++ 0x02400072#32)).toOption = some (.wemit { plain with ty := .b32, va := 9, b := .scal 3, m := { Mods.neutral with aux4 := 15 } }) ∧
    (decodeLane (0x00002791#32 ++ 0x00000000#32 ++ 0x08400083#32)).toOption = some (.mwr { stall := 0, pred := always, v := 33, sd := 0, m := 2, cnt := 3, col := 100, rblk := 1 }) ∧
    (decodeLane (0x00000000#32 ++ 0x24000000#32 ++ 0x00003084#32)).toOption = some (.mzero 9 3) ∧
    (decodeLane (0x00071230#32 ++ 0x00020422#32 ++ 0x00005087#32)).toOption = some (.olod { stall := 0, pred := always, o := 5, v := 34, off := 0x81, cnt := 7, stride := 0x1230 }) := by decide

/-- A packet of each command, laid out by Tables 22-2 and 22-3. -/
theorem test_packet_1 :
    (decodePacket [0x0000010200010000, 77]).toOption =
      some (.nop { r1 := 0, ctx := 0x0102, r0 := 0, len := 1, seq := 77 }) ∧
    (decodePacket [0x0000010200040001, 77, 0x100, 0x201, 0x302, 0x403, 0x504, 0x605]).toOption =
      some (.ctxcfg { r1 := 0, ctx := 0x0102, r0 := 0, len := 4, seq := 77 } 0x100 0x201 0x302 0x403 0x504 0x605) ∧
    (decodePacket [0x0000010200030002, 77, 0x100, 0x201, 0x302, 0x403]).toOption =
      some (.launch { r1 := 0, ctx := 0x0102, r0 := 0, len := 3, seq := 77 } 0x100 0x201 0x302 0x403) ∧
    (decodePacket [0x0000010200040003, 77, 0x100, 0x201, 0x302, 0x403, 0x504, 0x605]).toOption =
      some (.graph { r1 := 0, ctx := 0x0102, r0 := 0, len := 4, seq := 77 } 0x100 0x201 0x302 0x403 0x504 0x605) ∧
    (decodePacket [0x0000010200050004, 77, 0x100, 0x201, 0x302, 0x403, 0x504, 0x605, 0x706, 0x807]).toOption =
      some (.task { r1 := 0, ctx := 0x0102, r0 := 0, len := 5, seq := 77 } 0x100 0x201 0x302 0x403 0x504 0x605 0x706 0x807) ∧
    (decodePacket [0x0000010200020005, 77, 0x100, 0x201]).toOption =
      some (.signal { r1 := 0, ctx := 0x0102, r0 := 0, len := 2, seq := 77 } 0x100 0x201) ∧
    (decodePacket [0x0000010200020006, 77, 0x10, 0x201]).toOption =
      some (.cancelLaunch { r1 := 0, ctx := 0x0102, r0 := 0, len := 2, seq := 77 } 0x10 0x201) ∧
    (decodePacket [0x0000010200020006, 77, 0x11, 0x201]).toOption =
      some (.cancelTask { r1 := 0, ctx := 0x0102, r0 := 0, len := 2, seq := 77 } 0x11 0x201) ∧
    (decodePacket [0x0000010200020007, 77, 0x100, 0x201]).toOption =
      some (.frame { r1 := 0, ctx := 0x0102, r0 := 0, len := 2, seq := 77 } 0x100 0x201) ∧
    (decodePacket [0x0000010200030008, 77, 0x20, 0x201, 0x302, 0x403]).toOption =
      some (.mapSetTableBase { r1 := 0, ctx := 0x0102, r0 := 0, len := 3, seq := 77 } 0x20 0x201 0x302 0x403) ∧
    (decodePacket [0x0000010200030008, 77, 0x21, 0x201, 0x302, 0x403]).toOption =
      some (.mapWriteEntry { r1 := 0, ctx := 0x0102, r0 := 0, len := 3, seq := 77 } 0x21 0x201 0x302 0x403) := by decide

/-- A packet of each command, laid out by Tables 22-2 and 22-3. -/
theorem test_packet_2 :
    (decodePacket [0x0000010200030008, 77, 0x22, 0x201, 0x302, 0x403]).toOption =
      some (.mapMigrate { r1 := 0, ctx := 0x0102, r0 := 0, len := 3, seq := 77 } 0x22 0x201 0x302 0x403) ∧
    (decodePacket [0x0000010200020009, 77, 0x100, 0x201]).toOption =
      some (.copy { r1 := 0, ctx := 0x0102, r0 := 0, len := 2, seq := 77 } 0x100 0x201) ∧
    (decodePacket [0x000001020001000A, 77]).toOption =
      some (.fenceCommand { r1 := 0, ctx := 0x0102, r0 := 0, len := 1, seq := 77 }) ∧
    (decodePacket [0x000001020002000B, 77, 0x100, 0x201]).toOption =
      some (.codecwb { r1 := 0, ctx := 0x0102, r0 := 0, len := 2, seq := 77 } 0x100 0x201) ∧
    (decodePacket [0x000001020003000C, 77, 0x8, 0x201, 0x302, 0x403]).toOption =
      some (.countrdBound { r1 := 0, ctx := 0x0102, r0 := 0, len := 3, seq := 77 } 0x8 0x201 0x302 0x403) ∧
    (decodePacket [0x000001020003000C, 77, 0x9, 0x201, 0x302, 0x403]).toOption =
      some (.countrdCodec { r1 := 0, ctx := 0x0102, r0 := 0, len := 3, seq := 77 } 0x9 0x201 0x302 0x403) ∧
    (decodePacket [0x000001020003000C, 77, 0xA, 0x201, 0x302, 0x403]).toOption =
      some (.countrdMeridian { r1 := 0, ctx := 0x0102, r0 := 0, len := 3, seq := 77 } 0xA 0x201 0x302 0x403) ∧
    (decodePacket [0x000001020003000C, 77, 0xB, 0x201, 0x302, 0x403]).toOption =
      some (.countrdFlush { r1 := 0, ctx := 0x0102, r0 := 0, len := 3, seq := 77 } 0xB 0x201 0x302 0x403) ∧
    (decodePacket [0x000001020002000D, 77, 0x100, 0x201]).toOption =
      some (.blink { r1 := 0, ctx := 0x0102, r0 := 0, len := 2, seq := 77 } 0x100 0x201) ∧
    (decodePacket [0x000001020002000E, 77, 0x100, 0x201]).toOption =
      some (.snapread { r1 := 0, ctx := 0x0102, r0 := 0, len := 2, seq := 77 } 0x100 0x201) ∧
    (decodePacket [0x000001020002000F, 77, 0x100, 0x201]).toOption =
      some (.capread { r1 := 0, ctx := 0x0102, r0 := 0, len := 2, seq := 77 } 0x100 0x201) := by decide

/-- A packet of each command, laid out by Tables 22-2 and 22-3. -/
theorem test_packet_3 :
    (decodePacket [0x0000010200020010, 77, 0x5, 0x6]).toOption =
      some (.faultansResume { r1 := 0, ctx := 0x0102, r0 := 0, len := 2, seq := 77 } 0x5 0x6) ∧
    (decodePacket [0x0000010200020010, 77, 0x5, 0x7]).toOption =
      some (.faultansFail { r1 := 0, ctx := 0x0102, r0 := 0, len := 2, seq := 77 } 0x5 0x7) ∧
    (decodePacket [0x0000010200020011, 77, 0x100, 0x201]).toOption =
      some (.switch { r1 := 0, ctx := 0x0102, r0 := 0, len := 2, seq := 77 } 0x100 0x201) ∧
    (decodePacket [0x0000010200020012, 77, 0x100, 0x201]).toOption =
      some (.restore { r1 := 0, ctx := 0x0102, r0 := 0, len := 2, seq := 77 } 0x100 0x201) ∧
    (decodePacket [0x0000010200030013, 77, 0x100, 0x201, 0x302, 0x403]).toOption =
      some (.ringrst { r1 := 0, ctx := 0x0102, r0 := 0, len := 3, seq := 77 } 0x100 0x201 0x302 0x403) ∧
    (decodePacket [0x0000010200020014, 77, 0x100, 0x201]).toOption =
      some (.power { r1 := 0, ctx := 0x0102, r0 := 0, len := 2, seq := 77 } 0x100 0x201) ∧
    (decodePacket [0x0000010200030015, 77, 0x100, 0x201, 0x302, 0x403]).toOption =
      some (.partcfg { r1 := 0, ctx := 0x0102, r0 := 0, len := 3, seq := 77 } 0x100 0x201 0x302 0x403) ∧
    (decodePacket [0x0000010200020016, 77, 0x100, 0x201]).toOption =
      some (.image { r1 := 0, ctx := 0x0102, r0 := 0, len := 2, seq := 77 } 0x100 0x201) ∧
    (decodePacket [0x0000010200060017, 77, 0x100, 0x201, 0x302, 0x403, 0x504, 0x605, 0x706, 0x807, 0x908, 0xA09]).toOption =
      some (.attest { r1 := 0, ctx := 0x0102, r0 := 0, len := 6, seq := 77 } 0x100 0x201 0x302 0x403 0x504 0x605 0x706 0x807 0x908 0xA09) := by decide
/-! ### Well-formedness: for each check a term that passes and one that is refused -/

theorem test_wf_scalar_fields :
    (Instr.cmp 5 11 1 2).wf = true ∧ (Instr.cmp 6 11 1 2).wf = false ∧ (Instr.cmp 5 12 1 2).wf = false ∧
    (Instr.cmpi 5 11 1 2).wf = true ∧ (Instr.cmpi 6 11 1 2).wf = false ∧ (Instr.cmpi 5 12 1 2).wf = false ∧
    (Instr.clog 5 7 7 15).wf = true ∧ (Instr.clog 6 7 7 15).wf = false ∧
    (Instr.brc 0 7 0).wf = true ∧ (Instr.brc 1 6 0).wf = true ∧ (Instr.brc 1 7 0).wf = false ∧
    (Instr.mpush 15).wf = true ∧ (Instr.mpush 16).wf = false ∧ (Instr.ballot 1 15).wf = true ∧
    (Instr.ballot 1 16).wf = false ∧ (Instr.vpset 1 15).wf = true ∧ (Instr.vpset 1 16).wf = false ∧
    (Instr.swr 1 0x000).wf = true ∧ (Instr.swr 1 0x001).wf = false ∧ (Instr.swr 1 0x030).wf = false ∧
    (Instr.fence 4 3 1 1).wf = true ∧ (Instr.fence 5 3 1 1).wf = false ∧ (Instr.fence 4 0 1 1).wf = false ∧
    (Instr.fence 4 3 0 1).wf = false ∧ (Instr.fence 4 3 1 0).wf = false ∧ (Instr.illegalScalarWord 0).wf = false := by
  decide

theorem test_wf_predicate_and_types :
    (Instr.vadd { plain with ty := .i32, pred := { pe := true, pn := true, pi := 15 } }).wf = true ∧
    (Instr.vadd { plain with ty := .i32, pred := { pe := false, pn := true, pi := 0 } }).wf = false ∧
    (Instr.vadd { plain with ty := .i32, pred := { pe := false, pn := false, pi := 1 } }).wf = false ∧
    (Instr.vadd { plain with ty := .f32 }).wf = false ∧ (Instr.vfadd { plain with ty := .i32 }).wf = false ∧
    (Instr.vmulh { plain with ty := .i32 }).wf = true ∧ (Instr.vmulh plain).wf = false := by decide

theorem test_wf_modifiers :
    (Instr.vadd { plain with ty := .i32, m := { Mods.neutral with sat := true, negb := true, xmode := .rot, xarg := 3, fs := true } }).wf = true ∧
    (Instr.vadd { plain with ty := .i32, m := { Mods.neutral with xarg := 3 } }).wf = false ∧
    (Instr.vadd { plain with ty := .i32, m := { Mods.neutral with fs := true } }).wf = false ∧
    (Instr.vlaneid { plain with m := { Mods.neutral with xmode := .rot } }).wf = false ∧
    (Instr.vand { plain with m := { Mods.neutral with sat := true } }).wf = false ∧
    (Instr.vadd { plain with ty := .i32, m := { Mods.neutral with rnd := .rtz } }).wf = false ∧
    (Instr.vradd { plain with ty := .f32, m := { Mods.neutral with rnd := .rtz } }).wf = true ∧
    (Instr.vradd { plain with ty := .i32, m := { Mods.neutral with rnd := .rtz } }).wf = false ∧
    (Instr.vadd { plain with ty := .b32, m := { Mods.neutral with nega := true } }).wf = false ∧
    (Instr.vand { plain with m := { Mods.neutral with absa := true } }).wf = false ∧
    (Instr.vradd { plain with ty := .b32, m := { Mods.neutral with nega := true } }).wf = false ∧
    (Instr.vand { plain with m := { Mods.neutral with negb := true } }).wf = false ∧
    (Instr.vfadd { plain with ty := .f32, m := { Mods.neutral with negc := true } }).wf = false ∧
    (Instr.vcmp { plain with m := { Mods.neutral with aux4 := 11 } }).wf = true ∧
    (Instr.vcmp { plain with m := { Mods.neutral with aux4 := 12 } }).wf = false ∧
    (Instr.vqpush { plain with m := { Mods.neutral with aux10 := 31 } }).wf = true ∧
    (Instr.vqpush { plain with m := { Mods.neutral with aux10 := 32 } }).wf = false := by decide

theorem test_wf_operands :
    (Instr.vcmp { plain with vd := 15 }).wf = true ∧ (Instr.vcmp { plain with vd := 16 }).wf = false ∧
    (Instr.vqpush { plain with vd := 31 }).wf = true ∧ (Instr.vqpush { plain with vd := 32 }).wf = false ∧
    (Instr.racc { plain with vd := 1 }).wf = false ∧ (Instr.vadd64 { plain with ty := .b64, vd := 2 }).wf = true ∧
    (Instr.vadd64 { plain with ty := .b64, vd := 3 }).wf = false ∧ (Instr.vadd64 { plain with ty := .b64, va := 3 }).wf = false ∧
    (Instr.vadd64 { plain with ty := .b64, b := .vec 3 }).wf = false ∧ (Instr.vlaneid { plain with va := 1 }).wf = false ∧
    (Instr.vpopc { plain with b := .vec 1 }).wf = false ∧ (Instr.vpopc { plain with b := .scal 0 }).wf = false ∧
    (Instr.wemit { plain with b := .scal 1 }).wf = true ∧ (Instr.wemit { plain with b := .queue 1 }).wf = false ∧
    (Instr.vqpop { plain with b := .queue 1 }).wf = true ∧ (Instr.vqpop { plain with b := .scal 1 }).wf = false ∧
    (Instr.vmov { plain with va := 1 }).wf = true ∧ (Instr.vmov { plain with b := .vec 1 }).wf = false ∧
    (Instr.vmov { plain with b := .scal 1 }).wf = true ∧ (Instr.vmov { plain with b := .scal 1, va := 1 }).wf = false ∧
    (Instr.vadd { plain with c := .vec 1 }).wf = false ∧ (Instr.vadd { plain with c := .scal 0 }).wf = false ∧
    (Instr.vsel { plain with c := .vec 15 }).wf = true ∧ (Instr.vsel { plain with c := .vec 16 }).wf = false ∧
    (Instr.vsel { plain with c := .scal 1 }).wf = false ∧ (Instr.racc { plain with c := .vec 1 }).wf = true ∧
    (Instr.racc { plain with c := .scal 1 }).wf = false ∧
    (Instr.vbfi { plain with b := .imm 1, c := .vec 1 }).wf = true ∧ (Instr.vbfi { plain with b := .imm 1, c := .scal 1 }).wf = false ∧
    (Instr.vfadd { plain with ty := .f32, b := .imm 1, m := { Mods.neutral with sat := true } }).wf = false ∧
    (Instr.vqblk { plain with ty := .f32, vd := 2 }).wf = true ∧ (Instr.vqblk { plain with ty := .f32, vd := 3 }).wf = false ∧
    (Instr.vfldexp { plain with ty := .f32, b := .imm 1 }).wf = true ∧
    (Instr.vfldexp { plain with ty := .f64, b := .imm 1 }).wf = false := by decide

theorem test_wf_conversions :
    (Instr.vcvt { plain with ty := .f32, m := { Mods.neutral with aux4 := 6 } }).wf = true ∧
    (Instr.vcvt { plain with ty := .f32, m := { Mods.neutral with aux4 := 14 } }).wf = false ∧
    (Instr.vcvt { plain with ty := .f32, m := { Mods.neutral with aux4 := 2 } }).wf = false ∧
    (Instr.vcvt { plain with ty := .b32, m := { Mods.neutral with aux4 := 1 } }).wf = false ∧
    (Instr.vcvt { plain with ty := .f16x2, m := { Mods.neutral with aux4 := 3 } }).wf = false ∧
    (Instr.vcvt { plain with ty := .f16x2, m := { Mods.neutral with aux4 := 8 } }).wf = false ∧
    (Instr.vcvt { plain with ty := .f32, m := { Mods.neutral with aux4 := 1, sat := true } }).wf = false ∧
    (Instr.vcvt { plain with ty := .i32, m := { Mods.neutral with aux4 := 2, nega := true } }).wf = false ∧
    (Instr.vcvt { plain with ty := .f32, c := .scal 1, m := { Mods.neutral with aux4 := 6, aux10 := 1, rnd := .rdn } }).wf = true ∧
    (Instr.vcvt { plain with ty := .f32, c := .scal 1, m := { Mods.neutral with aux4 := 6, aux10 := 1 } }).wf = false ∧
    (Instr.vcvt { plain with ty := .f32, c := .scal 1, m := { Mods.neutral with aux4 := 6 } }).wf = false ∧
    (Instr.vcvt { plain with ty := .f32, m := { Mods.neutral with aux4 := 3 }, vd := 1 }).wf = false ∧
    (Instr.vcvt { plain with ty := .f16x2, m := { Mods.neutral with aux4 := 2 }, vd := 2 }).wf = true ∧
    (Instr.vcvt { plain with ty := .f16x2, m := { Mods.neutral with aux4 := 2 }, vd := 1 }).wf = false ∧
    (Instr.vcvtpk { plain with ty := .f32, m := { Mods.neutral with aux4 := 8 }, c := .vec 1 }).wf = true ∧
    (Instr.vcvtpk { plain with ty := .f32, m := { Mods.neutral with aux4 := 6 }, c := .vec 1 }).wf = false ∧
    (Instr.vcvtpk { plain with ty := .f32, m := { Mods.neutral with aux4 := 1 } }).wf = false := by decide

theorem test_wf_memory_forms :
    (Instr.vld { plainMem with size := .b128, vd := 4 }).wf = true ∧ (Instr.vld { plainMem with size := .b128, vd := 2 }).wf = false ∧
    (Instr.vld { plainMem with va := 1 }).wf = false ∧ (Instr.vld { plainMem with vc := 1 }).wf = false ∧
    (Instr.vld { plainMem with aop := 1 }).wf = false ∧ (Instr.vld { plainMem with order := .rel }).wf = false ∧
    (Instr.vld { plainMem with base := .vec 1 }).wf = false ∧ (Instr.vld { plainMem with base := .scal 1 }).wf = true ∧
    (Instr.vst { plainMem with size := .b16, va := 1 }).wf = true ∧ (Instr.vst { plainMem with size := .i16 }).wf = false ∧
    (Instr.vst { plainMem with vd := 1 }).wf = false ∧ (Instr.vst { plainMem with order := .acq }).wf = false ∧
    (Instr.vldc { plainMem with base := .scal 1 }).wf = true ∧ (Instr.vldc plainMem).wf = false ∧
    (Instr.vstc { plainMem with base := .scal 1 }).wf = true ∧ (Instr.vstc plainMem).wf = false ∧
    (Instr.vldro plainMem).wf = true ∧ (Instr.vldro { plainMem with order := .acq }).wf = false ∧
    (Instr.vldro { plainMem with scope := .core }).wf = false ∧
    (Instr.vatom { plainMem with aop := 12 }).wf = true ∧ (Instr.vatom { plainMem with aop := 13 }).wf = false ∧
    (Instr.vatom { plainMem with aop := 2 }).wf = false ∧ (Instr.vatom { plainMem with size := .b64, aop := 1 }).wf = false ∧
    (Instr.vatom { plainMem with size := .b64, aop := 10 }).wf = true ∧ (Instr.vatom { plainMem with size := .b64, aop := 11 }).wf = false ∧
    (Instr.vatom { plainMem with size := .b16 }).wf = false ∧ (Instr.vatom { plainMem with vc := 1 }).wf = false ∧
    (Instr.vcas { plainMem with vc := 1 }).wf = true ∧ (Instr.vcas { plainMem with size := .b64, vc := 1 }).wf = false ∧
    (Instr.vcas { plainMem with aop := 1 }).wf = false ∧ (Instr.vcas { plainMem with size := .b8 }).wf = false ∧
    (Instr.vpref { plainMem with size := .b8 }).wf = true ∧ (Instr.vpref plainMem).wf = false ∧
    (Instr.vpref { plainMem with size := .b8, vd := 1 }).wf = false := by decide

theorem test_wf_matrix_forms :
    let a : LMma := { stall := 0, m := 0, ra := 0, b := .record 1, shape := 0, sbs := 0, fmtA := .f16, fmtB := .f16 }
    let r : LMrw := { stall := 0, pred := always, v := 0, sd := 0, m := 0, cnt := 3, col := 124, rblk := 0 }
    let o : LRec := { stall := 0, pred := always, o := 0, v := 0, off := 0, cnt := 0, stride := 4 }
    let e : LEpi := { stall := 0, pred := always, m := 0, va := 2, scale := 0, shape := 0, sfold := 0, sat := false,
                      fold := false, clr := false, relu := false, ofmt := .f32, rblk := 0 }
    (Instr.mma a).wf = true ∧ (Instr.mma { a with fmtB := .bf16 }).wf = false ∧
    (Instr.mma { a with fmtA := .e4m3, fmtB := .e5m2 }).wf = true ∧ (Instr.mma { a with sbs := 1 }).wf = false ∧
    (Instr.mmas { a with fmtA := .fp4, fmtB := .fp4, sbs := 1 } 2).wf = true ∧
    (Instr.mrd r).wf = true ∧ (Instr.mrd { r with col := 125 }).wf = false ∧ (Instr.mwr r).wf = true ∧
    (Instr.mwr { r with sd := 1 }).wf = false ∧ (Instr.osto o).wf = true ∧ (Instr.osto { o with stride := 2 }).wf = false ∧
    (Instr.olod o).wf = true ∧ (Instr.olod { o with v := 1 }).wf = false ∧ (Instr.mepi e).wf = true ∧
    (Instr.mepi { e with va := 1 }).wf = false ∧ (Instr.mepi { e with sfold := 1 }).wf = false ∧
    (Instr.mepi { e with fold := true, sfold := 1 }).wf = true := by decide

theorem test_wf_commands :
    let h (n : BitVec 8) : Hdr := { r1 := 0, ctx := 0, r0 := 0, len := n, seq := 0 }
    (Instr.nop (h 1)).wf = true ∧ (Instr.nop (h 0)).wf = false ∧ (Instr.fenceCommand (h 1)).wf = true ∧
    (Instr.fenceCommand (h 2)).wf = false ∧ (Instr.launch (h 3) 0 0 0 0).wf = true ∧ (Instr.launch (h 4) 0 0 0 0).wf = false ∧
    (Instr.graph (h 4) 0 0 0 0 0 0).wf = true ∧ (Instr.graph (h 3) 0 0 0 0 0 0).wf = false ∧
    (Instr.task (h 5) 0 0 0 0 0 0 0 0).wf = true ∧ (Instr.task (h 4) 0 0 0 0 0 0 0 0).wf = false ∧
    (Instr.copy (h 2) 0 0).wf = true ∧ (Instr.copy (h 1) 0 0).wf = false ∧
    (Instr.attest (h 6) 0 0 0 0 0 0 0 0 0 0).wf = true ∧ (Instr.attest (h 5) 0 0 0 0 0 0 0 0 0 0).wf = false ∧
    (Instr.cancelLaunch (h 2) 0 0).wf = true ∧ (Instr.cancelLaunch (h 2) 1 0).wf = false ∧ (Instr.cancelTask (h 2) 0 0).wf = false ∧
    (Instr.mapSetTableBase (h 3) 1 0 0 0).wf = false ∧ (Instr.mapWriteEntry (h 3) 2 0 0 0).wf = false ∧
    (Instr.mapMigrate (h 3) 1 0 0 0).wf = false ∧ (Instr.countrdBound (h 3) 1 0 0 0).wf = false ∧
    (Instr.countrdCodec (h 3) 2 0 0 0).wf = false ∧ (Instr.countrdMeridian (h 3) 3 0 0 0).wf = false ∧
    (Instr.countrdFlush (h 3) 2 0 0 0).wf = false ∧ (Instr.faultansResume (h 2) 0 1).wf = false ∧
    (Instr.faultansFail (h 2) 0 0).wf = false := by decide

/-! ### The states of the tests -/

/-- A placed wave of 32 lanes whose context's space 0 is mapped, as `withFetchWord` makes it. -/
def bench : State := withWave State.reset

/-- The same with a trap handler at address 0x4000. -/
def benchH : State := { bench with contexts := SMap.put bench.contexts 0 { ctxOf bench 0 with handler := 0x4000 } }

/-- Changes to the focus wave and to its registers. -/
def upW (s : State) (f : Wave → Wave) : State := { s with w := f s.w }
def upR (s : State) (f : Regs → Regs) : State := upW s (fun w => { w with regs := f w.regs })

/-- Values in scalar registers, and in one vector register, lane by lane. -/
def withS (s : State) (l : List (Nat × DWord)) : State := l.foldl (fun s p => setS s p.1 p.2) s
def withV (s : State) (r : Nat) (f : Nat → Word) : State := (List.range 32).foldl (fun s k => setV s r k (f k)) s

/-- Changes to partition 0. -/
def upP (s : State) (f : Part → Part) : State := { s with parts := SMap.put s.parts 0 (f (partOf s 0)) }

/-- Virtual address of offset `o` of this die's vault 0 (B-slice). -/
def vaultVa (o : Nat) : DWord := 0xFFFE000000000000 + dw o

/-- A task entry with a record's quadwords. -/
def aTask (st : TState) (r : List DWord) : Task :=
  { st := st, r := r, ctx := 0, tmpl := 0, acq := 0, jacq := 0, race := false, count := TaskRec.deps r, cur := TaskRec.lo r,
    hi := TaskRec.hi r, seq := 0, home := none, alloc := none, recs := [], jobs := 0, core := none, since := 0,
    wave := none, launch := none, shares := none, killed := false }

/-- A record of a kind with nothing to wait for, and one of a bound task whose key nothing betters. -/
def aRecord (kind : Nat) : List DWord := [0, 0, 0, 0, 0, 0, dw (kind * 2 ^ 55), 0]
def boundRecord : List DWord := [0, 0, 0, 0, 0, 0x7FFFFFFF, dw (2 * 2 ^ 55), 0]

/-- A task in entry 7 of partition 0, the bench's wave running it. -/
def withTask (s : State) (t : Task) : State :=
  upW (upP s (fun p => { p with tasks := SMap.put p.tasks 7 t })) (fun w => { w with task := some 7 })

/-- A lane instruction alone in the lane-issue queue, and one about to be executed: issued, its queue empty. -/
def queued (i : Instr) : State := upW bench (fun w => { w with lane := { w.lane with q := [captured w i 0 0] } })
def issuing (s : State) (i : Instr) : State :=
  upW s (fun w => { w with lane := { w.lane with issue := captured w i 0 0 } })

/-- Bytes and quadwords put in memory at a key. -/
def withMem (s : State) (k n x : Nat) : State := { s with mem := memPutNat s.mem k n x }

/-- An allocation of 4 KiB of vault 0's scratchpad, and an address in it; its bytes' keys begin at 2^64 + 0x1000000. -/
def withAlloc (s : State) : State :=
  upP s (fun p => { p with allocs := [(0, { ctx := 0, vault := 0, start := 0x1000000, size := 0x1000, users := 1, copies := 0, qcws := [] })] })
def allocVa (o : Nat) : DWord := vaultVa (0x1000000 + o)
def allocKey (o : Nat) : Nat := 2 ^ 64 + 0x1000000 + o

/-- A queue of four 4-byte elements in the allocation, `n` of them there: its control word at 0x100, its ring at 0x200. -/
def qcwQuads (n : Nat) : List DWord := [allocVa 0x200, dw (n * 2 ^ 32), 2 + 0x10000, 0]
def withQueue (n : Nat) : State :=
  let s := withAlloc benchH
  let ring := (List.range n).flatMap (fun i => bytesOf 4 (0x11 * (i + 1)))
  { s with mem := memPut (memPut s.mem (allocKey 0x100) (bytesOfQuads (qcwQuads n))) (allocKey 0x200) ring }
def aHandle : Handle := { qcw := allocVa 0x100, owner := 0, gen := 1, esize := 0, ldepth := 2, home := 0, pushOnly := false }
def withBound (n : Nat) : State := upW (withQueue n) (fun w => { w with handles := [(3, aHandle)] })

/-! ### States that meet the statements' hypotheses: the step and the scalar stream -/

theorem witness_StepKeepsMemoryForm :
    MemoryForm (State.reset.withFetchWord 32 0x040C0408) ∧
    ∃ t, step (State.reset.withFetchWord 32 0x040C0408) = .next t := by
  refine ⟨?_, ?_⟩
  · unfold MemoryForm; decide +kernel
  · exact ⟨_, rfl⟩

theorem witness_StepKeepsPowerLegal : PowerLegal (State.reset.withFetchWord 32 0x040C0408) := by
  unfold PowerLegal; decide +kernel

theorem witness_StepRunsDecoded_scalar :
    let s := { State.reset.withFetchWord 32 0x040C0408 with agenda := [] }
    (State.reset.withFetchWord 32 0x040C0408).agenda = [.scalar] ∧ heldMove s = none ∧ rivals s = [] ∧
    fetchAt s s.w.regs.spc 4 = .ok 0x040C0408 ∧ (scalarMem 0x040C0408 && throttled s s.w) = false ∧
    ∃ t, exec (decodeScalar 0x040C0408) s = .next t := by
  refine ⟨rfl, ?_, ?_, ?_, ?_, _, rfl⟩ <;> decide +kernel

theorem witness_StepRunsDecoded_lane :
    let s := State.reset.withFetchWord 96 0x0000000000000000000000F0
    let u : State := { s with agenda := [] }
    s.agenda = [.lane] ∧ laneOpen u = true ∧ rivals u = [] ∧ (∃ e, s.w.lane.q = [e] ∧
      (laneThrottled e.i && throttled u s.w) = false ∧ ∃ t, exec e.i (popLane u e []) = .next t) := by
  refine ⟨rfl, ?_, ?_, _, rfl, ?_, _, rfl⟩ <;> decide +kernel

theorem witness_StepRunsDecoded_ring :
    let s := State.reset.withFetchWord 128 0x0000000000000007000000000001000A
    let h : Hdr := { r1 := 0, ctx := 0, r0 := 0, len := 1, seq := 7 }
    s.agenda = [.ring 0] ∧ packetEcc { s with agenda := [] } 0 = false ∧ ringNext { s with agenda := [] } 0 = .run (.fenceCommand h) ∧
    ∃ t, exec (.fenceCommand h) { s with agenda := [] } = .next t := by
  refine ⟨rfl, ?_, ?_, _, rfl⟩ <;> decide +kernel

theorem witness_StepRunsDecoded_event :
    encode .llsDecay = none ∧ ∃ t, exec .llsDecay { bench with agenda := [] } = .next t := by
  refine ⟨?_, _, rfl⟩; decide +kernel

theorem witness_round_trips :
    (Instr.add 255 255 255).wf = true ∧ encodeScalar (.add 255 255 255) = some 0x07FFFFFC ∧
    scalarRow 0x07FFFFFC = some (.add 255 255 255) ∧
    (Instr.vadd { plain with ty := .i32, vd := 1023 }).wf = true ∧
    encodeLane (.vnop 15) = some 0x000000003C000000000000F0 ∧ (Instr.vnop 15).wf = true ∧
    encodePacket (.fenceCommand { r1 := 0, ctx := 0, r0 := 0, len := 1, seq := 7 }) = some [0x000000000001000A, 7] := by
  decide +kernel

theorem witness_scalar_operands :
    Settled bench.w [1, 2] 3 ∧ Settled bench.w [255] 255 ∧ Settled bench.w [] 0 ∧ Readable bench.w [0, 255] := by
  unfold Settled Readable; decide +kernel

theorem witness_ScalarConditions :
    MayTrap benchH ∧ comparisons[(0#5).toNat]?.isSome = true ∧ comparisons[(11#5).toNat]?.isSome = true ∧
    (5#3).toNat ≤ 5 ∧ 5 < (6#3).toNat ∧ 11 < (12#5).toNat ∧ Readable bench.w [1, 2] := by
  unfold MayTrap Readable; decide +kernel

theorem witness_SystemRegisters :
    let s := upP bench (fun p => { p with blink := { p.blink with ctl := 1 } })
    Settled s.w [] 3 ∧ Readable s.w [3] ∧ sysKnown (0x001#18).toNat = false ∧
    (partOf s s.w.part).blink.ctl.getLsbD 0 = true ∧ (partOf s s.w.part).blink.holdUntil = none ∧
    (partOf s s.w.part).blink.copying ≤ s.clock := by
  unfold Settled Readable; decide +kernel

/-! Control flow -/

theorem witness_BranchesAndCalls :
    let s := upR bench (fun g => { g with rstack := List.replicate 15 0x100 })
    ¬ ((6 : BitVec 3) = 7 ∧ (1 : BitVec 1) = 1) ∧ killsBack s = false ∧ s.w.regs.rstack.length < 16 ∧
    Readable s.w [4] ∧ (getS s.w 4).toNat % 4 = 0 ∧ s.w.regs.rstack = 0x100 :: List.replicate 14 0x100 ∧
    (s.w.frame = none ∨ s.w.sys.handler = false) := by
  unfold Readable; decide +kernel

theorem witness_JumpsAndIllegalFields :
    MayTrap (withS benchH [(4, 1)]) ∧ (getS (withS benchH [(4, 1)]).w 4).toNat % 4 ≠ 0 ∧
    MayTrap (withS benchH [(4, 0xFFFFFFFFFFFFFFFF)]) ∧ (getS (withS benchH [(4, 0xFFFFFFFFFFFFFFFF)]).w 4).toNat % 4 ≠ 0 ∧
    15 < (16#8).toNat ∧ sysKnown (0x3FFFF#18).toNat = false := by
  unfold MayTrap; decide +kernel

/-- A trap frame, and a wave in its handler at the depth of that frame. -/
def aFrame : Frame := { resume := 0x40, em := 0xFF, lpc := 8, lbase := 4, depth := 0 }
def inHandler (cause : DWord) : State :=
  upW benchH (fun w => { w with frame := some aFrame, sys := { w.sys with handler := true, cause := cause } })

theorem witness_TrapEntryAndReturn :
    MayTrap benchH ∧ laneIdle (queued (.vnop 0)).w = false ∧ (inHandler 0).w.frame = some aFrame ∧
    (inHandler 0).w.sys.handler = true ∧ aFrame.depth = (inHandler 0).w.regs.rstack.length + 8 * (inHandler 0).w.regs.rsc ∧
    bits (inHandler 0).w.sys.cause 7 0 = 0 ∧ bits (inHandler 1).w.sys.cause 7 0 ≤ 0x14 ∧
    bits (inHandler 0x14).w.sys.cause 7 0 ≤ 0x14 := by
  unfold MayTrap; decide +kernel

/-- VNOPs with wait 0 in memory from the lane section's base on. -/
def withBlock (n : Nat) : State :=
  { bench with mem := (List.range n).map (fun j => (0x100000 + 12 * j, (0xF0 : Byte))) }

theorem witness_BatchEnqueue :
    (withBlock 1).w.lane.batch = 0 ∧ (withBlock 1).w.lane.q.length + 1 ≤ 64 ∧
    fetchAt (withBlock 1) ((withBlock 1).w.regs.lbase + dw (12 * 0)) 12 = .ok 0xF0 ∧
    (decodeLane (BitVec.ofNat 96 0xF0)).toOption = some (.vnop 0) ∧ laneLegal (withBlock 1).w (.vnop 0) = true := by
  decide +kernel

theorem witness_BatchEnqueue_sixty_four :
    (List.replicate 64 (Instr.vnop 0)).length = (if (0#6) = 0 then 64 else (0#6).toNat) ∧
    (withBlock 64).w.lane.q.length + 64 ≤ 64 ∧
    (∀ j ∈ [0, 63], fetchAt (withBlock 64) ((withBlock 64).w.regs.lbase + dw (12 * j)) 12 = .ok 0xF0) := by
  decide +kernel

/-- A queue with room for one word of two; and a block that ends at an illegal word. -/
theorem witness_BatchEnqueue_stops :
    let s := upW (withBlock 2) (fun w => { w with lane := { w.lane with q := List.replicate 63 (captured w (.vnop 0) 0 0) } })
    let t := { benchH with mem := memPut [] 0x100000 (List.replicate 12 0xFF) }
    s.w.lane.batch = 0 ∧ 64 < s.w.lane.q.length + 2 ∧ s.w.lane.q.length ≤ 64 ∧
    (∀ j < 2, fetchAt s (s.w.regs.lbase + dw (12 * j)) 12 = .ok 0xF0) ∧
    t.w.lane.batch < 1 ∧ (fetchAt t t.w.regs.lbase 12).toOption = some (2 ^ 96 - 1) ∧ (decodeLane (BitVec.allOnes 96)).toOption = none ∧
    MayTrap t := by
  unfold MayTrap; decide +kernel

theorem witness_MaskInstructions :
    let s := upR bench (fun g => { g with mstack := List.replicate 15 0xFF })
    (15#8).toNat < 16 ∧ writerVp s.w 15 = false ∧ s.w.regs.mstack.length < 16 ∧
    s.w.regs.mstack = 0xFF :: List.replicate 14 0xFF ∧ Readable s.w [4] ∧ Settled s.w [] 8 ∧ busyVp s.w 15 = false := by
  unfold Settled Readable; decide +kernel

theorem witness_LoopCountsAndLaneReads :
    (511#10).toNat < bench.w.rows ∧ busyV bench.w 511 = false ∧ writerV bench.w 511 = false ∧ killsBack bench = false ∧
    MayTrap benchH ∧ benchH.w.rows ≤ (512#10).toNat ∧ bench.w.regs.bad = [] ∧
    (let e := upR benchH (fun g => { g with bad := [3] })
     (3#10).toNat < e.w.rows ∧ (3#10).toNat ∈ e.w.regs.bad ∧ MayTrap e) ∧ Settled bench.w [5] 11 ∧
    (upR bench (fun g => { g with em := 0 })).w.regs.em = 0 ∧ bench.w.regs.em.getLsbD 0 = true ∧
    ((upR bench (fun g => { g with em := 0x80000000 })).w.regs.em.getLsbD 31 = true ∧
      ∀ j < 31, (upR bench (fun g => { g with em := 0x80000000 })).w.regs.em.getLsbD j = false) := by
  unfold MayTrap Settled; decide +kernel

theorem witness_WaitsAndHints :
    busyS (queued (.vadd { plain with ty := .i32, b := .scal 4 })).w 4 = true ∧
    writerS (queued (.mrd { stall := 0, pred := always, v := 0, sd := 6, m := 0, cnt := 0, col := 0, rblk := 0 })).w 6 = true ∧
    busyV (queued (.vadd { plain with ty := .i32, vd := 5, va := 3 })).w 3 = true ∧
    writerV (queued (.vadd { plain with ty := .i32, vd := 5, va := 3 })).w 5 = true ∧
    bench.w.lane.q = [] ∧ bench.w.lane.inflight = [] ∧ lanePushesOut bench bench.w.id = false ∧
    (queued (.vnop 0)).w.lane.q ≠ [] ∧ (1#24) ≠ 0 ∧ killNow bench = false := by
  decide +kernel

theorem witness_ExitAndKill :
    let s := withTask bench (aTask .running boundRecord)
    laneIdle s.w = true ∧ pushesOut s s.w.id = false ∧ matrixOps s s.w.id = [] ∧ s.w.sys.handler = false ∧
    s.w.pend = [] ∧ maskdisGroups s s.w = [] ∧ s.w.ended = none ∧ killNow s = true ∧
    (let t := withTask bench (aTask .running (boundRecord.set 5 (0x7FFFFFFF + 2 ^ 37)))
     killNow t = true ∧ killsBack t = true ∧ getC t.w 0 = false ∧ 3 < t.w.rows ∧ busyV t.w 3 = false ∧ t.w.regs.bad = [] ∧
     t.w.regs.em.getLsbD 0 = true ∧ getV t.w 3 0 ≠ 1 ∧ writerS t.w 4 = false ∧ (getS t.w 4).toNat ≤ t.w.regs.spc.toNat) := by
  decide +kernel

/-- A wave with full stacks whose spill area of `n` 64-byte units ends at offset 0x1000 of vault 0. -/
def spiller (n : Nat) : State :=
  upW (upR benchH (fun g => { g with rstack := List.replicate 16 0x100, mstack := List.replicate 16 0xFF })) (fun w =>
    { w with sys := { w.sys with spillbase := vaultVa (0x1000 - 64 * n), spilllim := vaultVa 0x1000 } })

/-- Empty stacks, one record of each spilled in an area of four units. -/
def refiller : State :=
  upW (upR benchH (fun g => { g with msc := 1, rsc := 1 })) (fun w =>
    { w with sys := { w.sys with spillbase := vaultVa 0xF00, spilllim := vaultVa 0x1000 } })

theorem witness_StacksSpillAndRefill_spills :
    (spiller 1).w.regs.rstack.length = 16 ∧ (15#8).toNat < 16 ∧ writerVp (spiller 1).w 15 = false ∧
    (spiller 1).w.regs.mstack.length = 16 ∧ (spiller 1).w.sys.spillbase.toNat + 64 ≤ (spiller 1).w.sys.spilllim.toNat ∧
    ((spiller 1).w.sys.spilllim - 64).toNat % 8 = 0 ∧ (spiller 1).w.sys.spillbase.toNat % 4 = 0 ∧
    (∀ i < 8, locate (spiller 1) 0 0 false true ((spiller 1).w.sys.spilllim - 64 + dw (8 * i)) = .ok (.vault (2 ^ 64 + 0xFC0 + 8 * i)) ∧
      locate (spiller 1) 0 0 false true ((spiller 1).w.sys.spillbase + dw (4 * i)) = .ok (.vault (2 ^ 64 + 0xFC0 + 4 * i))) ∧
    Readable (spiller 1).w [4] ∧ (getS (spiller 1).w 4).toNat % 4 = 0 := by
  unfold Readable; decide +kernel

theorem witness_StacksSpillAndRefill_refills :
    refiller.w.regs.mstack = [] ∧ refiller.w.regs.rstack = [] ∧ refiller.w.frame = none ∧ refiller.bad = [] ∧
    refiller.w.sys.spillbase.toNat % 4 = 0 ∧ (refiller.w.sys.spilllim - 64).toNat % 8 = 0 ∧
    ∀ i < 8, locate refiller 0 0 false false (refiller.w.sys.spillbase + dw (4 * i)) = .ok (.vault (2 ^ 64 + 0xF00 + 4 * i)) ∧
      locate refiller 0 0 false false (refiller.w.sys.spilllim - 64 + dw (8 * i)) = .ok (.vault (2 ^ 64 + 0xFC0 + 8 * i)) := by
  decide +kernel

theorem witness_StacksSpillAndRefill_traps :
    MayTrap (spiller 0) ∧ (spiller 0).w.regs.rstack.length = 16 ∧ (spiller 0).w.regs.mstack.length = 16 ∧
    ¬ (spiller 0).w.sys.spillbase.toNat < (spiller 0).w.sys.spilllim.toNat ∧ MayTrap benchH ∧
    benchH.w.regs.mstack = [] ∧ benchH.w.regs.msc = 0 ∧ benchH.w.regs.rstack = [] ∧ benchH.w.regs.rsc = 0 ∧
    benchH.w.frame = none := by
  unfold MayTrap; decide +kernel

/-- A grid wave 0 of a workgroup of two, alone in group 1, both in group 0. -/
def inGrid : State :=
  let two : Group := { sets := [3, 1], size := 2, bars := [], gone := [] }
  upW (upP benchH (fun p => { p with groups := SMap.put p.groups (wgKey 0 0) two })) (fun w => { w with kind := .grid, wg := 0 })

theorem witness_Barriers :
    let s := inGrid
    laneIdle s.w = true ∧ pushesOut s s.w.id = false ∧ s.w.pend = [] ∧ s.w.inBar = none ∧ s.w.status = .ready ∧
    (∀ g ∈ [(0 : Nat), 1, 2], openBara s g = none) ∧ Readable s.w [4] ∧ isMember s s.w 0 = true ∧ isMember s s.w 1 = true ∧
    isMember s s.w 2 = false ∧ MayTrap s ∧
    (barOf s s.w 1).mask = none ∧ (barOf s s.w 1).mismatch = false ∧
    ((groupOf s s.w).members 1).filter (fun k => k ≠ s.w.widx) = [] ∧
    ((groupOf s s.w).members 0).filter (fun k => k ≠ s.w.widx) = [1] ∧ 1 ∉ (barOf s s.w 0).arrived ∧ 1 ∉ (groupOf s s.w).gone := by
  unfold MayTrap Readable; decide +kernel

/-- The same workgroup when one barrier of group 0 has completed. -/
def metGroup : Group := { sets := [3, 1], size := 2, bars := [(0, { barOf inGrid inGrid.w 0 with inst := 1 })], gone := [] }

/-- The same wave with a BARA open in group 0: its instance is under way, or has completed. -/
def arrivedIn (inst : Nat) : State :=
  upW inGrid (fun w => { w with bara := [(0, { inst := inst, maskdis := false, open_ := true })] })

theorem witness_Barriers_arrived :
    let s := arrivedIn (barOf inGrid inGrid.w 0).inst
    let c := upP (arrivedIn 0) (fun p => { p with groups := SMap.put p.groups (wgKey 0 0) metGroup })
    laneIdle s.w = true ∧ s.w.pend = [] ∧ s.w.inBar = none ∧ isMember s s.w 0 = true ∧ openBara s 0 = some false ∧
    isMember c c.w 0 = true ∧ openBara c 0 = some true ∧ (maskdisGroups c c.w).contains 0 = false := by decide +kernel

/-! Scalar memory -/

/-- Another wave's SC operation is first in the die's order. -/
def lateSc : State := upP bench (fun p => { p with scq := [{ n := 1, wave := some 77, lane := false, req := none }], tickets := 1 })

theorem scTurn_free {s : State} {n : Nat} (h : scHere s n = true ∧ scTicket s.w false = none ∧ (partOf s s.w.part).scq = []) :
    ScTurn s false n := by simp [ScTurn, h]
theorem not_scTurn_late : ¬ ScTurn lateSc false 3 := by
  have h : scHere lateSc 3 = true ∧ scTicket lateSc.w false = none ∧ (partOf lateSc lateSc.w.part).scq ≠ [] := by decide +kernel
  simp [ScTurn, h]

theorem witness_ScalarLoads :
    let s := withS bench [(2, 0x40), (3, vaultVa 0x40)]
    Settled s.w [2] 8 ∧ Settled s.w [3] 8 ∧ s.w.sys.fpmode.getLsbD 1 = false ∧ (coreOf s s.w.sys.core.toNat).l1.length < 4096 ∧
    homeEcc s (.mem 0x100050) 8 = false ∧ (dwI ((getS s.w 2).toNat + 8 * (2#10).toInt)) = 0x50 ∧ (0x50#64).toNat % 8 = 0 ∧
    locate s s.w.ctx s.w.part false false 0x50 = .ok (.mem 0x100050) ∧ (0x50#64).toNat % 64 = 0x100050 % 64 ∧ s.bad = [] ∧
    locate s s.w.ctx s.w.part false false (dwI ((getS s.w 3).toNat + 4 * (0x3FF#10).toInt)) = .ok (.vault (2 ^ 64 + 0x3C)) := by
  unfold Settled; decide +kernel

theorem witness_ScalarStores :
    let s := withS bench [(2, 0x40), (3, vaultVa 0x40)]
    Readable s.w [5, 2] ∧ Readable s.w [5, 3] ∧ s.w.sys.fpmode.getLsbD 1 = false ∧
    (coreOf s s.w.sys.core.toNat).l1.length < 4096 ∧
    locate s s.w.ctx s.w.part false true (dwI ((getS s.w 2).toNat + 8 * (2#10).toInt)) = .ok (.mem 0x100050) ∧
    locate s s.w.ctx s.w.part false true (dwI ((getS s.w 3).toNat + 8 * (0x1F8#10).toInt)) = .ok (.vault (2 ^ 64 + 0x1000)) := by
  unfold Readable; decide +kernel

theorem witness_ScalarAccessFaultsAndParks :
    let s := withS benchH [(2, 0x41), (3, 0x20000), (4, 0xFFFE000000C00000), (5, 0x40)]
    let g : Gran := { w := some (5, 9), p := none, r := none, many := false, q := none, sync := [] }
    let r := upW { s with grans := [(0x100040 / 16, g)] } (fun w => { w with sys := { w.sys with fpmode := 2 } })
    MayTrap s ∧ MayTrap r ∧ (getS s.w 2).toNat % 8 ≠ 0 ∧ (getS s.w 4).toNat % 8 = 0 ∧
    locate s s.w.ctx s.w.part false true (getS s.w 4) = .trap 0x07 ∧
    locate r r.w.ctx r.w.part false true (getS r.w 5) = .ok (.mem 0x100040) ∧ r.w.sys.fpmode.getLsbD 1 = true ∧
    (granOf r (0x100040 / 16)).w = some (5, 9) ∧ 9 ≠ r.w.id ∧ (granOf r (0x100040 / 16)).p = none ∧
    Settled s.w [3] 6 ∧ (getS s.w 3).toNat % 8 = 0 ∧ locate s s.w.ctx s.w.part false false (getS s.w 3) = .page := by
  unfold MayTrap Settled; decide +kernel

/-- The state with a second table of context 0 in which offset 2 MiB is a codec leaf, kept at 0x400000. -/
def withCodec (s : State) : State :=
  let v := memPutNat (tableOf s 0).view 0x12008 8 0x400017
  { s with contexts := SMap.put s.contexts 0 { ctxOf s 0 with tables := [(0, { tableOf s 0 with view := v })] } }

theorem witness_ScalarAtomics :
    let s := withS (withCodec bench) [(2, vaultVa 0x40), (3, 0x40), (4, 0x200008)]
    (∀ a ∈ [2, 3, 4], Settled s.w [a, 5, 9] 9 ∧ (getS s.w a).toNat % 8 = 0) ∧
    (∀ al ∈ [(2, .vault (2 ^ 64 + 0x40)), (3, .mem 0x100040), (4, .codec 1 0x400000 0 8)],
      locate s s.w.ctx s.w.part false true (getS s.w al.1) = .ok al.2 ∧ heldHere al.2 = true ∧ homeEcc s al.2 8 = false) ∧
    (coreOf s s.w.sys.core.toNat).l1 = [] ∧ ScTurn s false 3 := by
  refine ⟨?_, ?_, ?_, scTurn_free (by decide +kernel)⟩
  on_goal 1 => unfold Settled
  all_goals decide +kernel

theorem witness_FenceOrders :
    ScTurn bench false 3 ∧ ¬ ScTurn lateSc false 3 ∧ (∀ a ∈ [(1 : BitVec 6), 0x3F], fenceDone bench a = true ∧ fenceReads bench.w a = true) ∧
    SMap.wf (coreOf bench bench.w.sys.core.toNat).l1 = true ∧ scHere lateSc 3 = true ∧
    fenceDone lateSc 1 = true ∧ fenceReads lateSc.w 1 = true ∧ lateSc.w.status = .ready ∧
    fenceReads (queued (.vld plainMem)).w 1 = false ∧ MayTrap benchH ∧ 4 < (5#3).toNat := by
  refine ⟨scTurn_free (by decide +kernel), not_scTurn_late, ?_⟩
  unfold MayTrap; decide +kernel

/-! Records, tasks, incumbents -/

/-- The bench's wave holding record 1. -/
def withRecord : State :=
  { bench with engines := [(0, { Engine.zero with recs := [(1, { holder := some bench.w.id, task := none, roleB := true, gran := 1, bytes := [], relp := none })] })] }

theorem witness_OperandRecords :
    let s := withS benchH [(8, 0x100000), (9, 0x100001), (10, 1)]
    let r := withS withRecord [(8, 4096)]
    Settled s.w [8] 5 ∧ Settled s.w [9] 5 ∧ Settled s.w [10] 5 ∧ Settled s.w [0] 5 ∧ settleRecords s s.w.engine = s ∧
    0 < (getS s.w 8).toNat ∧ (getS s.w 8).toNat ≤ 0x100000 ∧ recordOf s 0 = none ∧
    ((getS s.w 8).toNat + 4095) / 4096 ≤ (engineOf s s.w.engine).freeGran ∧ 0x100000 < (getS s.w 9).toNat ∧
    (getS s.w 0).toNat = 0 ∧ MayTrap s ∧ Settled r.w [8] 5 ∧ settleRecords r r.w.engine = r ∧
    (recordOf r 1).isSome = true ∧
    (recordOf r 1).map (·.heldBy r r.w) = some true ∧ (recordOf r 1).map (·.relp) = some none ∧ r.w.lane.q = [] ∧
    (engineOf r r.w.engine).ops = [] ∧ SMap.wf (engineOf r r.w.engine).recs = true := by
  unfold Settled MayTrap; decide +kernel

/-- A matrix instruction that names record 1, in the lane-issue queue. -/
def anMma : Instr := .mma { stall := 0, m := 0, ra := 0, b := .record 1, shape := 12, sbs := 0, fmtA := .f16, fmtB := .f16 }
def queuedMma (s : State) : State := upW s (fun w => { w with lane := { w.lane with q := [captured w anMma 0 w.lane.seq] } })

/-- Another wave holding record 1. -/
def heldElsewhere : State :=
  withS { bench with engines := [(0, { Engine.zero with recs := [(1, { holder := some 77, task := none, roleB := false, gran := 1, bytes := [], relp := none })] })] } [(8, 4096)]

theorem witness_OperandRecords_taken :
    let s := heldElsewhere
    Settled s.w [8] 5 ∧ settleRecords s s.w.engine = s ∧ (recordOf s 1).isSome = true ∧
    (recordOf s 1).map (·.heldBy s s.w) = some false ∧ settleRecords (queuedMma withRecord) 0 = queuedMma withRecord ∧
    1 ∈ recordsOf anMma ∧ (queuedMma withRecord).w.lane.q.map (·.i) = [anMma] := by
  unfold Settled; decide +kernel

theorem witness_TaskInstructions_submit :
    let s := withS { bench with mem := memPut bench.mem (2 ^ 64 + 0x40) (bytesOfQuads (aRecord 0)) } [(4, vaultVa 0x40)]
    Settled s.w [4] 5 ∧ killNow s = false ∧ fenceDone s 0x3F = true ∧ CleanL1 s s.w.sys.core.toNat ∧
    (getS s.w 4).toNat % 64 = 0 ∧ s.bad = [] ∧
    (∀ j < 8, locate s s.w.ctx s.w.part false false (getS s.w 4 + dw (8 * j)) = .ok (.vault (2 ^ 64 + 0x40 + 8 * j))) ∧
    (List.range 8).map (fun j => dw (memNat s.mem (2 ^ 64 + 0x40 + 8 * j) 8)) = aRecord 0 ∧
    TaskRec.invalid (aRecord 0) = false ∧ freeEntry (partOf s s.w.part) = some 0 ∧
    TaskRec.invalid (aRecord 5) = true ∧ MayTrap benchH := by
  unfold Settled MayTrap CleanL1; decide +kernel

theorem witness_TaskInstructions_signal :
    let t := { aTask .waiting (aRecord 0) with count := 1 }
    let s := withS { withTask bench t with w := bench.w } [(4, 7)]
    Readable s.w [4] ∧ fenceDone s 0x3F = true ∧ fenceDone (queued (.vnop 0)) 0x3F = false ∧
    (getS s.w 4).toNat % 2 ^ 16 = 7 ∧ SMap.get? (partOf s s.w.part).tasks 7 = some t ∧ t.st = .waiting ∧ t.count = 1 ∧
    t.jobs = 0 := by
  unfold Readable; decide +kernel

theorem witness_TaskInstructions_take :
    let t := { aTask .running (aRecord 1) with cur := 3, hi := 3 }
    let u := { aTask .running (aRecord 1) with cur := 3, hi := 2 ^ 32 - 1 }
    let s := withTask bench t
    SMap.get? (partOf s s.w.part).tasks 7 = some t ∧ s.w.task = some 7 ∧ TaskRec.kind t.r = 1 ∧ Settled s.w [8] 7 ∧
    t.cur ≤ t.hi ∧ t.hi < 2 ^ 32 ∧ SMap.get? (partOf (withTask bench u) 0).tasks 7 = some u ∧ TaskRec.kind u.r = 1 ∧
    u.cur ≤ u.hi ∧ u.hi < 2 ^ 32 ∧ benchH.w.task = none ∧ MayTrap benchH := by
  unfold Settled MayTrap; decide +kernel

theorem witness_Incumbents :
    ScTurn bench false 3 ∧ ¬ ScTurn lateSc false 3 ∧ fenceDone lateSc 0x11 = true ∧ Settled bench.w [5, 6, 7] 5 ∧ fenceDone bench 0x11 = true ∧ coresOf (partOf bench bench.w.part) = [0, 1, 2, 3] := by
  refine ⟨scTurn_free (by decide +kernel), not_scTurn_late, ?_⟩
  unfold Settled; decide +kernel

/-! Queues and streams -/

/-- The queue's ring follows its control word, so that it is laid out whatever it holds. -/
theorem queueLaid_two : QueueLaid (withBound 2) 0 0 (allocVa 0x100) :=
  queueLaid_of (c := Qcw.ofQuads (qcwQuads 2)) (by decide +kernel) (by decide +kernel) (by decide +kernel) (by decide +kernel)
theorem queueLaid_empty : QueueLaid (withBound 0) 0 0 (allocVa 0x100) :=
  queueLaid_of (c := Qcw.ofQuads (qcwQuads 0)) (by decide +kernel) (by decide +kernel) (by decide +kernel) (by decide +kernel)
theorem queueLaid_full : QueueLaid (withBound 4) 0 0 (allocVa 0x100) :=
  queueLaid_of (c := Qcw.ofQuads (qcwQuads 4)) (by decide +kernel) (by decide +kernel) (by decide +kernel) (by decide +kernel)

theorem witness_TaskQueues_bind :
    let s := withS (withQueue 2) [(4, allocVa 0x100), (5, 0)]
    Settled s.w [4] 4 ∧ Settled s.w [5] 5 ∧ getS s.w 5 = 0 ∧ getS s.w 4 ≠ 0 ∧ (getS s.w 4).toNat % 32 = 0 ∧
    vaSpace (getS s.w 4) = 0xE ∧ dieOf s (getS s.w 4) = s.dieid.toNat ∧ inAlloc s s.w.part (getS s.w 4) 32 = true ∧
    s.bad = [] ∧ s.w.sys.fpmode.getLsbD 1 = false ∧
    (∀ j < 4, locate s s.w.ctx s.w.part false false (getS s.w 4 + dw (8 * j)) = .ok (.vault (allocKey 0x100 + 8 * j))) ∧
    (List.range 4).map (fun j => dw (memNat s.mem (allocKey 0x100 + 8 * j) 8)) = qcwQuads 2 ∧
    qcwOk s s.w.part (getS s.w 4) (qcwQuads 2) = true ∧ handleOf s.w 3 = none ∧ MayTrap s := by
  unfold Settled MayTrap; decide +kernel

theorem witness_TaskQueues_push_and_pop :
    let s := withBound 2
    QueueLaid s 0 s.w.part aHandle.qcw ∧ CleanL1 s s.w.sys.core.toNat ∧ Settled s.w [4] 4 ∧ handleOf s.w 3 = some aHandle ∧
    aHandle.near s s.w.sys.core.toNat = true ∧ aHandle.pushOnly = false ∧
    aHandle.gen = (qcwOf s 0 s.w.part aHandle.qcw).gen ∧ aHandle.esize = (qcwOf s 0 s.w.part aHandle.qcw).esize ∧
    (qcwOf s 0 s.w.part aHandle.qcw).count < (qcwOf s 0 s.w.part aHandle.qcw).depth ∧
    queueElems s 0 s.w.part aHandle.qcw = [bytesOf 4 0x11, bytesOf 4 0x22] ∧
    (qcwOf (withBound 4) 0 0 aHandle.qcw).depth ≤ (qcwOf (withBound 4) 0 0 aHandle.qcw).count ∧
    queueElems (withBound 0) 0 0 aHandle.qcw = [] ∧ ({ aHandle with home := 2 } : Handle).near s s.w.sys.core.toNat = false ∧
    (coreOf s s.w.sys.core.toNat).pushes.length < 64 := by
  refine ⟨queueLaid_two, ?_⟩
  unfold CleanL1 Settled; decide +kernel

/-- A stream descriptor: gather of 4-byte elements by 4-byte indices into q3, two of them. -/
def streamQuads : List DWord := [0x40, 0x80, 2 + 4 * 2 ^ 32, 3 * 2 ^ 7]
def aStream : Stream :=
  { uid := 9, d0 := 0x40, d1 := 0x80, d2 := 2 + 4 * 2 ^ 32, d3 := 3 * 2 ^ 7, dq := aHandle, iq := none, remaining := 2, midway := none,
    run := false, done := false, flt := false, parked := none, failed := [], acq := 0, race := false }

theorem witness_StreamInstructions :
    let s := withS { withBound 0 with mem := memPut (withBound 0).mem (2 ^ 64 + 0x40) (bytesOfQuads streamQuads) } [(5, vaultVa 0x40)]
    let t := upW (withBound 0) (fun w => { w with streams := [(7, aStream)] })
    Settled s.w [5] 5 ∧ SMap.get? s.w.streams 1 = none ∧ (getS s.w 5).toNat % 8 = 0 ∧ s.bad = [] ∧
    s.w.sys.fpmode.getLsbD 1 = false ∧
    (∀ j < 4, locate s s.w.ctx s.w.part false false (getS s.w 5 + dw (8 * j)) = .ok (.vault (2 ^ 64 + 0x40 + 8 * j))) ∧
    (List.range 4).map (fun j => dw (memNat s.mem (2 ^ 64 + 0x40 + 8 * j) 8)) = streamQuads ∧
    (streamOf s.w s.nextWave streamQuads).isSome = true ∧ MayTrap s ∧
    SMap.get? t.w.streams 7 = some aStream ∧ aStream.run = false ∧ aStream.done = false ∧ aStream.midway = none ∧
    aStream.remaining < 2 ^ 32 := by
  unfold Settled MayTrap; decide +kernel
/-! Lane instructions -/

/-- A lane instruction in issue on a state is ready for it; a Bool, to be decided for many instructions at once. -/
def readyOn (s : State) (i : Instr) : Bool :=
  let t := issuing s i
  i.wf && decide (t.w.lane.inflight = []) && decide (t.w.lane.nextIssue ≤ t.clock) && !stallTrap t.w t.clock i && !rowBad t.w i &&
    decide (t.w.lane.issue.regs = none)

theorem laneReady_of_readyOn {s : State} {l : List Instr} (h : l.all (readyOn s) = true) :
    ∀ i ∈ l, LaneReady (issuing s i) i := by
  intro i hi
  have := List.all_eq_true.mp h i hi
  simp only [readyOn, Bool.and_eq_true, decide_eq_true_eq, Bool.not_eq_true'] at this
  exact ⟨this.1.1.1.1.1, this.1.1.1.1.2, this.1.1.1.2, this.1.1.2, this.1.2, by simp [Wave.reading, this.2]⟩

/-- Operands for the exact operations, in their order. -/
def exactXs : List LArith :=
  let t (ty : LTy) : LArith := { plain with ty := ty, vd := 4, va := 6, b := .vec 8 }
  let sat (ty : LTy) : LArith := { t ty with m := { Mods.neutral with sat := true, nega := true, xmode := .rot, xarg := 3 } }
  [sat .i16x2, sat .i32, t .b16x2, t .i32, t .b32, { t .i32 with c := .vec 10 }, t .b64, t .b64, t .b32, t .b32,
   t .b8x4, t .b16x2, t .i8x4, t .i16x2, t .i8x4, t .b8x4, t .b32, t .i64, t .b64, t .b64, t .b64, t .i64]

theorem witness_LaneExactArithmetic :
    ∀ i ∈ (exactOps.zip exactXs).map (fun p => p.1.1 p.2), LaneReady (issuing bench i) i :=
  laneReady_of_readyOn (by decide +kernel)

theorem witness_LaneExactArithmetic_popped (s : State) (act : Word) : Popped s { plain with ty := .i32 } act s Pops.none :=
  popped_none _ _ _ nofun nofun

/-- Popped operands: VADD of q3's two elements in lanes 0 and 1. -/
def popX : LArith := { plain with ty := .i32, vd := 4, va := 6, b := .queue 3 }
def popState : State := issuing (upR (withBound 2) (fun g => { g with em := 3 })) (.vadd popX)
def popResult : State × Pops × Nat :=
  match popSeq popState popState.w.lane.issue.elpc ((lanesOf 3).map (fun i => (i, true, aHandle))) with
  | some (.ok r) => r
  | _ => (popState, Pops.none, 0)

theorem witness_popped_queue :
    LaneReady popState (.vadd popX) ∧ active popState.w (.vadd popX) = 3 ∧ ∃ s' p, Popped popState popX 3 s' p := by
  refine ⟨laneReady_of_readyOn (l := [.vadd popX]) (by decide +kernel) _ (List.mem_singleton.mpr rfl), by decide +kernel, ?_⟩
  exact ⟨_, _, popped_b (r := popResult) (h := aHandle) (q := 3) (by decide) rfl nofun (by decide +kernel)
    (by decide +kernel) (by decide +kernel)⟩

theorem witness_LaneBitsMovesCompares :
    (∀ i ∈ [Instr.vpopc { plain with va := 6 }, .vclz { plain with va := 6 }, .vbrev { plain with va := 6 },
        .vbfe { plain with ty := .i32, va := 6, b := .vec 8 }, .vbfi { plain with va := 6, b := .vec 8, c := .vec 9 },
        .vmix { plain with va := 6 }, .vlaneid plain, .vmov { plain with va := 6 }, .vmov { plain with b := .imm 7 },
        .vsel { plain with ty := .b64, va := 6, b := .vec 8, c := .vec 15 },
        .vcmp { plain with ty := .b64, va := 6, b := .vec 8, m := { Mods.neutral with aux4 := 11 } },
        .vcmp { plain with va := 6, b := .vec 8 }], LaneReady (issuing bench i) i) ∧
    plain.ty.elems = 1 ∧ plain.ty.width = 32 ∧ plain.ty.wide = false ∧ plain.m.sat = false ∧
    comparisons[(11#4).toNat]?.isSome = true ∧ narrowComparisons[(0#4).toNat]?.isSome = true :=
  ⟨laneReady_of_readyOn (by decide +kernel), by decide⟩

theorem witness_LaneRoundedArithmetic :
    ∀ i ∈ roundedOps.map (fun op => op.1 { plain with ty := .f32, va := 6 }), LaneReady (issuing bench i) i :=
  laneReady_of_readyOn (by decide +kernel)

theorem witness_LaneFloatFunctions :
    let x : LArith := { plain with ty := .f32, va := 6 }
    ∀ i ∈ [Instr.vfmin x, .vfmax x, .vfrnd x, .vfclass x, .vfldexp x, .vfdot2 { x with ty := .bf16x2 },
      .vfdot4 { x with ty := .e4m3x4 }, .vfcmp { x with m := { Mods.neutral with aux4 := 7 } }], LaneReady (issuing bench i) i :=
  laneReady_of_readyOn (by decide +kernel)

theorem witness_LaneConversions :
    LTy.ofCode (6#4).toNat = some .f16x2 ∧ LTy.ofCode (13#4).toNat = some .b16x2 ∧
    (∀ i ∈ [Instr.vcvt { plain with ty := .f32, m := { Mods.neutral with aux4 := 6 } },
      .vcvt { plain with ty := .f16x2, m := { Mods.neutral with aux4 := 2 } },
      .vcvt { plain with ty := .f16x2, m := { Mods.neutral with aux4 := 13 } },
      .vcvt { plain with ty := .f32, c := .scal 3, m := { Mods.neutral with aux4 := 6, aux10 := 1, rnd := .rdn } },
      .vcvtpk { plain with ty := .f32, m := { Mods.neutral with aux4 := 8 } }], LaneReady (issuing bench i) i) :=
  ⟨by decide, by decide, laneReady_of_readyOn (by decide +kernel)⟩

theorem witness_LaneBlocks :
    let x : LArith := { plain with ty := .f32, vd := 4, va := 6 }
    x.ty = .f32 ∧ ∀ i ∈ [Instr.vqblk x, .vdqblk x, .vdqblk { x with b := .scal 3 }], LaneReady (issuing bench i) i :=
  ⟨rfl, laneReady_of_readyOn (by decide +kernel)⟩

theorem witness_CrossLane :
    let x : LArith := { plain with ty := .i64, vd := 4, va := 6 }
    let y : LArith := { plain with ty := .b64, vd := 4, va := 6 }
    (x.ty.isFloat = false ∧ x.ty.elems = 1) ∧
    ∀ i ∈ [Instr.vshfl { y with b := .vec 8 }, .vcompact { y with c := .vec 9 }, .vprank { plain with c := .vec 9 }, .vmatch y,
      .vscan x, .vradd x, .vrmin x, .vrmax x], LaneReady (issuing bench i) i :=
  ⟨by decide, laneReady_of_readyOn (by decide +kernel)⟩

/-- VTRAPIF on lanes that hold v4 = 1, or 0. -/
def trapX : LArith := { plain with va := 4, b := .imm 0xFFFFFFFF }

/-- A remote push of the wave, as its core's buffer holds it; and a state with one of its lane code. -/
def aPush : RPush :=
  { qcw := allocVa 0x100, owner := 0, ctx := 0, part := 0, gen := 1, data := [1, 2, 3, 4], wave := bench.w.id, lane := true,
    elpc := 5, covers := [], home := 1 }
def pushing (s : State) : State := modCore s s.w.sys.core.toNat (fun c => { c with pushes := [aPush] })

theorem witness_LaneControl :
    let s := issuing benchH (.vtrapif trapX)
    let hit (w : Wave) : Bool := (lanesOf 0xFFFFFFFF).any (fun k =>
      (BitVec.ofNat 32 (fetchA w trapX k) &&& BitVec.ofNat 32 (wordB w trapX Pops.none k)) != 0)
    (∀ i ∈ [Instr.vnop 15, .vtrapif trapX], LaneReady (issuing benchH i) i) ∧ Popped s trapX 0xFFFFFFFF s Pops.none ∧
    hit benchH.w = false ∧ hit (withV benchH 4 (fun _ => 1)).w = true ∧ lanePushesOut s s.w.id = false ∧
    lanePushesOut (pushing s) s.w.id = true ∧ s.w.sys.handler = false ∧ (ctxOf s s.w.ctx).handler ≠ 0 := by
  refine ⟨laneReady_of_readyOn (by decide +kernel), popped_none _ _ _ nofun nofun, ?_⟩
  decide +kernel

/-- A result for lanes 0 and 31 of v5 in flight, of fixed or variable latency. -/
def landing (fixed load : Bool) (due : Nat) : PendWrite :=
  { dest := .v 5, data := [(0, 7), (31, 8)], fixed := fixed, load := load, due := due, seq := 0 }
def landingState (p : PendWrite) : State :=
  let s := upW bench (fun w => { w with lane := { w.lane with inflight := [p] } })
  { s with clock := 1, target := { n := s.w.id, k := 0, m := 0 } }

theorem witness_ResultsLand :
    ∀ p ∈ [landing true false 0, landing false false 0, landing false true 0],
      (landingState p).target = { n := (landingState p).w.id, k := 0, m := 0 } ∧ (landingState p).w.lane.inflight = [p] ∧
      p.dest = .v 5 ∧ (∀ kv ∈ p.data, kv.1 < 32) ∧ SMap.wf p.data = true ∧ p.due < (landingState p).clock := by
  decide +kernel
/-! Lane memory, queues, rays -/

/-- Lanes 0 and 31 active, v4:v5 of lane k at offset 0x100·k of vault 0, s4 at offset 0x2000. -/
def memState : State :=
  upR (withS (withV (withV bench 4 (fun k => BitVec.ofNat 32 (0x100 * k))) 5 (fun _ => 0xFFFE0000)) [(4, vaultVa 0x2000)])
    (fun g => { g with em := 0x80000001 })
def memX : LMem := { plainMem with size := .b64, vd := 10, base := .vec 4, off := 8 }
def memStore : LMem := { plainMem with size := .b64, va := 10, base := .vec 4, off := 8 }
def memPacked : LMem := { plainMem with size := .b32, vd := 10, base := .scal 4, off := 8 }
def memStoreP : LMem := { plainMem with size := .b32, va := 10, base := .scal 4, off := 8 }
def laneVa (k : Nat) : DWord := vaultVa (0x100 * k + 8)
def laneLoc (k : Nat) : Loc := .vault (2 ^ 64 + 0x100 * k + 8)
def packedVa (k : Nat) : DWord := if k = 0 then vaultVa 0x2008 else vaultVa 0x200C
def packedLoc (k : Nat) : Loc := if k = 0 then .vault (2 ^ 64 + 0x2008) else .vault (2 ^ 64 + 0x200C)

/-- Lanes 0 and 1 active with two addresses, in a context that has a codec page. -/
def twoAt (a b : DWord) : State :=
  let l (k : Nat) : DWord := if k = 0 then a else b
  upR (withV (withV (withCodec bench) 4 (fun k => BitVec.ofNat 32 (l k).toNat)) 5 (fun k => BitVec.ofNat 32 ((l k).toNat / 2 ^ 32)))
    (fun g => { g with em := 3 })
def twoVa (a b : DWord) (k : Nat) : DWord := (if k = 0 then a else b) + 8

theorem witness_LaneMemory_ready :
    ∀ i ∈ [Instr.vld memX, .vldro memX, .vldc memPacked, .vst memStore, .vstc memStoreP,
      .vatom { memX with va := 12, aop := 10 }, .vcas { memX with va := 12, vc := 14 }, .vpref { plainMem with size := .b8, base := .vec 4 }],
      LaneReady (issuing memState i) i :=
  laneReady_of_readyOn (by decide +kernel)

theorem witness_LaneMemory_plain :
    ScTurn memState true 3 ∧ CleanL1 memState memState.w.sys.core.toNat ∧ memX.order = .rlx ∧ memPacked.order = .rlx ∧
    (issuing memState (.vld memX)).w.lane.issue.act = none ∧ (issuing memState (.vld memX)).w.lane.issue.fpmode.getLsbD 1 = false ∧
    (∀ k ∈ [0, 31], homeEcc memState (laneLoc k) 8 = false ∧ homeEcc memState (packedLoc k) 4 = false) ∧
    active (issuing memState (.vld memX)).w (.vld memX) = 0x80000001 ∧
    (coreOf memState memState.w.sys.core.toNat).l1.length + 32 ≤ 4096 ∧
    active (issuing (upR bench (fun g => { g with em := 0 })) (.vld memX)).w (.vld memX) = 0 := by
  have h : scHere memState 3 = true ∧ scTicket memState.w true = none ∧ (partOf memState memState.w.part).scq = [] := by decide +kernel
  refine ⟨by simp [ScTurn, h], ?_⟩
  unfold CleanL1; decide +kernel

theorem witness_LaneMemory_apart :
    LocsApart 8 (laneLoc 0) (laneLoc 31) ∧ LocsApart 4 (packedLoc 0) (packedLoc 31) ∧
    LocsApart 8 (.vault (2 ^ 64 + 0x108)) (.mem 0x100048) ∧ LocsApart 8 (.mem 0x100048) (.mem 0x100050) ∧
    LocsApart 8 (.codec 1 0x400000 0 8) (.codec 1 0x400000 0 16) ∧ Apart (twoVa 0x40 0x48 0).toNat 8 (twoVa 0x40 0x48 1).toNat 8 := by
  simp [LocsApart, Apart, laneLoc, packedLoc, twoVa]

theorem witness_LaneLoads_addresses :
    LanesLie (issuing memState (.vld memX)) memX (Instr.vld memX = .vldc memX) 0x80000001 false laneVa laneLoc ∧
    LanesLie (issuing memState (.vldc memPacked)) memPacked (Instr.vldc memPacked = .vldc memPacked) 0x80000001 false packedVa packedLoc :=
  ⟨lanesLie_vec rfl nofun (by decide +kernel), lanesLie_packed rfl rfl (by decide +kernel)⟩

theorem witness_LaneStores_addresses :
    LanesLie (issuing memState (.vst memStore)) memStore (Instr.vst memStore = .vstc memStore) 0x80000001 true laneVa laneLoc ∧
    LanesLie (issuing memState (.vstc memStoreP)) memStoreP (Instr.vstc memStoreP = .vstc memStoreP) 0x80000001 true packedVa packedLoc :=
  ⟨lanesLie_vec rfl nofun (by decide +kernel), lanesLie_packed rfl rfl (by decide +kernel)⟩

theorem witness_LaneAtomics_addresses :
    LanesLie (issuing memState (.vatom { memX with va := 12, aop := 10 })) { memX with va := 12, aop := 10 } False 0x80000001 true
      laneVa laneLoc ∧
    LanesLie (issuing memState (.vcas { memX with va := 12, vc := 14 })) { memX with va := 12, vc := 14 } False 0x80000001 true
      laneVa laneLoc :=
  ⟨lanesLie_vec rfl id (by decide +kernel), lanesLie_vec rfl id (by decide +kernel)⟩

/-- A vault and an ordinary page; two bytes of an ordinary page; a codec page. -/
theorem witness_LaneMemory_pages :
    LanesLie (issuing (twoAt (vaultVa 0x100) 0x40) (.vld memX)) memX (Instr.vld memX = .vldc memX) 3 false (twoVa (vaultVa 0x100) 0x40)
      (fun k => if k = 0 then .vault (2 ^ 64 + 0x108) else .mem 0x100048) ∧
    LanesLie (issuing (twoAt 0x40 0x48) (.vst memStore)) memStore (Instr.vst memStore = .vstc memStore) 3 true (twoVa 0x40 0x48)
      (fun k => .mem (0x100048 + 8 * k)) ∧
    LanesLie (issuing (twoAt 0x200000 0x200008) (.vatom { memX with va := 12, aop := 10 })) { memX with va := 12, aop := 10 } False 3 true
      (twoVa 0x200000 0x200008) (fun k => .codec 1 0x400000 0 (8 + 8 * k)) :=
  ⟨lanesLie_vec rfl nofun (by decide +kernel), lanesLie_vec rfl nofun (by decide +kernel), lanesLie_vec rfl id (by decide +kernel)⟩

theorem witness_LaneMemory_pages_ready :
    let s := twoAt 0x200000 0x200008
    (∀ i ∈ [Instr.vld memX, .vst memStore, .vatom { memX with va := 12, aop := 10 }], LaneReady (issuing s i) i ∧
      active (issuing s i).w i = 3) ∧
    CleanL1 s s.w.sys.core.toNat ∧ (∀ ro va, LineWhole s s.w.sys.core.toNat s.w.ctx ro false va) ∧
    (∀ k ∈ [0, 1], homeEcc s (.codec 1 0x400000 0 (8 + 8 * k)) 8 = false ∧ homeEcc s (.mem (0x100048 + 8 * k)) 8 = false ∧
      f64NonFinite (laneDatum s.w .b64 10 k) = false) := by
  have h : (coreOf (twoAt 0x200000 0x200008) (twoAt 0x200000 0x200008).w.sys.core.toNat).l1 = [] := by decide +kernel
  refine ⟨fun i hi => ⟨laneReady_of_readyOn (by decide +kernel) i hi, ?_⟩, ?_, ?_, by decide +kernel⟩
  · revert i; decide +kernel
  · unfold CleanL1; rw [h]; exact fun _ hk => absurd hk List.not_mem_nil
  · unfold LineWhole; rw [h]; intro ro va l hl; exact absurd hl (by simp [SMap.get?])

/-- Two lanes of a wave bound to q3. -/
def twoLanes (n : Nat) : State := upR (withBound n) (fun g => { g with em := 3 })

theorem witness_LaneQueues :
    let s := twoLanes 2
    let c := qcwOf s 0 0 aHandle.qcw
    (∀ i ∈ [Instr.vqpush { plain with vd := 3, va := 8 }, .vqpop { plain with vd := 8, b := .queue 3 }], LaneReady (issuing s i) i) ∧
    QueueLaid s 0 0 aHandle.qcw ∧ QueueLaid (twoLanes 4) 0 0 aHandle.qcw ∧ CleanL1 s 0 ∧
    handleOf s.w (3#10).toNat = some aHandle ∧ aHandle.near s s.w.sys.core.toNat = true ∧ aHandle.pushOnly = false ∧
    aHandle.gen = c.gen ∧ aHandle.esize = c.esize ∧ c.count + (lanesOf 3).length ≤ c.depth ∧
    (lanesOf 3).length ≤ (queueElems s 0 0 aHandle.qcw).length ∧ (queueElems (twoLanes 0) 0 0 aHandle.qcw).length < (lanesOf 3).length ∧
    (qcwOf (twoLanes 4) 0 0 aHandle.qcw).depth < (qcwOf (twoLanes 4) 0 0 aHandle.qcw).count + (lanesOf 3).length := by
  refine ⟨laneReady_of_readyOn (by decide +kernel), queueLaid_two, queueLaid_full, ?_⟩
  unfold CleanL1; decide +kernel

/-- The same with a remote queue in q4, and a core whose push buffer is full. -/
def farLanes (n : Nat) : State :=
  let s := upW (twoLanes 2) (fun w => { w with handles := [(4, { aHandle with home := 1 })] })
  modCore s s.w.sys.core.toNat (fun c => { c with pushes := List.replicate n { aPush with wave := 9 } })

theorem witness_LaneQueues_remote :
    LaneReady (issuing (farLanes 62) (.vqpush { plain with vd := 4, va := 8 })) (.vqpush { plain with vd := 4, va := 8 }) ∧
    handleOf (farLanes 62).w (4#10).toNat = some { aHandle with home := 1 } ∧
    ({ aHandle with home := 1 } : Handle).near (farLanes 62) (farLanes 62).w.sys.core.toNat = false ∧
    (coreOf (farLanes 62) 0).pushes.length + (lanesOf 3).length ≤ 64 ∧ 64 ≤ (coreOf (farLanes 64) 0).pushes.length := by
  refine ⟨laneReady_of_readyOn (l := [.vqpush { plain with vd := 4, va := 8 }]) (by decide +kernel) _ (List.mem_singleton.mpr rfl), ?_⟩
  decide +kernel

/-- A wave of a launch with one node whose queue is q3's. -/
def aNode : Node := { desc := 0x40, qcw := allocVa 0x100, rsize := 4, last := none, pend := none, due := false }
def aKernel : KDesc :=
  { entry := 0x100, lbase := 0x200, sbase := 0x40, ephBase := 0, ephCnt := 0, vregs := 16, sregs := 16, acc := 0, accF64 := false,
    groups := 1, scratch := 0 }
def aLaunch : Launch :=
  { ctx := 0, part := 0, desc := 0x400, k := aKernel, n := 64, w := 1, coop := false, prio := 0, argb := 0x77, arg := 0, groups := [1], next := 0,
    live := 0, since := 0, reserved := false, task := none, cmd := none, alloc := none, needAlloc := false, nodes := [aNode],
    cancelled := false, cancels := [] }
def emitter : State :=
  upW { twoLanes 0 with launches := [(1, aLaunch)] } (fun w => { w with launch := 1 })

theorem witness_LaneQueues_emit :
    (∀ i ∈ [Instr.wemit { plain with va := 8 }], LaneReady (issuing emitter i) i) ∧
    (∀ k ∈ lanesOf 3, wordB emitter.w { plain with va := 8 } Pops.none k < (waveNodes emitter).length) ∧
    (coreOf emitter 0).pushes.length + (lanesOf 3).length ≤ 64 :=
  ⟨laneReady_of_readyOn (by decide +kernel), by decide +kernel⟩

/-- An open frame 0 with an accumulation buffer at 0x80, four pixels, and a spill area at 0x200. -/
def aFrameEnt : FrameEnt :=
  { addr := 0x1000, ctx := 0, d := [0x2000, 0x3000, 0x200, 0x80, 0x77, 0, 0x0000000400000010, 0, 0, 0, 0, 0, 0, 0, 0, 0],
    cmd := none, gate := false, rays := 0, dcap := 0, drop := 0, spilled := 0, spill := [], spillNext := 0, spillFull := false, pub := 0,
    uids := [] }
def heldRay : Ray := { words := [], loc := .held, since := 0, seq := 0, pub := 0, ctx := 0 }
def rayState (em : Word) (lane : Nat) (depth : Nat) : State :=
  let s := upP bench (fun p => { p with frames := [(0, aFrameEnt)], rays := [(5, heldRay)] })
  let e : EpLane := { slot := 5, frame := 0, depth := depth, reserved := none, cont := false }
  upW (upR s (fun g => { g with em := em })) (fun w => { w with ep := [(lane, e)], kind := .episode })

def spawnX : LArith := { plain with vd := 2, va := 32 }
def raccX : LArith := { plain with va := 40, c := .vec 10 }

theorem witness_RayInstructions_spawn :
    let s := rayState 0x80000000 0 0
    let deep := rayState 0x80000000 31 255
    let none_ := upP s (fun p => { p with p := 0 })
    let grid := upW (upR benchH (fun g => { g with em := 0x80000000 })) (fun w => { w with kind := .grid })
    (∀ t ∈ [s, deep, none_, grid], readyOn t (.rspawn spawnX) = true ∧ pushesOut t t.w.id = false ∧
      (issuing t (.rspawn spawnX)).w.lane.issue.act = none ∧
      active (issuing t (.rspawn spawnX)).w (.rspawn spawnX) = BitVec.twoPow 32 31) ∧
    s.w.kind = .episode ∧ SMap.get? s.w.ep 31 = none ∧
    SMap.get? (partOf s s.w.part).frames (rayOf s.w 32 31 0).frame = some aFrameEnt ∧
    (partOf s s.w.part).p ≠ 0 ∧ (partOf s s.w.part).spawns = [] ∧ takeSlot (partOf s s.w.part) s.w.engine = some 0 ∧
    (SMap.get? deep.w.ep 31).map (·.depth) = some 255 ∧ (partOf none_ none_.w.part).p = 0 ∧ grid.w.kind ≠ .episode ∧
    frameCount grid grid.w.part (rayOf grid.w 32 31 0).frame = 0 ∧ lanePushesOut grid grid.w.id = false ∧
    grid.w.sys.handler = false ∧ (ctxOf grid grid.w.ctx).handler ≠ 0 := by
  decide +kernel

theorem witness_RayInstructions_episode :
    let s := rayState 1 0 0
    let core := s.w.sys.core.toNat
    readyOn s (.rcont plain) = true ∧ readyOn s (.racc raccX) = true ∧ pushesOut s s.w.id = false ∧
    active (issuing s (.rcont plain)).w (.rcont plain) = BitVec.twoPow 32 0 ∧
    active (issuing s (.racc raccX)).w (.racc raccX) = BitVec.twoPow 32 0 ∧ (SMap.get? s.w.ep 0).map (·.slot) = some 5 ∧
    SMap.get? (partOf s s.w.part).rays 5 = some heldRay ∧ pixelOk s raccX 0 = true ∧ s.bad = [] ∧
    CleanL1 s core ∧ (accEntry s raccX 0).toNat % 4 = 0 ∧
    (∀ j < 4, locate s s.w.ctx s.w.part false true (accEntry s raccX 0 + dw (4 * j)) = .ok (.mem (0x100080 + 4 * j))) := by
  unfold CleanL1; decide +kernel

/-! Matrix instructions -/

/-- Records 0 (role A) and 1 (role B) held by the bench's wave; shape s12 = 2 by 2 by 4, scale s9 and row 0 of s11. -/
def mxRec (b : Bool) : Rec := { holder := some 1, task := none, roleB := b, gran := 1, bytes := [], relp := none }
def mxState : State :=
  withS { bench with engines := [(0, { Engine.zero with recs := [(0, mxRec false), (1, mxRec true), (5, mxRec false)] })] }
    [(12, 0x00080202), (21, 0x3F803F803F803F80)]
def mxMma (f : MFmt) (b : MSrc) : LMma := { stall := 0, m := 0, ra := 0, b := b, shape := 12, sbs := if f = .fp4 then 21 else 0, fmtA := f, fmtB := f }
def mxRw : LMrw := { stall := 0, pred := always, v := 20, sd := 0, m := 0, cnt := 7, col := 120, rblk := 3 }
def mxRecI : LRec := { stall := 0, pred := always, o := 0, v := 10, off := 11, cnt := 1, stride := 8 }
def mxEpi : LEpi := { stall := 0, pred := always, m := 0, va := 4, scale := 9, shape := 12, sfold := 0, sat := false, fold := false,
                      clr := false, relu := false, ofmt := .f32, rblk := 0 }

theorem witness_MatrixInstructions :
    (∀ i ∈ [Instr.mma (mxMma .f16 (.record 1)), .mma (mxMma .f16 (.slice 0)), .mma (mxMma .fp4 (.record 1)),
        .mmas (mxMma .f16 (.record 1)) 5, .mwr mxRw, .mzero 0 3, .osto mxRecI, .olod mxRecI, .mepi mxEpi, .mrd mxRw, .mwait 0],
      LaneReady (issuing mxState i) i) ∧
    settleRecords mxState mxState.w.engine = mxState ∧ (engineOf mxState mxState.w.engine).queue.length < 16 ∧
    heldIn mxState 0 (some false) = some (mxRec false) ∧ heldIn mxState 1 (some true) = some (mxRec true) ∧
    heldIn mxState 5 none = some (mxRec false) ∧
    (let shape := getS mxState.w 12
     shape.toNat % 256 = 2 ∧ shape.toNat / 256 % 256 = 2 ∧ shape.toNat / 2 ^ 16 % 2 ^ 24 = 8 ∧ 8 % mfStep .f16 = 0 ∧ 8 % mfStep .fp4 = 0 ∧
     2 * mfBytes .f16 8 ≤ (mxRec false).size ∧ 2 * mfBytes .fp4 8 ≤ (mxRec true).size) ∧
    bandsOk (getS mxState.w 21) 2 2 = true ∧ (getS mxState.w 0).toNat + mfBytes .f16 8 ≤ 0x10000 ∧
    active (issuing mxState (.mwr mxRw)).w (.mwr mxRw) ≠ 0 ∧ (getS mxState.w 11).toNat % 4 = 0 ∧
    (∀ l < 32, (getS mxState.w 11).toNat + l * 8 + 4 * (1 + 1) ≤ (mxRec false).size) ∧
    (engineOf mxState 0).run = none ∧ (engineOf mxState 0).susp = [] ∧ mxState.w.accF64 = false ∧
    matrixOps mxState mxState.w.id = [] ∧ mxState.w.pend = [] :=
  ⟨laneReady_of_readyOn (by decide +kernel), by decide +kernel⟩

/-- An operation of the bench's wave in the engine's queue. -/
def mxOp (k : MKind) : MOp :=
  { uid := 50, num := 0, wave := 1, ctx := 0, part := 0, m := 0, tiles := [0], f64 := false, elpc := 0, acq := 0, race := false, kind := k }

/-- An MMA under way, whose first element waits for the subnormal assist. -/
def assisted : MRun :=
  { op := mxOp (.mma 0 (some 1) 0 (getS mxState.w 12) 0 .f16 .f16 false), steps := [0, 1], done := 0, assist := [0],
    parked := none, failed := [] }

theorem witness_MatrixInstructions_busy :
    let s := { mxState with engines := [(0, { Engine.zero with queue := [mxOp .mzero] })] }
    let full := { mxState with engines := [(0, { Engine.zero with queue := List.replicate 16 (mxOp .mzero) })] }
    let asks := { mxState with engines := [(0, { Engine.zero with run := some assisted })] }
    let caught := upW (withS benchH []) (fun w => { w with pend := [(0x0C, { faddr := 0, fagent := 0, lane := true, elpc := 0, mx := true })] })
    readyOn s (.mwait 0) = true ∧ matrixOps s s.w.id ≠ [] ∧ readyOn full (.mzero 0 3) = true ∧
    settleRecords full 0 = full ∧ 16 ≤ (engineOf full 0).queue.length ∧ readyOn asks (.mrd mxRw) = true ∧
    active (issuing asks (.mrd mxRw)).w (.mrd mxRw) ≠ 0 ∧ (engineOf asks 0).run = some assisted ∧ assisted.assist ≠ [] ∧
    readyOn caught (.mwait 0) = true ∧ matrixOps caught caught.w.id = [] ∧ (caught.w.pend.find? (fun cp => cp.2.mx)).isSome = true ∧
    caught.w.sys.handler = false ∧ lanePushesOut caught caught.w.id = false ∧ (ctxOf caught caught.w.ctx).handler ≠ 0 := by
  decide +kernel

/-! Commands. Context 0 is partition 0's, the firmware has verified -/

/-- Memory of context 0: a kernel descriptor at 0x400, a node table at 0x800, a frame descriptor at 0x1000. -/
def kernelQuads : List DWord := [0x100, 0x200, 0x40, 0, 0, 0x80401000, 0, 0]
def nodeQuads : List DWord := [0x40, allocVa 0x100, 4, 0]
def frameQuads : List DWord := [0, 0, 0x200, 0x80, 0x77, 0, 0x0000000400000010, 0x3F80000000000000, 0, 0, 0, 0, 0, 0, 0, 0]
def cmdS : State :=
  let s := withQueue 0
  let m := memPut (memPut s.mem 0x100400 (bytesOfQuads kernelQuads)) 0x100800 (bytesOfQuads nodeQuads)
  { s with fw := { s.fw with booted := true }, mem := memPut m 0x101000 (bytesOfQuads frameQuads) }

def hdr (n : BitVec 8) : Hdr := { r1 := 0, ctx := 0, r0 := 0, len := n, seq := 7 }

theorem witness_Commanded : Commanded cmdS (hdr 2) ∧ Commanded { State.reset with fw := cmdS.fw } { hdr 2 with ctx := 0xFFFF } := by
  unfold Commanded; decide +kernel

/-- A map whose keys from a number on are all taken has no free one among them. -/
theorem freeFrom_none {α : Type} (m : SMap α) : ∀ (fuel lo : Nat), (∀ k, lo ≤ k → k < lo + fuel → (SMap.get? m k).isSome = true) →
    SMap.freeFrom m lo fuel = none := by
  intro fuel
  induction fuel with
  | zero => intro lo _; rfl
  | succ n ih =>
    intro lo h
    rw [SMap.freeFrom, if_pos (h lo (le_refl lo) (by omega)), ih (lo + 1) (fun k h1 h2 => h k (by omega) (by omega))]

theorem get?_all_isSome {α : Type} (t : α) (l : List Nat) (k : Nat) (h : k ∈ l) :
    (SMap.get? (l.map (fun i => (i, t))) k).isSome = true := by
  induction l with
  | nil => cases h
  | cons a l ih =>
    simp only [List.map_cons, SMap.get?]
    split
    · rfl
    · next hne => exact ih ((List.mem_cons.mp h).resolve_left (fun e => hne e.symm))

/-- A task table with no Free entry. -/
def fullTable : SMap Task := (List.range 65536).map (fun i => (i, aTask .waiting (aRecord 0)))

theorem tasks_put (t : SMap Task) : (partOf (upP cmdS (fun p => { p with tasks := t })) 0).tasks = t := rfl

theorem witness_CommandsApplied_full : freeEntry (partOf (upP cmdS (fun p => { p with tasks := fullTable })) 0) = none := by
  rw [freeEntry, tasks_put]
  exact freeFrom_none _ _ _ (fun k _ h => get?_all_isSome _ _ _ (List.mem_range.mpr (by simpa [Config.taskEntries] using h)))

theorem witness_CommandsApplied :
    let t := { aTask .waiting (aRecord 0) with count := 1 }
    let s := upP cmdS (fun p => { p with tasks := [(7, t)] })
    bits (0xFFFFFFC0#64) 63 32 = 0 ∧ bits (0xFFFFFFC0#64) 31 0 % 64 = 0 ∧
    (bits (600#64) 63 16 = 0 ∧ (600#64).toNat % 10 = 0 ∧ 600 ≤ (600#64).toNat ∧ (600#64).toNat ≤ 1400 ∧ s.power.card = false) ∧
    (bits (1400#64) 63 16 = 0 ∧ (1400#64).toNat % 10 = 0 ∧ (1400#64).toNat ≤ 1400) ∧
    bits (0x10000#64) 63 16 ≠ 0 ∧ (605#64).toNat % 10 ≠ 0 ∧ (590#64).toNat < 600 ∧ 1400 < (1410#64).toNat ∧
    bits (7#64) 63 16 = 0 ∧ SMap.get? (partOf s 0).tasks (7#64).toNat = some t ∧ t.st = .waiting ∧ 0 < t.count ∧ t.jobs = 0 ∧
    TaskRec.invalid (aRecord 0) = false ∧ freeEntry (partOf s 0) = some 0 ∧
    bits (0x1000000001#64) 31 1 = 0 ∧ (0x100000#64).toNat + bits (0x1000000001#64) 63 32 ≤ pageOf s 0 + 20 ∧
    bits (0#64) 63 16 = 0 ∧ bits (0xFFFFFFFF#64) 63 32 = 0 ∧ 0 ∈ (partOf s 0).eps := by
  decide +kernel

theorem witness_CommandsBegin_launch :
    let u := passed cmdS (hdr 3) 0x0002
    let v := passed cmdS (hdr 4) 0x0003
    bits (64#64) 63 55 = 0 ∧ launchGroups u 0 0 (bits (64#64) 41 32 + 1) (bits (64#64) 54 46) 0 = some [1] ∧
    launchGroups v 0 0 (bits (64#64) 41 32 + 1) (bits (64#64) 54 46) 0 = some [1] ∧
    sizeBad (bits (64#64) 31 0) (bits (64#64) 41 32 + 1) ((64#64).getLsbD 42) = false ∧
    bits (1#64) 63 7 = 0 ∧ 1 ≤ bits (1#64) 6 0 ∧ bits (64#64) 6 0 ≤ 64 ∧ readNodes v 0 0 0x800 (bits (1#64) 6 0) = some [aNode] := by
  decide +kernel

theorem witness_CommandsBegin_others :
    let c : Cmd := { seq := 9, opc := 2, off := 0, fence := false, done := false, status := 0, value := 0 }
    let x := { aLaunch with live := 1, cmd := some 5 }
    let s := { cmdS with launches := [(1, x)], contexts := SMap.put cmdS.contexts 0 { ctxOf cmdS 0 with cmds := [(5, c)], nextCmd := 6 } }
    let full := upP cmdS (fun p => { p with frames := (List.range 256).map (fun i => (i + 1, aFrameEnt)) })
    let j : Job := { uid := 0, value := 0, tmpl := 0, ctx := 0, part := 0, wave := none, task := none, cmd := none, lane := false, elpc := 0,
                     acq := 0, race := false, begun := false, fields := [], invalid := false, fetched := false, parked := none, failed := [], allocs := [] }
    launchOfSeq (passed cmdS (hdr 2) 6) 0 9 = none ∧ launchOfSeq (passed s (hdr 2) 6) 0 9 = some 1 ∧
    SMap.get? s.launches 1 = some x ∧ x.live ≠ 0 ∧
    frameDesc cmdS 0 0x1000 = some frameQuads ∧ (partOf cmdS 0).frames.length < 256 ∧
    frameDesc full 0 0x1000 = some frameQuads ∧ 256 ≤ (partOf full 0).frames.length ∧
    (0xF00#64).toNat < 0x40000 ∧ apertureOk cmdS 0 0xF00 = true ∧ apRoom cmdS 0 0xF00 = true ∧
    apRoom { cmdS with channels := [(15, List.replicate 16 j)] } 0 0xF00 = false := by
  decide +kernel

def codecS : State := withCodec cmdS
def codecLine (dirty : Bool) : CLine := { data := 5, dirty := dirty, base := 0x400000, budget := 0 }

theorem witness_MappingAndCodecPages :
    let u := allFlushed (passed cmdS (hdr 3) 0x0008)
    let c : Cmd := { seq := 9, opc := 8, off := 0, fence := false, done := false, status := 0, value := 0 }
    let s := { cmdS with contexts := SMap.put cmdS.contexts 0 { ctxOf cmdS 0 with cmds := [(3, c)], migrations := [(0, 0x300000, 3)] } }
    leavesUnder u (fun _ => { base := some 0x10000, view := u.mem }) ≤ 4096 ∧
    leavesUnder u (fun c => (tableOf s c).named 0x13008 0x200007) ≤ 4096 ∧ keptLeaves u 0 = [] ∧ keptLeaves s 0 = [] ∧ migratable cmdS 0 0 0x300000 = some (0x100007, false) ∧
    s.target.n = 0 ∧ (ctxOf s 0).migrations = [(0, 0x300000, 3)] ∧ migratable s 0 0 0x300000 = some (0x100007, false) ∧
    entryKind 0x100007 ≠ 1 ∧ SMap.get? (ctxOf s 0).cmds 3 = some c ∧ c.done = false ∧ Memory.wf s.mem = true := by
  decide +kernel

theorem witness_MappingAndCodecPages_codec :
    codecPages codecS 0 0x200000 1 = some [1] ∧ codecPage codecS 0 0x200000 = some (1, 0) ∧
    (0x200008#64).toNat % 8 = 0 ∧ locate codecS 0 0 true true 0x200008 = .ok (.codec 1 0x400000 0 8) ∧
    (codecFill codecS 1 0x400000 0 (8 / 64)).isSome = true ∧ f64NonFinite (0x3FF0000000000000#64).toNat = false ∧
    SMap.get? { codecS with clines := [(0, codecLine true)] }.clines codecS.target.n = some (codecLine true) ∧
    (codecLine false).dirty = false := by
  decide +kernel

/-- The bytes from an address lie one after another, decided byte by byte. -/
theorem witness_ReportsAndBlink_room : PlainAt cmdS 0 0 false true 0x4000 544 0x104000 := by
  unfold PlainAt; decide +kernel

theorem witness_ReportsAndBlink :
    let b := { (partOf cmdS 0).blink with ctl := 0x18, snap := some { words := [1, 2] } }
    let s := upP cmdS (fun p => { p with blink := b })
    let q := upP cmdS (fun p => { p with blink := { b with holdUntil := some 0 } })
    codecPage codecS 0 0x200000 = some (1, 0) ∧
    SMap.get? { codecS with ccounts := [(1, { enc := 1, lossy := 2, clip := 3, flush := 4 })] }.ccounts 1 =
      some { enc := 1, lossy := 2, clip := 3, flush := 4 } ∧
    (partOf cmdS 0).clusters[(0#64).toNat]? = some 0 ∧ (partOf s 0).blink.snap = some { words := [1, 2] } ∧ 8 * 2 ≤ (16#64).toNat ∧
    bits (0x00000000FFF0001B#64) 19 5 = 0 ∧ bits (0x00000000FFF0001B#64) 63 48 = 0 ∧ (0x00000000FFF0001B#64).getLsbD 2 = false ∧
    (SMap.get? s.parts 0).isSome = true ∧ (partOf s 0).blink.ctl.getLsbD 4 = true ∧ (partOf s 0).blink.ctl.getLsbD 3 = true ∧
    (partOf s 0).blink.holdUntil = none ∧ SMap.get? (partOf s 0).blink.tags 3 = none ∧
    (partOf s 0).blink.copying ≤ s.clock ∧
    q.target.n = 0 ∧ (partOf q 0).blink.holdUntil = some 0 ∧ 0 ≤ q.clock ∧
    s.clock < (partOf (upP cmdS (fun p => { p with blink := { b with copying := s.clock + 1 } })) 0).blink.copying := by
  decide +kernel

def anImage : Image :=
  { ctx := 0, pages := [], clusters := 1, p := 4, t := 4, waves := [], tasks := [], deques := [], inc := [], incPub := [], tickets := 0, pubs := 0,
    groups := [], allocs := [], frames := [], rays := [], bins := [], forms := [], spawns := [], ops := [], runs := [], lasts := [],
    recs := [], accs := [], kicks := [] }
def aPark : Park := { id := 4, access := 1, faddr := 0x20000, lane := none, st := .await }
def outS : State := { cmdS with contexts := SMap.put cmdS.contexts 0 { ctxOf cmdS 0 with resident := false } }

theorem witness_AnswersSwitchesAndSaves :
    let s := upW { cmdS with contexts := SMap.put cmdS.contexts 0 { ctxOf cmdS 0 with awaits := [(4, 0x20000)] } }
      (fun w => { w with park := some aPark, status := .parked })
    let i := { outS with images := [(0x2000, anImage)] }
    bits (0#64) 63 1 = 0 ∧ bits (1#64) 63 1 = 0 ∧ SMap.get? (ctxOf s 0).awaits (4#64).toNat = some 0x20000 ∧ s.w.ctx = 0 ∧
    s.w.park = some aPark ∧ aPark.id = (4#64).toNat ∧ aPark.st = .await ∧ SMap.get? (ctxOf cmdS 0).awaits 4 = none ∧
    0 ∈ (partOf cmdS 0).eps ∧ (ctxOf cmdS 0).switching = none ∧ (ctxOf cmdS 0).restoring = none ∧ (ctxOf cmdS 0).resident = true ∧
    cmdS.w.ctx = 0 ∧ cmdS.w.status ≠ .retired ∧ (ctxOf outS 0).resident = false ∧
    SMap.get? i.images (0x2000#64).toNat = some anImage ∧ anImage.ctx = 0 ∧ anImage.clusters = (partOf i 0).clusters.length ∧
    anImage.p = (partOf i 0).p ∧ anImage.t = (partOf i 0).t := by
  decide +kernel

/-- Context 0 with thirteen more pages of 2 MiB, for an image area at offset 2 MiB. -/
def roomS : State :=
  let v := memPut (tableOf cmdS 0).view 0x12008 (bytesOfQuads ((List.range 13).map (fun k => dw (0x400007 + 0x200000 * k))))
  { cmdS with contexts := SMap.put cmdS.contexts 0 { ctxOf cmdS 0 with tables := [(0, { tableOf cmdS 0 with view := v })] } }

/-- An area holds `n` bytes when its pages are the context's to write; so one that holds more bytes holds fewer. -/
theorem areaPages_isSome {s : State} {ctx : Nat} {area : DWord} {n m : Nat} (h : n ≤ m)
    (hm : ∀ k ≤ (area.toNat + m - 1) / 2 ^ 16 - area.toNat / 2 ^ 16, ∃ key,
      locate s ctx (ctxOf s ctx).part false true (dw (2 ^ 16 * (area.toNat / 2 ^ 16 + k))) = .ok (.mem key)) :
    (areaPages s ctx area n).isSome = true := by
  have hd : (area.toNat + n - 1) / 2 ^ 16 ≤ (area.toNat + m - 1) / 2 ^ 16 := Nat.div_le_div_right (by omega)
  have hl : ∀ k ∈ List.range ((area.toNat + n - 1) / 2 ^ 16 - area.toNat / 2 ^ 16 + 1), ∃ key,
      locate s ctx (ctxOf s ctx).part false true (dw (2 ^ 16 * (area.toNat / 2 ^ 16 + k))) = .ok (.mem key) :=
    fun k hk => hm k (by have := List.mem_range.mp hk; omega)
  rw [areaPages]
  generalize List.range ((area.toNat + n - 1) / 2 ^ 16 - area.toNat / 2 ^ 16 + 1) = l at hl ⊢
  induction l with
  | nil => rfl
  | cons a l ih =>
    obtain ⟨key, hk⟩ := hl a List.mem_cons_self
    have := ih (fun k hk => hl k (List.mem_cons_of_mem _ hk))
    obtain ⟨x, hx⟩ := Option.isSome_iff_exists.mp this
    rw [List.foldr_cons, hx, hk]; rfl

theorem imageSize_room : imageSize (passed roomS (hdr 2) 0x0011) 0 0 ≤ 0x1801000 := by
  have h : imageData (passed roomS (hdr 2) 0x0011) 0 = 0x801000 ∧
    (partOf (passed roomS (hdr 2) 0x0011) (ctxOf (passed roomS (hdr 2) 0x0011) 0).part).clusters.length = 1 := by decide +kernel
  rw [imageSize, h.1, h.2]; have := (Config.imageRest 0).isLt; omega

theorem witness_AnswersSwitchesAndSaves_switch :
    (areaPages (passed roomS (hdr 2) 0x0011) 0 0x200000 (imageSize (passed roomS (hdr 2) 0x0011) 0 0)).isSome = true ∧
    roomS.time = 0 ∧ (∀ n < 2, areaPages (passed cmdS (hdr 2) 0x0011) 0 0x200000 (2 ^ 16 * n) = none) ∧
    (ctxOf roomS 0).resident = true ∧ 0 ∈ (partOf roomS 0).eps ∧ (ctxOf roomS 0).switching = none ∧ (ctxOf roomS 0).restoring = none := by
  have h : ∀ k < 402, locate (passed roomS (hdr 2) 0x0011) 0 (ctxOf (passed roomS (hdr 2) 0x0011) 0).part false true
      (dw (2 ^ 16 * ((0x200000#64).toNat / 2 ^ 16 + k))) = .ok (.mem (0x400000 + 2 ^ 16 * k)) := by decide +kernel
  refine ⟨areaPages_isSome imageSize_room (fun k hk => ⟨_, h k ?_⟩), by decide +kernel⟩
  exact Nat.lt_succ_of_le (Nat.le_trans hk (by decide))

/-- A wave asked to be saved, with one entry of its Ephemeris table at 0x3000: its SPC, live s1. -/
def asked : State :=
  upW { cmdS with mem := memPutNat cmdS.mem 0x103000 9 (2 ^ 65), target := { n := cmdS.w.id, k := 0, m := 0 } }
    (fun w => { w with preq := true, ephBase := 0x3000, ephCnt := 1 })

theorem witness_AnswersSwitchesAndSaves_saves :
    let s := { upW asked (fun w => { w with ephCnt := 0 }) with time := 100 * Config.timerUnits }
    waveOf asked asked.target.n = some asked.w ∧ asked.w.id = asked.target.n ∧ asked.w.runningOn = true ∧
    settledWave asked asked.w = true ∧ listedPoint asked asked.w = some (2 ^ 65) ∧
    s.target.n = s.w.id ∧ s.w.runningOn = true ∧ boundPassed s s.w = true ∧ pushesOut s s.w.id = false ∧
    barDone asked asked.w = false ∧ barDone s s.w = false ∧ firingOut s s.w = false ∧
    listedPoint s s.w = none := by
  decide +kernel

theorem witness_PartitionsBootAndPower :
    let s := { State.reset with fw := cmdS.fw }
    let h := { hdr 3 with ctx := 0xFFFF }
    let r := PartReq.ofWords 1 2 0x144
    bits (1#64) 63 4 = 0 ∧ bits (0x144#64) 63 14 = 0 ∧ (freeEndpoints (passed s h 0x0015) r.part r.n).isSome = true ∧
    partOk (passed s h 0x0015) r = true ∧ r.n = 1 ∧ r.clusters = [1] ∧ State.reset.fw.booted = false ∧
    ({ State.reset.fw with recovery := true, retries := 2 } : Firmware).retries < 3 ∧
    State.reset.power.cap < 1401 ∧ 400 < State.reset.power.mhz ∧
    ({ State.reset.power with mhz := 400, hot := 9 } : Power).mhz ≤ 400 ∧ State.reset.power.posted = false ∧ 1330 ≤ State.reset.power.cap := by
  decide +kernel

/-- A ring of 4 KiB for context 0, its FENCE packet parsed next; and one whose packet no opcode names. -/
def ringS : State := State.reset.withFetchWord 128 0x0000000000000007000000000001000A
def badS : State := placePacket State.reset [0x00000000000100FF, 7]
def doneCmd (fence done : Bool) : Cmd := { seq := 7, opc := 0xA, off := 0, fence := fence, done := done, status := 0, value := 0 }
def doneS : State :=
  { ringS with contexts := SMap.put ringS.contexts 0 { ctxOf ringS 0 with cmds := [(0, doneCmd false true)], nextCmd := 1, doneQ := [0] } }
def fenceS : State :=
  { cmdS with contexts := SMap.put cmdS.contexts 0 { ctxOf cmdS 0 with cmds := [(0, doneCmd true false)], nextCmd := 1 } }

theorem witness_PortsAndCompletions :
    let c := ctxOf ringS 0
    let tk : Ticket := { n := 0, wave := some 1, lane := false, req := none }
    let rr : RemoteReq := { die := 3, ctx := 0, va := 0x40, size := .b64, kind := .load, sc := true }
    let w := upW (upP cmdS (fun p => { p with scq := [tk] })) (fun w => { w with status := .waiting })
    let q := upP cmdS (fun p => { p with scq := [{ n := 0, wave := none, lane := false, req := some rr }] })
    SMap.get? ringS.contexts (0#16).toNat = some c ∧ c.halted = false ∧ bits (0x20#64) 63 32 = 0 ∧ descOk ringS 0 = true ∧
    tailAhead ringS 0 (bits (0x20#64) 31 0) = true ∧ bits (0x100000000#64) 63 32 ≠ 0 ∧ descOk cmdS 0 = false ∧
    nextTicket (partOf w w.target.n) = some tk ∧ tk.req = none ∧ tk.wave = some w.w.id ∧ w.w.status = .waiting ∧
    (nextTicket (partOf q q.target.n)).bind (·.req) = some rr ∧
    (let r : Route := { die := 1, chip := 1, addr := 0x77, flow := 3, ends := [(0, 0x78), (1, 0x79)] }
     ([r, { r with die := 2, chip := 5 }].map (·.die)).Nodup ∧ (r.ends.map (·.1)).Nodup) ∧
    badS.target.n = 0 ∧ ringNext badS 0 = .bad 1 ∧ tailAhead ringS 0 0 = false ∧
    (let o := { upW cmdS (fun w => { w with pod := some false, status := .waiting }) with target := { n := 0, k := cmdS.w.id, m := 0 } }
     o.target.k = o.w.id ∧ o.w.id ≠ 0 ∧ o.w.pod = some false ∧ o.w.status = .waiting ∧ o.target.m = 0 ∧ w.target.k = 0 ∧ q.target.k = 0) ∧
    (let o := { upW cmdS (fun w => { w with lane := { w.lane with pod := some false }, status := .waiting }) with
        target := { n := 0, k := cmdS.w.id, m := 1 } }
     o.target.k = o.w.id ∧ o.target.m ≠ 0 ∧ o.w.lane.pod = some false ∧ o.w.status = .waiting) := by
  decide +kernel

theorem witness_PortsAndCompletions_access :
    let r : RemoteReq :=
      { die := 3, ctx := 0, va := 0x000E000001000100, size := .b64, kind := .load, sc := false, push := some (1, [1, 2, 3, 4]) }
    let s := withBound 2
    QueueLaid s (ownerOf s 0 r.va 0) 0 r.va ∧ r.push = some ((qcwOf s 0 0 r.va).gen, [1, 2, 3, 4]) ∧ ownerOf s 0 r.va 0 = 0 ∧
    vaSpace r.va = 0xE ∧ vaDie r.va = s.dieid.toNat ∧ (qcwOf s 0 0 r.va).count < (qcwOf s 0 0 r.va).depth ∧
    (SMap.get? cmdS.contexts 0).isSome = true ∧ vaSpace 0x48 ≤ 1 ∧ vaDie 0x48 = cmdS.dieid.toNat ∧ cmdS.bad = [] ∧
    (∀ i < 8, locate cmdS 0 0 false false (0x48 + dw i) = .ok (.mem (0x100048 + i)) ∧
      locate cmdS 0 0 false true (0x48 + dw i) = .ok (.mem (0x100048 + i))) ∧
    (5#5).toNat ≤ 12 ∧ (5#5).toNat ∉ [1, 2, 11] ∧ (0x1234#64).toNat < 2 ^ (8 * MSize.b64.bytes) := by
  refine ⟨queueLaid_of (c := Qcw.ofQuads (qcwQuads 2)) (by decide +kernel) (by decide +kernel) (by decide +kernel) (by decide +kernel), ?_⟩
  decide +kernel

theorem witness_PortsAndCompletions_completion :
    let me := doneS.target.n
    let slot := cbase doneS me + 32 * (ctail doneS me % 2 ^ lcsize doneS me)
    (∀ kc ∈ doneS.contexts, kc.2.switching = none ∧ kc.2.restoring = none) ∧ (ctxOf doneS me).doneQ = [0] ∧
    SMap.get? (ctxOf doneS me).cmds 0 = some (doneCmd false true) ∧ (∀ nc ∈ (ctxOf doneS me).cmds, nc.2.fence = false) ∧
    completionRoom doneS me = true ∧ slot + 32 ≤ pageOf doneS me + 24 ∧
    (∀ kc ∈ fenceS.contexts, kc.2.switching = none ∧ kc.2.restoring = none) ∧ fenceS.target.n = 0 ∧
    SMap.get? (ctxOf fenceS 0).cmds 0 = some (doneCmd true false) ∧ (doneCmd true false).fence = true ∧
    completionRoom fenceS 0 = false ∧ (∀ nc ∈ (ctxOf fenceS 0).cmds, nc.1 < 0 → nc.2.done = true) := by
  decide +kernel

/-! Device steps -/

/-- The clock moved on, and the target of a device step. -/
def atClock (s : State) (c : Nat) : State := { s with clock := c }
def aimed (s : State) (n k : Nat) : State := { s with target := { n := n, k := k, m := 0 } }

/-- Core 1 of the bench, idle, with a line in its level 1; as it is and gated. -/
def aLine : Line := { data := 0, valid := BitVec.allOnes 64, dirty := 0, ro := none, filler := 0, wave := 1 }
def coreS (g : Gate) (clock : Nat) : State :=
  aimed (atClock { cmdS with cores := [(1, { Core.zero with gate := g, l1 := [(3, aLine)], finder := 0x1234 })] } clock) 1 0

/-- A record of a task of kernel 0x400, and the task in entry 7, in some state. -/
def taskRec : List DWord := [0x400, 0, 0, 0, 0, 0x7FFFFFFF, 0, 0]
def tasksS (st : TState) : State :=
  upP cmdS (fun p => { p with tasks := [(7, aTask st taskRec)], deques := if st = .dealt then [(1, [7])] else [] })

theorem witness_SchedulersGatesAndSweeps :
    let s := coreS .on 70000
    (atClock bench 512).clock % 256 = 0 ∧ bench.decayed < (atClock bench 512).clock ∧ bench.w.placed = true ∧
    (let b := { (atClock bench 5000) with target := { n := bench.w.id, k := 0, m := 0 } }
     b.target.n = b.w.id ∧ b.w.lastIssue + 2048 ≤ b.clock ∧ b.w.yieldEnd ≤ b.clock) ∧
    s.target.n = 1 ∧ gateIdle s 1 = true ∧ (coreOf s 1).gate = .on ∧ (coreOf s 1).idleSince + 65536 ≤ s.clock ∧
    SMap.wf (coreOf s 1).l1 = true ∧
    gateIdle (coreS .on 9) 1 = true ∧ (coreS .on 9).clock < (coreOf (coreS .on 9) 1).idleSince + 65536 ∧
    gateIdle (coreS .stage1 9) 1 = true ∧ (coreOf (coreS .stage1 9) 1).gate = .stage1 ∧
    gateIdle (coreS .entry 9) 1 = true ∧ (coreOf (coreS .entry 9) 1).gate = .entry ∧ (coreOf (coreS .entry 9) 1).powerAt < (coreS .entry 9).clock ∧
    (let o (g : Gate) := upP (coreS g 9) (fun p => { p with tasks := [(7, aTask .dealt taskRec)], deques := [(1, [7])] })
     (bestOffer (o .off) 1).isSome = true ∧ (coreOf (o .off) 1).gate = .off ∧
     (bestOffer (o .entry) 1).isSome = true ∧ (coreOf (o .entry) 1).gate = .entry) ∧
    (coreOf (coreS .waking 9) 1).gate = .waking ∧ (coreOf (coreS .waking 9) 1).powerAt ≤ (coreS .waking 9).clock ∧
    partAt s 1 = some 0 ∧ finderIdle s 0 1 = true ∧ (coreOf s 1).probe = none ∧ (coreOf s 1).lastProbe + 64 ≤ s.clock ∧
    (coresOf (partOf s 0)).Nodup ∧ s.target.m < 8 ∧ s.target.k = 0 ∧ (aimed s 0 3).target.k - 1 ∈ coresOf (partOf s 0) := by
  decide +kernel

theorem witness_SchedulersGatesAndSweeps_sweep :
    let s (r : List DWord) := aimed (upP cmdS (fun p =>
      { p with tasks := [(0, aTask .waiting r)], sweepLeft := 65536, incOrrery := [(0, { ty := false, tag := 0, value := 0 })] })) 0 0
    (∀ r ∈ [boundRecord, taskRec], let p := partOf (s r) 0
      p.sweepLeft ≠ 0 ∧ p.swept ≤ (s r).clock ∧ SMap.get? p.tasks p.sweepPos = some (aTask .waiting r) ∧ (aTask .waiting r).jobs = 0) ∧
    (aTask .waiting boundRecord).prunable (incOrreryOf (partOf (s boundRecord) 0) (TaskRec.inc boundRecord)) = true ∧
    (aTask .waiting taskRec).prunable (incOrreryOf (partOf (s taskRec) 0) (TaskRec.inc taskRec)) = false := by
  decide +kernel

/-- Launch 1 standing in partition 0; kernel 0x440 is kernel 0x400 with 64 bytes of scratchpad, and 0x480 no kernel. -/
def launchS (x : Launch) : State :=
  let q := kernelQuads.set 5 (0x80401000 + 64 * 2 ^ 40)
  aimed { cmdS with mem := memPut cmdS.mem 0x100440 (bytesOfQuads q), launches := [(1, x)] } 1 0
def scratchLaunch : Launch := { aLaunch with desc := 0x440, k := KDesc.ofQuads [], argb := 0x2000 }

theorem witness_PlacementAndOrrery_groups :
    let s := launchS scratchLaunch
    let t := launchS aLaunch
    let v := launchS { aLaunch with desc := 0x480 }
    let c := { aLaunch with coop := true }
    let y := { scratchLaunch with k := { aKernel with scratch := 64 }, needAlloc := true }
    (∀ u ∈ [s, t, v], (headLaunch u 0 false).map (·.1) = some 1) ∧
    scratchLaunch.read s = .ok y ∧ (allocScratch s 0 0 64 0x2000).isSome = true ∧
    { aLaunch with desc := 0x480 }.read v = .error 0x07 ∧
    aLaunch.read t = .ok aLaunch ∧ launchCores t 1 aLaunch = some [0] ∧
    (∀ x ∈ [0], (bestOffer t x).map (fun o => o.2.what) = some (.group 1) ∧ powered t x = true) ∧
    ((coreLists (wakeAll t [0]).1 (partOf t 0) aKernel false).findSome? (fun cs =>
      placeAll cs aKernel (wakeAll t [0]).1 (aLaunch.group.2.map (gridSpec (launchAcq t aLaunch) 1 aLaunch)))).isSome = true ∧
    SMap.get? (atClock (launchS c) 70000).launches 1 = some c ∧ c.waits = true ∧ c.since + 65536 ≤ 70000 := by
  decide +kernel

theorem witness_PlacementAndOrrery_tasks :
    let s := aimed (tasksS .dealt) 1 0
    let o : Offer := { prio := 0, since := 0, rank := 2, what := .task 7 }
    let a := aimed (tasksS .admitting) 0 0
    let r := aimed (tasksS .ready) 0 0
    let g := [0x400, 0, 0, 0, dw (64 + 2 * 2 ^ 32), 0, dw (3 * 2 ^ 55), 0]
    let q := aimed (upP cmdS (fun p => { p with tasks := [(7, aTask .ready g)] })) 0 0
    let two := SMap.put [(7, aTask .dealt taskRec)] 8 (aTask .dealt taskRec)
    let pr := { upP cmdS (fun p => { p with tasks := two, deques := [(1, [7, 8])] }) with
      cores := [(2, { Core.zero with probe := some 1 })], clock := 5, target := { n := 2, k := 0, m := 0 } }
    let range := { aTask .running (aRecord 1) with cur := 3, hi := 9 }
    let sp := { withTask bench range with cores := [(2, { Core.zero with probe := some 0 })], target := { n := 2, k := 0, m := 0 } }
    bestOffer s 1 = some (0, o) ∧ powered s 1 = true ∧ SMap.get? (partOf s 0).tasks 7 = some (aTask .dealt taskRec) ∧
    (aTask .dealt taskRec).prunable (incOrreryOf (partOf s 0) (TaskRec.inc taskRec)) = false ∧
    readKernel s 0 0 (TaskRec.entry taskRec) = .ok aKernel ∧ coreFits s 1 aKernel = some [] ∧
    admitting a 0 = some (7, aTask .admitting taskRec) ∧ TaskRec.nin taskRec = 0 ∧ TaskRec.scratch taskRec = 0 ∧
    a.channels = [] ∧ readyOrder r 0 = [(7, aTask .ready taskRec)] ∧ TaskRec.kind taskRec ≠ 3 ∧
    dealCore (partOf r 0) (aTask .ready taskRec) = some 0 ∧
    readyOrder q 0 = [(7, aTask .ready g)] ∧ TaskRec.kind g = 3 ∧
    (coreOf pr 2).probe = some 1 ∧ partAt pr 2 = some 0 ∧ powered pr 1 = true ∧ ownerTakes pr 0 1 = false ∧
    foundEntries pr 0 1 = [7, 8] ∧ (coreOf sp 2).probe = some 0 ∧ powered sp 0 = true ∧ ownerTakes sp 0 0 = false ∧
    foundEntries sp 0 0 = [] ∧ splitTask sp 0 0 = some (7, range) ∧ freeEntry (partOf sp 0) = some 0 := by
  decide +kernel

theorem witness_PlacementAndOrrery_nodes :
    let nd := { aNode with desc := 0x400 }
    let x := { aLaunch with next := 2, live := 1, nodes := [nd] }
    let y := { x with nodes := [{ nd with due := true }] }
    let full (x : Launch) := aimed { withQueue 1 with mem := memPut (withQueue 1).mem 0x100400 (bytesOfQuads kernelQuads), launches := [(1, x)] } 1 0
    let z := { x with nodes := [{ nd with last := some 3 }] }
    x.drained = false ∧ y.drained = false ∧ y.nodes[0]? = some { nd with due := true } ∧
    (coresOf (partOf (full y) 0)).find? (fun c =>
      match bestOffer (full y) c with
      | some po => (match po.2.what with | .node l _ => decide (l = 1) | _ => false)
      | none => false) = some 0 ∧
    (bestOffer (full y) 0).map (fun po => (po.1, po.2.what)) = some (0, .node 1 0) ∧ powered (full y) 0 = true ∧
    y.read (wakeCore (full y) 0) = .ok y ∧ { y with next := 0 }.read (wakeCore (full y) 0) = .ok { y with next := 0 } ∧ y.needAlloc = false ∧
    (let v := { wakeCore (full y) 0 with launches := SMap.put (full y).launches 1 y }
     readKernel v 0 0 nd.desc = .ok aKernel ∧ coreFits v 0 aKernel = some [] ∧ (popRecords v 0 0 0 nd.qcw 32).recs.length = 1) ∧
    z.nodes[(full z).target.k]? = some { nd with last := some 3 } ∧ 3 + 2048 ≤ (atClock (full z) 3000).clock ∧
    0 < nodeCount (full z) z { nd with last := some 3 } ∧
    (let e := { x with live := 0 }
     e.drained = true ∧ e.nodes ≠ [] ∧ ∀ y ∈ e.nodes, nodeCount { withQueue 0 with launches := [(1, e)] } e y = 0) := by
  decide +kernel

/-- Engine 0 running an operation of the bench's wave, some of its steps to do, its records all zeros. -/
def runS (k : MKind) (steps : List Nat) (assist : SMap DWord) : State :=
  let r : MRun := { op := mxOp k, steps := steps, done := 0, assist := assist, parked := none, failed := [] }
  aimed { mxState with engines := [(0, { Engine.zero with recs := [(0, mxRec false), (1, mxRec true)], run := some r })] } 0 0
def mxMul : MulOp := { a := 0, b := some 1, base := 0, shape := 0x00080202, bands := 0, fA := .f16, fB := .f16, mftz := false, bitmap := none }
def mxKind : MKind := .mma 0 (some 1) 0 0x00080202 0 .f16 .f16 false

theorem witness_MatrixEngineSteps :
    let e := { Engine.zero with recs := [(0, mxRec false), (1, mxRec true), (5, { mxRec false with relp := some 0 })], queue := [mxOp mxKind] }
    let s := aimed { mxState with engines := [(0, e)] } 0 0
    let run (k : MKind) (steps : List Nat) (assist : SMap DWord) := (engineOf (runS k steps assist) 0).run
    stepsOf (engineOf s 0) mxKind = some [0, 1, 2, 3] ∧ suspended s (mxOp mxKind) = false ∧
    (engineOf s 0).run = none ∧ (engineOf s 0).susp = [] ∧ (engineOf s 0).queue = [mxOp mxKind] ∧ SMap.wf e.recs = true ∧
    (∀ or ∈ e.recs, releasable s e or.1 or.2 = decide (or.1 = 5)) ∧
    (run mxKind [0, 1, 2, 3] []).map (fun r => (r.op.kind.mul?, r.op.tiles, r.op.f64, r.assist.length)) = some (some mxMul, [0], false, 0) ∧
    mxMul.m = 2 ∧ mxMul.n = 2 ∧
    (let s := runS mxKind [0, 1, 2, 3] []
     ∀ i < 2, ∀ j < 2, stepElem .f32 (accGet (engineOf s 0) [0] i j)
       (stepSum (rowVals (engineOf s 0) mxMul 4 0 i) (colVals s 0 mxMul 0 j)) = .keep) ∧
    (run mxKind [0, 1, 2, 3] [(129, 7)]).map (·.assist) = some ([(129, 7)] : SMap DWord) ∧
    (run mxKind [] []).map (fun r => (r.steps, r.parked, r.op.m)) = some ([], none, 0) ∧ noAcc ≠ 0 ∧
    (run .mzero [] []).map (fun r => (r.steps, r.op.kind, r.op.tiles)) = some ([], .mzero, [0]) ∧
    OpTiles (mxOp mxKind) ∧ OpTiles { mxOp mxKind with tiles := [2, 3], f64 := true } := by
  unfold OpTiles; decide +kernel

/-- A step whose first element would be 2^-133: records of BF16. -/
def tinyS : State :=
  let bf (n : Nat) (b : SMap Byte) : Nat × Rec := (n, { mxRec (n == 1) with bytes := b })
  let s := runS (.mma 0 (some 1) 0 0x00080202 0 .bf16 .bf16 false) [0, 1, 2, 3] []
  modEngine s 0 (fun e => { e with recs := [bf 0 [(0, 1)], bf 1 [(0, 0x80), (1, 0x3F)]] })

theorem witness_MatrixEngineSteps_tiny :
    let x : MulOp := { mxMul with fA := .bf16, fB := .bf16 }
    (engineOf tinyS 0).run.bind (fun r => r.op.kind.mul?) = some x ∧
    (match stepElem .f32 (accGet (engineOf tinyS 0) [0] 0 0) (stepSum (rowVals (engineOf tinyS 0) x 4 0 0) (colVals tinyS 0 x 0 0)) with
     | .tiny .. => true | _ => false) = true := by
  decide +kernel

/-- The other operations at their ends: MWR, OSTO, OLOD and a MEPI that folds. -/
theorem witness_MatrixEngineSteps_ends :
    let vals : SMap DWord := [(0, 0x3F800000), (9, 7)]
    let addrs : SMap DWord := [(0, 0x3000), (1, 0x3010)]
    let offs : SMap Nat := [(0, 0), (1, 8)]
    let bytes : SMap Byte := [(3, 0x55)]
    let s := runS (.olod 0 2 addrs offs) [] []
    SMap.wf vals = true ∧ (∀ kv ∈ vals, kv.1 < 256 ∧ 8 + kv.1 % 8 < 128) ∧ SMap.wf bytes = true ∧ SMap.wf addrs = true ∧
    SMap.get? (engineOf s 0).recs 0 = some (mxRec false) ∧ (mxRec false).relp = none ∧ s.bad = [] ∧
    (∀ la ∈ addrs, la.2.toNat % 4 = 0 ∧ PlainAt s 0 0 false false la.2 (4 * 2) (0x103000 + 0x10 * la.1) ∧
      PlainAt s 0 0 false true la.2 (2 * 2) (0x103000 + 0x10 * la.1) ∧ Apart (0x103000 + 0x10 * la.1) (2 * 2) 0x103100 4) ∧
    (∀ la ∈ addrs, ∀ lb ∈ addrs, la.1 ≠ lb.1 → Apart (SMap.getD offs la.1 0) (4 * 2) (SMap.getD offs lb.1 0) (4 * 2) ∧
      Apart (0x103000 + 0x10 * la.1) (2 * 2) (0x103000 + 0x10 * lb.1) (2 * 2)) ∧
    PlainAt s 0 0 false true 0x3100 4 0x103100 ∧ (0x00080202#64).toNat % 256 = 2 ∧ (0x00080202#64).toNat / 256 % 256 = 2 ∧
    (ofFmt .f16).width / 8 = 2 := by
  unfold PlainAt Apart; decide +kernel

/-- Context 0's ring 0, described at 0x2000: 8 cards at 0x2400, 8 records at 0x2800, one card kicked; and a template at 0x3200. -/
def apVa (o : Nat) : DWord := 0xFFFF000000000000 + dw o
def zeros (n : Nat) : List DWord := List.replicate n 0
def ringQuads : List DWord := [0x2400, 0x2800, 0, dw (3 * 2 ^ 40 + 3 * 2 ^ 48)] ++ zeros 4
def cardQuads : List DWord := [0x3000, 0x3100, 0, dw (4 + 2 ^ 32)] ++ zeros 12
def tmplQuads : List DWord := [0x3000, 0x3100, 0, 0, 0, dw (4 + 2 ^ 32), 1] ++ zeros 9
def ringBench : State :=
  let m := memPut (memPut cmdS.mem 0x102000 (bytesOfQuads ringQuads)) 0x102400 (bytesOfQuads cardQuads)
  let k : KRing := { prod := 1, wave := 1, lane := false, elpc := 0, acq := 0, race := false, part := 0 }
  aimed { cmdS with mem := memPut m 0x103200 (bytesOfQuads tmplQuads),
                    contexts := SMap.put cmdS.contexts 0 { ctxOf cmdS 0 with rt := 0x2000, kicks := [(0, [k])] } } 0 3
def aJob (begun : Bool) : Job :=
  { Job.fresh 60 0xFFFF000000000000 (apWave bench false 0 0x3200 false) with begun := begun, fields := if begun then tmplQuads else [], fetched := begun }
def jobS (begun : Bool) : State := { ringBench with channels := [(3, [aJob begun])] }

/-- A job of these fields under way, with control block 0 or none. -/
def jobOf (t : List DWord) (sel : DWord) : Job := { aJob true with fields := t, value := sel }
def jobOn (j : Job) : State := { ringBench with channels := [(3, [j])] }

/-- FP32 to FP16, two rows of two, no divisor limits it, a control block at 0x3400; a dictionary stream of five bytes; a row of
four FP16 elements packed into records 0 and 1. -/
def cvtQuads : List DWord :=
  [0x3000, 0x3100, 0x3400, 0, 0, 2 + 2 * 2 ^ 32, 1 + 8 * 2 ^ 32, 4 * 2 ^ 32, 0, 0xFFFFFFFF00000000, 0xFFFFFFFFFFFFFFFF, 0x32] ++ zeros 4
def dictQuads : List DWord := [0x3000, 0x3100, 0, 0, 0, 5 + 2 ^ 32, 1, 0, 0, 0, 0, 0x4000] ++ zeros 4
def packQuads : List DWord := [0x3000, 0, 0, 0, 0, 4 + 2 ^ 32, 1, 0, 0, 0, 0, 0x109033] ++ zeros 4
def aStreamOf : List DictItem × List Byte := ([([1, 2], 2, 1)], [9])
def aCard : Card :=
  { uid := 61, ctx := 0, ring := 0, n := 0, fields := cardQuads, invalid := false,
    kick := { prod := 1, wave := 1, lane := false, elpc := 0, acq := 0, race := false, part := 0 }, parked := none, failed := [] }

theorem witness_CopiesQueuesAndStreams_stores :
    let s := ringBench
    let kick : DWord := 2 * 2 ^ 16
    waveOf s s.w.id = some s.w ∧ vaSpace (apVa 0x300) = 0xF ∧ apertureOk s 0 (vaOff (apVa 0x300)) = true ∧ vaOff (apVa 0x300) < 0x40000 ∧
    apRoom s 0 (vaOff (apVa 0x300)) = true ∧
    0x40000 ≤ vaOff (apVa 0x40000) ∧ apertureOk s 0 (vaOff (apVa 0x40000)) = true ∧ kickOk (vaOff (apVa 0x40000)) kick = true ∧
    ringDesc s 0 (bits kick 5 0) = some ringQuads ∧ (SMap.getD (ctxOf s 0).kicks 0 []).map (·.prod) = [1] ∧
    diff32 (bits kick 47 16) 1 < 2 ^ 31 ∧ 2 ^ 31 ≤ diff32 (bits (0#64) 47 16) 1 ∧ diff32 (bits kick 47 16) (fieldOf ringQuads 159 128) ≤ 2 ^ fieldOf ringQuads 236 232 := by
  decide +kernel

theorem witness_CopiesQueuesAndStreams_jobs :
    let s := jobS false
    let u := jobS true
    let j := aJob true
    channelOf s s.target.n s.target.k = [aJob false] ∧ bits (aJob false).value 15 0 < 4096 ∧
    engQuads s 0 0 true (aJob false).tmplAt 16 = .ok tmplQuads ∧ Tmpl.ok tmplQuads = true ∧ sliceNamed s 0 tmplQuads = true ∧
    4096 ≤ bits (0x1000#64) 15 0 ∧
    channelOf u u.target.n u.target.k = [j] ∧ j.parked = none ∧ j.invalid = false ∧ j.race = false ∧ j.task = none ∧
    bits j.value 63 48 = 0xFFFF ∧ u.bad = [] ∧
    Tmpl.sfmt tmplQuads = 0 ∧ Tmpl.dfmt tmplQuads = 0 ∧ Tmpl.codec tmplQuads = 0 ∧ Tmpl.ckind tmplQuads = 0 ∧
    Tmpl.fold tmplQuads = false ∧ Tmpl.dkind tmplQuads = 0 ∧ Tmpl.nx tmplQuads = 4 ∧ Tmpl.ny tmplQuads = 1 ∧ Tmpl.nz tmplQuads = 1 ∧
    (jobMoves tmplQuads j.param).length = 4 := by
  decide +kernel

theorem witness_CopiesQueuesAndStreams_moves :
    SourcesAt (jobS true) 0 0 1 (jobMoves tmplQuads (aJob true).param) (fun i _ => 0x103000 + i) ∧
    TargetsAt (jobS true) 0 0 1 (jobMoves tmplQuads (aJob true).param) (fun i => 0x103100 + i) ∧
    (let s := jobOn (jobOf cvtQuads 0)
     let ms := jobMoves cvtQuads (jobOf cvtQuads 0).param
     SourcesAt s 0 0 4 ms (fun i _ => 0x103000 + 4 * i) ∧ TargetsAt s 0 0 2 ms (fun i => 0x103100 + 2 * i)) ∧
    TargetsAt (jobOn (jobOf dictQuads 0xFFFF000000000000)) 0 0 1 (jobMoves dictQuads (jobOf dictQuads 0).param) (fun i => 0x103100 + i) := by
  refine ⟨sourcesAt_of ?_, targetsAt_of ?_, ⟨sourcesAt_of ?_, targetsAt_of ?_⟩, targetsAt_of ?_⟩ <;> unfold PlainAt <;> try unfold Apart
  all_goals decide +kernel

theorem witness_CopiesQueuesAndStreams_converted :
    let s := jobOn (jobOf cvtQuads 0)
    let ms := jobMoves cvtQuads (jobOf cvtQuads 0).param
    Tmpl.ok cvtQuads = true ∧ Tmpl.sfmt cvtQuads = 2 ∧ Tmpl.dfmt cvtQuads = 3 ∧ Tmpl.ckind cvtQuads = 0 ∧ Tmpl.fold cvtQuads = false ∧
    Tmpl.codec cvtQuads = 0 ∧ Tmpl.dkind cvtQuads = 0 ∧ fieldOf cvtQuads 703 608 = 2 ^ 96 - 1 ∧ ms.length = 4 ∧
    bits (jobOf cvtQuads 0).value 63 48 = 0 ∧ (Tmpl.cbase cvtQuads).toNat % 64 = 0 ∧
    PlainAt s 0 0 true true (Tmpl.cbase cvtQuads) 64 0x103400 ∧ (∀ i < 4, Apart (0x103100 + 2 * i) 2 0x103400 64) ∧
    (∀ i < 4, ∀ m < 4, Apart (0x103100 + 2 * m) 2 (0x103000 + 4 * i) 4) := by
  unfold PlainAt Apart; decide +kernel

theorem witness_CopiesQueuesAndStreams_coded :
    let j := jobOf dictQuads 0xFFFF000000000000
    let stream := dictBytes aStreamOf.1 aStreamOf.2
    let s : State := { jobOn j with mem := memPut ringBench.mem 0x103000 stream }
    let k := jobOf packQuads 0xFFFF000000000000
    let t := { jobOn k with engines := [(0, { Engine.zero with recs := [(0, mxRec false), (1, mxRec true)] })] }
    Tmpl.ok dictQuads = true ∧ Tmpl.codec dictQuads = 1 ∧ Tmpl.dkind dictQuads = 0 ∧ dictGood aStreamOf.1 0 = true ∧
    (dictOut aStreamOf.1 [] ++ aStreamOf.2).length = copySpan (Tmpl.sfmt dictQuads) (Tmpl.nx dictQuads * Tmpl.ny dictQuads * Tmpl.nz dictQuads) ∧
    stream.length = 8 ∧ fieldOf dictQuads 799 768 = 0 ∧ memBytes s.mem 0x103000 stream.length = stream ∧
    PlainAt s 0 0 true false 0x3000 8 0x103000 ∧ dwI ((Tmpl.sbase dictQuads).toNat + j.param * signed32 (fieldOf dictQuads 575 544)) = 0x3000 ∧
    Tmpl.ok packQuads = true ∧ Tmpl.codec packQuads = 2 ∧ Tmpl.sfmt packQuads = Tmpl.dfmt packQuads ∧ 0 < Tmpl.nx packQuads * Tmpl.ny packQuads ∧
    k.wave.bind (waveOf t) = some t.w ∧ Tmpl.drec packQuads = 0 ∧ Tmpl.mrec packQuads = 1 ∧
    SMap.get? (engineOf t 0).recs 0 = some (mxRec false) ∧ SMap.get? (engineOf t 0).recs 1 = some (mxRec true) ∧
    (mxRec false).heldBy t t.w = true ∧ (mxRec true).heldBy t t.w = true ∧ Tmpl.stepWidth (Tmpl.dfmt packQuads) = 2 ∧
    (∀ i < 4, Tmpl.srcAt packQuads k.param i 0 0 = [0x3000 + dw (2 * i)] ∧ PlainAt t 0 0 true false (0x3000 + dw (2 * i)) 2 (0x103000 + 2 * i)) ∧
    4 * 2 ≤ 4096 * (mxRec false).gran ∧ 8 * (1 + 1) ≤ 4096 * (mxRec true).gran := by
  unfold PlainAt; decide +kernel

theorem witness_CopiesQueuesAndStreams_cards :
    let s := ringBench
    let c := { s with cards := [(0, aCard)] }
    s.cards = [] ∧ nextRing s s.target.n = some 0 ∧ ringDesc s 0 0 = some ringQuads ∧ (SMap.getD (ctxOf s 0).kicks 0 []).find? (fun x => x.ahead (fieldOf ringQuads 159 128)) = some aCard.kick ∧
    engQuads s 0 0 true (ringQuads.getD 0 0 + dw (128 * (fieldOf ringQuads 159 128 % 2 ^ fieldOf ringQuads 236 232))) 16 = .ok cardQuads ∧
    SMap.get? c.cards c.target.n = some aCard ∧ fieldOf cardQuads 387 384 = 0 ∧ cardQuads.getD 2 0 = 0 ∧ ringDesc c 0 0 = some ringQuads ∧
    (let va := ringQuads.getD 1 0 + dw (32 * (fieldOf ringQuads 191 160 % 2 ^ fieldOf ringQuads 244 240))
     va = 0x2800 ∧ va.toNat % 32 = 0 ∧ (ctxOf c 0).rt + dw (64 * aCard.ring) + 20 = 0x2014) ∧
    PlainAt c 0 0 true true 0x2800 32 0x102800 ∧ PlainAt c 0 0 true true 0x2014 4 0x102014 ∧
    PlainAt c 0 (ctxOf c 0).part true false 0x2000 64 0x102000 ∧ cardOk cardQuads = true ∧ cardMoves cardQuads = [] := by
  unfold PlainAt; decide +kernel

/-- Cards with a control block at 0x3400: CONVERT of two FP32 to FP16, TRANSPOSE of two rows of two words, FILL of 16 bytes. -/
def convertCard : List DWord := [0x3000, 0x3100, 0x3400, 2 + 2 ^ 32, 0, 0, 0xFFFFFFFF00000321, 0xFFFFFFFFFFFFFFFF] ++ zeros 8
def transposeCard : List DWord := [0x3000, 0x3100, 0x3400, 2 + 2 * 2 ^ 32, 8 + 8 * 2 ^ 32, 0, 0x222, 0] ++ zeros 8
def fillCard : List DWord := [0, 0x3100, 0x3400, 16 + 2 ^ 32, 0, 0x0123456789ABCDEF, 3, 0] ++ zeros 8
def cardOn (q : List DWord) : State := { ringBench with cards := [(0, { aCard with fields := q })] }

/-- Where the steps' elements lie. -/
def cardSrc (i _ : Nat) : Nat := 0x103000 + 4 * i
def cardDst (q : List DWord) (i : Nat) : Nat :=
  0x103100 + match fieldOf q 387 384 with | 1 => 2 * i | 2 => 8 * (i % 2) + 4 * (i / 2) | _ => 8 * i

theorem witness_CopiesQueuesAndStreams_card_moves :
    ∀ q ∈ [convertCard, transposeCard, fillCard],
      SourcesAt (cardOn q) 0 0 (cardRead q) (cardMoves q) cardSrc ∧ TargetsAt (cardOn q) 0 0 (cardWrite q) (cardMoves q) (cardDst q) := by
  have h : ∀ q ∈ [convertCard, transposeCard, fillCard],
      (∀ i < (cardMoves q).length, ∀ k < ((cardMoves q).getD i ([], 0)).1.length,
        PlainAt (cardOn q) 0 0 true false (((cardMoves q).getD i ([], 0)).1.getD k 0) (cardRead q) (cardSrc i k)) ∧
      ∀ i < (cardMoves q).length, PlainAt (cardOn q) 0 0 true true ((cardMoves q).getD i ([], 0)).2 (cardWrite q) (cardDst q i) ∧
        ∀ j < (cardMoves q).length, i ≠ j → Apart (cardDst q i) (cardWrite q) (cardDst q j) (cardWrite q) := by
    unfold PlainAt Apart; decide +kernel
  exact fun q hq => ⟨sourcesAt_of (h q hq).1, targetsAt_of (h q hq).2⟩

theorem witness_CopiesQueuesAndStreams_card_works :
    ∀ q ∈ [convertCard, transposeCard, fillCard],
      cardOk q = true ∧ 0 < (cardMoves q).length ∧ (cardRead q, cardWrite q) ∈ [(4, 2), (4, 4), (1, 8)] ∧
      (fieldOf q 391 388 = fieldOf q 395 392 ∨ fieldOf q 511 416 = 2 ^ 96 - 1) ∧ (q.getD 2 0).toNat % 64 = 0 ∧
      PlainAt (cardOn q) 0 0 true true (q.getD 2 0) 64 0x103400 ∧
      ∀ i < (cardMoves q).length,
        (∀ k ∈ [(0x102800, 32), (0x102014, 4), (0x102000, 64), (0x103400, 64)], Apart (cardDst q i) (cardWrite q) k.1 k.2) ∧
        ∀ j < (cardMoves q).length, Apart (cardDst q i) (cardWrite q) (cardSrc j 0) (cardRead q) := by
  unfold PlainAt Apart; decide +kernel

/-- A push sent from elsewhere to the bench's queue, and the bench waiting with a QPOPS at its SPC, or with a lane instruction. -/
def sentPush : RPush := { aPush with data := bytesOf 4 0x99, lane := false, home := 0 }
def pushS (n : Nat) : State := aimed { withQueue n with cores := [(0, { Core.zero with pushes := [sentPush] })] } 0 0
def waitS (q : List LEntry) : State :=
  upW { withBound 1 with mem := memPutNat (withBound 1).mem 0x100000 4 0xB42C6003 } (fun w => { w with status := .waiting, lane := { w.lane with q := q } })

theorem witness_CopiesQueuesAndStreams_pushes :
    let s := pushS 2
    let i := Instr.vqpop { plain with vd := 8, b := .queue 3 }
    let e := captured bench.w i 0 0
    QueueLaid s 0 0 sentPush.qcw ∧ (coreOf s s.target.n).pushes[s.target.k]? = some sentPush ∧ s.target.k = 0 ∧
    vaDie sentPush.qcw = 0xFFF ∧ sentPush.gen = (qcwOf s 0 0 sentPush.qcw).gen ∧
    (qcwOf s 0 0 sentPush.qcw).count < (qcwOf s 0 0 sentPush.qcw).depth ∧
    (waitS []).target.n = 0 ∧ (aimed (waitS []) (waitS []).w.id 0).w.status = .waiting ∧ (waitS []).w.lane.q = [] ∧
    fetchAt (waitS []) (waitS []).w.regs.spc 4 = .ok 0xB42C6003 ∧ decodeScalar 0xB42C6003 = .qpops 11 3 ∧
    (waitS [e]).w.lane.q = [e] ∧ e.i = i := by
  refine ⟨queueLaid_two, ?_⟩
  decide +kernel

def running : Stream := { aStream with run := true }
def streamS : State := aimed (upW (withBound 0) (fun w => { w with streams := [(7, running)] })) 1 7

theorem witness_CopiesQueuesAndStreams_streams :
    let s := streamS
    let c := qcwOf s 0 s.w.part running.dq.qcw
    QueueLaid s 0 s.w.part running.dq.qcw ∧ s.target.n = s.w.id ∧ s.w.placed = true ∧
    SMap.get? s.w.streams s.target.k = some running ∧ running.parked = none ∧ running.iq = none ∧ running.midway = none ∧
    fireTurn s s.w s.target.k = true ∧ Stream.scatter running.d3 = false ∧ Stream.batch running.d3 = 0 ∧ 0 < running.remaining ∧
    running.race = false ∧ s.bad = [] ∧ running.dq.gen = c.gen ∧ c.count < c.depth ∧
    (let ia := running.d1 + dw (Stream.indexBytes running.d3 * (running.count - running.remaining))
     ia = 0x80 ∧ running.address (Stream.index running.d3 (memBytes s.mem 0x100080 4)) = 0x40) ∧
    PlainAt s s.w.ctx s.w.part false false 0x80 4 0x100080 ∧ PlainAt s s.w.ctx s.w.part false false 0x40 4 0x100040 := by
  refine ⟨queueLaid_empty, ?_⟩
  unfold PlainAt; decide +kernel

/-- Rays of frame 0 in bin 3, or elsewhere, and the bin, of traversal or of shading. -/
def aBin (shade : Bool) : Bin := { shade := shade, key := 0, used := 0, treelet := none, since64 := some 0, fresh := false, batch := 0 }
def rayS (n : Nat) (l : RayAt) (shade : Bool) (clock : Nat) : State :=
  aimed (atClock (upP cmdS (fun p => { p with
    frames := [(0, aFrameEnt)], rays := (List.range n).map (fun i => (i, { heldRay with loc := l, seq := i })), bins := [(3, aBin shade)] })) clock) 0 3

theorem witness_RayPoolSteps_bins :
    let t := partOf (rayS 64 (.bin 3) false 256) 0
    let u := partOf (rayS 5 (.bin 3) false 512) 0
    let v := partOf (rayS 32 (.bin 3) true 0) 0
    let w := partOf (rayS 5 (.bin 3) true 2048) 0
    SMap.wf t.rays = true ∧ isTraversal t 3 = true ∧ (raysIn t 3).length = 64 ∧ (SMap.get? t.bins 3).bind (·.since64) = some 0 ∧
    SMap.wf u.rays = true ∧ isTraversal u 3 = true ∧ (raysIn u 3).length = 5 ∧ (∀ r ∈ raysIn u 3, r.2.since + 512 ≤ 512) ∧
    isShading v 3 = true ∧ (shadingRays v 3).length = 32 ∧
    isShading w 3 = true ∧ (shadingRays w 3).length = 5 ∧ (∀ r ∈ shadingRays w 3, r.2.since + 2048 ≤ 2048) := by
  decide +kernel

theorem witness_RayPoolSteps_rays :
    let s := aimed (rayS 1 (.traversal 2 3 7) false 0) 0 0
    let r := { heldRay with loc := .traversal 2 3 7 }
    let d := upP (rayS 0 .held false 0) (fun p => { p with frames := [(3, aFrameEnt)] })
    let sp := upP (rayS 0 .held false 0) (fun p => { p with frames := [(0, { aFrameEnt with spill := [(4, { heldRay with loc := .bin 3 })] })] })
    SMap.get? (partOf s 0).rays s.target.k = some r ∧ SMap.get? (partOf s 0).frames r.frame = some aFrameEnt ∧
    64 ≤ freeSlots (partOf sp 0) ∧
    oldestSpilled (partOf sp 0) = some (0, { aFrameEnt with spill := [(4, { heldRay with loc := .bin 3 })] }, 4, { heldRay with loc := .bin 3 }) ∧
    (takeSlot (partOf sp 0) 0).isSome = true ∧
    SMap.get? (partOf d 0).frames d.target.k = some aFrameEnt ∧ frameCount d 0 3 = 0 ∧ aFrameEnt.addr + 88 = 0x1058 ∧
    PlainAt d 0 0 false true 0x1058 24 0x101058 ∧ episodesDone d aFrameEnt = true ∧ frameCount (rayS 1 (.bin 3) false 0) 0 0 ≠ 0 := by
  unfold PlainAt; decide +kernel

def aSpawn : SpawnWait := { wave := 1, lane := 0, frame := 0, ext := false, pub := 0, since := 0, granted := none, discarded := false }

/-- A formation that lacks its slots. -/
def aForm : Formation := { bin := 4, rays := [0], slots := [], since := 0, jam := false }

theorem witness_RayPoolSteps_jam :
    let s := upP (rayS 3 (.bin 3) false 4096) (fun p => { p with spawns := [aSpawn], fullSince := some 0 })
    let t := upP (rayS 0 .held false 4096) (fun p => { p with spawns := [aSpawn], fullSince := some 0 })
    let r := { heldRay with loc := .bin 3, seq := 2 }
    (partOf s 0).jamLeft = 0 ∧ jammed s 0 = true ∧ fullestBin (partOf s 0) = some 3 ∧ isTraversal (partOf s 0) 3 = true ∧
    (raysIn (partOf s 0) 3).reverse.head? = some (2, r) ∧ SMap.get? (partOf s 0).frames r.frame = some aFrameEnt ∧
    spillOpen aFrameEnt = true ∧ spillFault s 0 0 (spillAddr aFrameEnt 0) = none ∧
    (partOf t 0).jamLeft = 0 ∧ jammed t 0 = true ∧ fullestBin (partOf t 0) = none ∧ isTraversal (partOf t 0) 0 = false ∧
    (let x := upP t (fun p => { p with spawns := [], forms := [aForm] })
     (partOf x 0).jamLeft = 0 ∧ jammed x 0 = true ∧ fullestBin (partOf x 0) = none ∧ oldestForm (partOf x 0) = some 0 ∧
      (partOf x 0).forms[0]? = some aForm ∧ oldestSpawn (partOf x 0) = none) ∧
    oldestSpawn (partOf t 0) = some 0 ∧ (partOf t 0).spawns[0]? = some aSpawn ∧ waitedLong t.clock aSpawn.since = true := by
  decide +kernel

/-! ### Single steps, with the values of the spec's worked examples -/

/-- The state a step answers, and the same with every in-flight lane result landed. -/
def after (r : Result) : State := match r with | .next t => t | .fault _ => State.reset | .refused _ => State.reset
def landed (s : State) (i : Instr) : State := landAll (after (exec i (issuing s i)))

/-- What the scalar word `w` leaves in s[r]. -/
def scalarGives (s : State) (w : BitVec 32) (r : Nat) : DWord := getS (after (exec (decodeScalar w) s)).w r

/-- The lane instruction of three words, as the spec's tables print them. -/
def laneWords (w0 w1 w2 : BitVec 32) : Instr := (decodeLane (w2 ++ w1 ++ w0)).toOption.getD .snop

/-- Lane k of v[r] after the lane words are executed and landed. -/
def laneGives (s : State) (w0 w1 w2 : BitVec 32) (r k : Nat) : Word := getV (landed s (laneWords w0 w1 w2)).w r k

/-- Tables 06-10 and 06-11: MOVZ, MOVK, MULI, MULH, CLZ and ROTI of the kernel `sdemo`. -/
theorem test_sdemo_values :
    let s10 := withS bench [(10, 0x2C1B3C6D), (11, 0xFFFFFFFF7BAE4AB9)]
    scalarGives bench 0x34283C6D 10 = 0x3C6D ∧ scalarGives (withS bench [(10, 0x3C6D)]) 0x38292C1B 10 = 0x2C1B3C6D ∧
    scalarGives s10 0x302C2BFD 11 = 0xFFFFFFFF7BAE4AB9 ∧ scalarGives s10 0x0C302C29 12 = 0xFFFFFFFFFFFFFFFF ∧
    scalarGives s10 0x143C2801 15 = 34 ∧ scalarGives s10 0x2C502B20 20 = 0x2C1B3C6D00000000 := by decide +kernel

/-- Tables 06-10 and 06-11: CMP, CLOG, SEL, SWR and SRD of the kernel `sdemo`. -/
theorem test_sdemo_conditions :
    let s10 := withS bench [(10, 0x2C1B3C6D), (11, 0xFFFFFFFF7BAE4AB9), (17, 1)]
    getC (after (exec (decodeScalar 0x3C082C28) s10)).w 0 = true ∧ getC (after (exec (decodeScalar 0x3C982C28) s10)).w 1 = false ∧
    getC (after (exec (decodeScalar 0x4502C000) (upR s10 (fun g => { g with c := 1 })))).w 2 = true ∧
    scalarGives s10 0x1834282D 13 = 0xFFFFFFFF7BAE4AB9 ∧
    (after (exec (decodeScalar 0x9C44000B) s10)).w.sys.fpmode = 1 ∧
    scalarGives s10 0x984C0001 19 = 0 := by decide +kernel

/-- The bench with 20 threads whose v1 holds the lane index. -/
def lanes20 : State := withV (upR (upW bench (fun w => { w with pop := 20 })) (fun g => { g with em := 0xFFFFF })) 1
  (fun k => if k < 20 then BitVec.ofNat 32 k else 0)

/-- Table 07-6, rows v8, v9 and v10: cross-lane reads of an unpopulated lane give 0, or the lane's own value with fs. -/
theorem test_xlane_moves :
    let dn (fs : Bool) : Instr :=
      .vmov { plain with vd := 8, va := 1, m := { Mods.neutral with xmode := .dn, xarg := 1, fs := fs } }
    let t := landed lanes20 (dn false)
    let f := landed lanes20 (dn true)
    getV t.w 8 0 = 1 ∧ getV t.w 8 18 = 19 ∧ getV t.w 8 19 = 0 ∧ getV f.w 8 18 = 19 ∧ getV f.w 8 19 = 19 := by decide +kernel

/-- Table 07-6, rows v10, v11 and v13: inactive lanes still deliver, under em = 0x3FF. -/
theorem test_xlane_inactive_sources :
    let s := withS (upR lanes20 (fun g => { g with em := 0x3FF })) [(4, 100)]
    let rot := landed s (.vadd { plain with ty := .i32, vd := 10, va := 1, b := .scal 4,
                                            m := { Mods.neutral with xmode := .rot, xarg := 12 } })
    let own := landed s (.vmov { plain with vd := 11, va := 1, m := { Mods.neutral with xmode := .bcast, xarg := 25, fs := true } })
    let one := landed s (.vmov { plain with vd := 13, va := 1, m := { Mods.neutral with xmode := .bcast, xarg := 15 } })
    getV rot.w 10 0 = 112 ∧ getV rot.w 10 7 = 119 ∧ getV rot.w 10 8 = 100 ∧ getV rot.w 10 10 = 0 ∧ getV own.w 11 9 = 9 ∧
    getV one.w 13 3 = 15 ∧ getV one.w 13 10 = 0 := by decide +kernel

/-- Table 07-6, row vp1, and R137's value of VMIX. -/
theorem test_xlane_compare_and_mix :
    let s := withS lanes20 [(5, 10)]
    getVp (landed s (.vcmp { plain with vd := 1, va := 1, b := .scal 5, m := { Mods.neutral with aux4 := 6 } })).w 1 = 0x3FF ∧
    getV (landed s (.vmix { plain with vd := 12, va := 1, b := .scal 0 })).w 12 1 = 0xED345605 := by decide +kernel

/-- Table 07-5, the row VSHR.b16x2: element 0 shifts by 2, element 1 by 3. -/
theorem test_shift_packed : laneGives (withV bench 5 (fun _ => 0x80010013)) 0x01404D0C 0x80000000 0x00030002 4 6 = 0x10000004 := by
  decide +kernel

/-- Four lanes of `fsum`: 2^24 in lane 0 and 1.0 in lanes 1 to 3. -/
def lanes4 : State := withV (upR (upW bench (fun w => { w with pop := 4 })) (fun g => { g with em := 0xF })) 3
  (fun k => if k = 0 then 0x4B800000 else if k < 4 then 0x3F800000 else 0)

/-- Table 08-5: VSCAN keeps 2^24 and sets NX, VRADD's tree gives 2^24 + 2, VMATCH gives the masks. -/
theorem test_fsum :
    let x : LArith := { plain with ty := .f32, va := 3 }
    let scan := landed lanes4 (.vscan { x with vd := 4 })
    let sum := landed lanes4 (.vradd { x with vd := 5 })
    let same := landed lanes4 (.vmatch { x with ty := .b32, vd := 6 })
    getV scan.w 4 0 = 0x4B800000 ∧ getV scan.w 4 3 = 0x4B800000 ∧ scan.w.sys.fpstat = 0x10 ∧
    getV sum.w 5 0 = 0x4B800001 ∧ getV sum.w 5 3 = 0x4B800001 ∧ getV same.w 6 0 = 1 ∧ getV same.w 6 3 = 0xE := by decide +kernel

/-- Table 05-3: −1.5, 448 and 2^-9 in several formats. -/
theorem test_formats :
    ((roundVal .f32 .rne (FFmt.bf16.dec 0xBFC0)).code = 0xBFC00000 ∧ (roundVal .f16 .rne (FFmt.f32.dec 0xBFC00000)).code = 0xBE00 ∧
      (roundVal .e4m3' .rne (FFmt.f32.dec 0xBFC00000)).code = 0xBC ∧ (roundVal .e5m2 .rne (FFmt.f32.dec 0xBFC00000)).code = 0xBE) ∧
    ((roundVal .f16 .rne (FFmt.f32.dec 0x43E00000)).code = 0x5F00 ∧ (roundVal .e4m3' .rne (FFmt.f32.dec 0x43E00000)).code = 0x7E ∧
      (roundVal .e5m2 .rne (FFmt.f32.dec 0x43E00000)).code = 0x5F) ∧
    (roundVal .f16 .rne (FFmt.f32.dec 0x3B000000)).code = 0x1800 ∧ (roundVal .e4m3' .rne (FFmt.f32.dec 0x3B000000)).code = 0x01 ∧
    (roundVal .e5m2 .rne (FFmt.f32.dec 0x3B000000)).code = 0x18 := by decide +kernel

/-- Eight lanes whose v1 holds the lane index. -/
def lanes8 : State := withV (upR (upW bench (fun w => { w with pop := 8 })) (fun g => { g with em := 0xFF })) 1
  (fun k => if k < 8 then BitVec.ofNat 32 k else 0)

/-- Call-outs (2) and (3) of `ctl`: MPUSH vp1, then MELSE. -/
theorem test_ctl_masks :
    let p := after (exec (decodeScalar 0x60000004) (setVp lanes8 1 0xAA))
    let e := after (exec (decodeScalar 0x60000001) p)
    p.w.regs.em = 0xAA ∧ p.w.regs.mstack = [0xFF] ∧ e.w.regs.em = 0x55 ∧ e.w.regs.mstack = [0xFF] := by decide +kernel

/-- Table 09-4, pass 2: TLOOP under em = 0xEE goes back a word and leaves em = 0xCC; pass 4 leaves 0 and falls through. -/
theorem test_ctl_tloop :
    let v3 (f : Nat → Word) : State := upR (withV lanes8 3 (fun k => if k < 8 then f (k % 4) else 0)) (fun g => { g with spc := 0x100 })
    let two := after (exec (decodeScalar 0x6803FFFF) (upR (v3 (fun j => BitVec.ofNat 32 (j : Nat))) (fun g => { g with em := 0xEE })))
    let four := after (exec (decodeScalar 0x6803FFFF)
      (upR (v3 (fun j => if j = 3 then 1 else 0)) (fun g => { g with em := 0x88 })))
    two.w.regs.em = 0xCC ∧ two.w.regs.spc = 0xFC ∧ getV two.w 3 3 = 2 ∧ getV two.w 3 0 = 0 ∧
    four.w.regs.em = 0 ∧ four.w.regs.spc = 0x104 ∧ getV four.w 3 7 = 0 := by decide +kernel

/-- Call-outs (9) to (11) of `ctl`: BALLOT, SRFL and SLANE. -/
theorem test_ctl_lane_reads :
    let s := withS (setVp (withV (withV lanes8 4 (fun _ => 10)) 5 (fun k => if k % 2 = 1 then 100 else 200)) 1 0xAA) [(10, 5)]
    scalarGives s 0x64200005 8 = 0xAA ∧ scalarGives s 0x6C240400 9 = 10 ∧ scalarGives s 0x702C050A 11 = 100 := by decide +kernel

/-- An allocation whose context's wave has eight lanes and its base in s4. -/
def atoms : State := withS (withV (withV (upR (upW (withAlloc bench) (fun w => { w with pop := 8 })) (fun g => { g with em := 0xFF })) 1
  (fun k => if k < 8 then BitVec.ofNat 32 k else 0)) 2 (fun k => if k < 8 then BitVec.ofNat 32 (k % 4) else 0)) [(4, allocVa 0)]

/-- Table 12-7: the group of eight VATOM.add at one word, in ascending lanes. -/
theorem test_atoms_add :
    let t := landed atoms (.vatom { plainMem with vd := 3, va := 2, base := .scal 4, aop := 0 })
    (List.range 8).map (getV t.w 3) = [0, 0, 1, 3, 6, 6, 7, 9] ∧ memNat t.mem (allocKey 0) 4 = 12 := by decide +kernel

/-- Call-outs (7) and (8) of `atoms`: one lane's VCAS succeeds; VSTC packs the active lanes. -/
theorem test_atoms_cas_and_compact :
    let c := landed (withV atoms 6 (fun k => BitVec.ofNat 32 (k + 100)))
      (.vcas { plainMem with vd := 7, va := 6, vc := 5, base := .scal 4, off := 8 })
    let odd : Pred := { pe := true, pn := false, pi := 1 }
    let z := landed (setVp atoms 1 0xAA) (.vstc { plainMem with pred := odd, va := 1, base := .scal 4, off := 16 })
    getV c.w 7 0 = 0 ∧ getV c.w 7 7 = 100 ∧ memNat c.mem (allocKey 8) 4 = 100 ∧
    memNat z.mem (allocKey 16) 8 = 0x0000000300000001 ∧ memNat z.mem (allocKey 24) 8 = 0x0000000700000005 := by decide +kernel

/-- Table 10-10: element (0, 0) and element (1, 1) after steps 0 and 1, FP16 pairs exactly summed. -/
theorem test_matrix_steps :
    let v (l : List Nat) : List FVal := l.map (FFmt.dec .f16)
    stepElem .f32 0 (stepSum (v [0x3C00, 0x4000]) (v [0x3C00, 0])) = .set 0x3F800000 ∧
    stepElem .f32 0x3F800000 (stepSum (v [0x4200, 0x4400]) (v [0x3C00, 0x4000])) = .set 0x41400000 ∧
    stepElem .f32 0 (stepSum (v [0x3800, 0]) (v [0, 0x3C00])) = .keep ∧
    stepElem .f32 0 (stepSum (v [0xBC00, 0x4000]) (v [0x3C00, 0xBC00])) = .set 0xC0400000 := by decide +kernel

/-- Table 16-4: the worked stream fills a shape of 13 bytes, and ends badly after 13 where the shape has 14. -/
theorem test_worked_stream :
    let bs : List Byte := [0x03, 0x61, 0x62, 0x63, 0x05, 0x03, 0x01, 0x7A, 0x04, 0x01, 0x00, 0x00]
    let rd : ByteAt := fun s p => (s, .ok [bs.getD p 0])
    let run (n : Nat) := (streamItems rd 12 n 12 State.reset 0 [] 0).2
    let out : List Byte := [0x61, 0x62, 0x63, 0x61, 0x62, 0x63, 0x61, 0x62, 0x7A, 0x7A, 0x7A, 0x7A, 0x7A]
    (run 13).1.reverse = out ∧ (run 13).2 = .full ∧ (run 14).1.reverse = out ∧ (run 14).2 = .bad := by decide +kernel

/-- Block 1 of chapter 14, at b = 24: the three stored words, and the values back. -/
theorem test_codec_block_1 :
    let x := 0x000000E000000401 + 0x00FE0000FE000006 * 2 ^ 64 + 0x18003D000EC003E0 * 2 ^ 128
    let vs : List Nat := [0x4008000000000000, 0x4014000000000000, 0x4000000000000000, 0x401C000000000000,
      0x3FF0000000000000, 0x4010000000000000, 0x4018000000000000, 0]
    encodeBlock 24 vs = (x, 0) ∧ decodeBlock 24 x = some (vs, 0) := by decide +kernel

/-- Block 2 of chapter 14, at b = 16: the two stored words, and the tiny member decoded as 0. -/
theorem test_codec_block_2 :
    let x := 0x0004000380000402 + 0x1000000000080000 * 2 ^ 64
    encodeBlock 16 (List.replicate 7 0x4020000000000000 ++ [0x3EB0000000000000]) = (x, 0) ∧
    decodeBlock 16 x = some (List.replicate 7 0x4020000000000000 ++ [0], 0) := by decide +kernel

/-- xmode 7 has no row among the cross-lane modes: the word is refused, and the one with xmode 0 is not. -/
theorem test_xmode_7_refused : (decodeLane 0x000000070000000000001019).toOption = none ∧
    (decodeLane 0x000000000000000000001019).toOption.isSome = true := by decide +kernel

/-- R89's worked group: VQBLK gives the element bytes, the scale byte and one CFLUSH; VDQBLK gives 10.125 back in lane 4. -/
theorem test_fp4_block :
    let xs : List Word := [0x40600000, 0xBFA00000, 0, 0x3F400000, 0x41200000, 0xC0E00000, 0x3E800000, 0x40000000]
    let s := withV lanes8 3 (fun k => xs.getD k 0)
    let t := landed s (laneWords 0x00C1024A 0 0)
    let d := landed (withV (withV lanes8 16 (fun _ => 0x20E71094)) 17 (fun _ => 0x76))
      (.vdqblk { plain with ty := .f32, vd := 4, va := 16, b := .vec 17 })
    getV t.w 16 0 = 0x20E71094 ∧ getV t.w 17 0 = 0x76 ∧ getV t.w 16 1 = 0 ∧ bits t.w.sys.fpstat 63 16 = 0x10000 ∧
    t.w.sys.fpstat.getLsbD 4 = true ∧
    getV d.w 4 4 = 0x41220000 ∧ getV d.w 4 6 = 0 := by decide +kernel

end Sys2Proof.Tests
end

/-! ## Scalar arithmetic, immediates, comparisons and condition logic (06): words, results, frame and ILLEGAL fields -/

namespace Sys2Proof

/-! The fields of a word put together from them; the word's width is written as the sum of theirs, as the library's rules
for a slice of a concatenation have it. -/

section Fields

variable (m : BitVec 6) (d a b : BitVec 8)

/-- Format SR: sd, sa, sb and fn. -/
theorem fields_sr (f : BitVec 2) :
    let w : BitVec (6 + 8 + 8 + 8 + 2) := m ++ d ++ a ++ b ++ f
    w.extractLsb' 26 6 = m ∧ w.extractLsb' 18 8 = d ∧ w.extractLsb' 10 8 = a ∧ w.extractLsb' 2 8 = b ∧
      w.extractLsb' 0 2 = f := by
  simp (disch := decide) only [BitVec.extractLsb'_append_eq_of_le, BitVec.extractLsb'_append_eq_of_add_le,
    BitVec.extractLsb'_eq_self, Nat.reduceSub, and_self]

/-- Format SI: sd, sa and a ten-bit immediate. -/
theorem fields_si (i : BitVec 10) :
    let w : BitVec (6 + 8 + 8 + 10) := m ++ d ++ a ++ i
    w.extractLsb' 26 6 = m ∧ w.extractLsb' 18 8 = d ∧ w.extractLsb' 10 8 = a ∧ w.extractLsb' 0 10 = i := by
  simp (disch := decide) only [BitVec.extractLsb'_append_eq_of_le, BitVec.extractLsb'_eq_self, Nat.reduceSub, and_self,
    BitVec.extractLsb'_append_eq_right]

/-- The immediate shifts: the kind and the two bits below it stand in one field of four. -/
theorem fields_shift (f z : BitVec 2) (n : BitVec 6) :
    let w : BitVec (6 + 8 + 8 + 2 + 2 + 6) := m ++ d ++ a ++ f ++ z ++ n
    w.extractLsb' 26 6 = m ∧ w.extractLsb' 18 8 = d ∧ w.extractLsb' 10 8 = a ∧ w.extractLsb' 6 4 = f ++ z ∧
      w.extractLsb' 0 6 = n := by
  intro w
  have hjoin : w.extractLsb' 8 2 ++ w.extractLsb' 6 2 = w.extractLsb' 6 4 :=
    BitVec.extractLsb'_append_extractLsb'_eq_extractLsb' rfl
  rw [← hjoin]
  simp (disch := decide) only [w, BitVec.extractLsb'_append_eq_of_le, BitVec.extractLsb'_append_eq_of_add_le,
    BitVec.extractLsb'_eq_self, Nat.reduceSub, and_self]

/-- The moves of a halfword: its place and its value. -/
theorem fields_mov (h : BitVec 2) (k : BitVec 16) :
    let w : BitVec (6 + 8 + 2 + 16) := m ++ d ++ h ++ k
    w.extractLsb' 26 6 = m ∧ w.extractLsb' 18 8 = d ∧ w.extractLsb' 16 2 = h ∧ w.extractLsb' 0 16 = k := by
  simp (disch := decide) only [BitVec.extractLsb'_append_eq_of_le, BitVec.extractLsb'_append_eq_of_add_le,
    BitVec.extractLsb'_eq_self, Nat.reduceSub, and_self]

/-- The comparison of two registers: cd and the code in the place of sd. -/
theorem fields_cmp (c : BitVec 3) (cc : BitVec 5) (z : BitVec 2) :
    let w : BitVec (6 + 3 + 5 + 8 + 8 + 2) := m ++ c ++ cc ++ a ++ b ++ z
    w.extractLsb' 26 6 = m ∧ w.extractLsb' 23 3 = c ∧ w.extractLsb' 18 5 = cc ∧ w.extractLsb' 10 8 = a ∧
      w.extractLsb' 2 8 = b ∧ w.extractLsb' 0 2 = z := by
  simp (disch := decide) only [BitVec.extractLsb'_append_eq_of_le, BitVec.extractLsb'_append_eq_of_add_le,
    BitVec.extractLsb'_eq_self, Nat.reduceSub, and_self]

/-- The comparison with an immediate. -/
theorem fields_cmpi (c : BitVec 3) (cc : BitVec 5) (i : BitVec 10) :
    let w : BitVec (6 + 3 + 5 + 8 + 10) := m ++ c ++ cc ++ a ++ i
    w.extractLsb' 26 6 = m ∧ w.extractLsb' 23 3 = c ∧ w.extractLsb' 18 5 = cc ∧ w.extractLsb' 10 8 = a ∧
      w.extractLsb' 0 10 = i := by
  simp (disch := decide) only [BitVec.extractLsb'_append_eq_of_le, BitVec.extractLsb'_append_eq_of_add_le,
    BitVec.extractLsb'_eq_self, Nat.reduceSub, and_self]

/-- Format CL: three conditions, the truth table and thirteen bits, which the decoder reads as three fields. -/
theorem fields_cl (c p q : BitVec 3) (t : BitVec 4) (z : BitVec 13) :
    let w : BitVec (6 + 3 + 3 + 3 + 4 + 13) := m ++ c ++ p ++ q ++ t ++ z
    w.extractLsb' 26 6 = m ∧ w.extractLsb' 23 3 = c ∧ w.extractLsb' 20 3 = p ∧ w.extractLsb' 17 3 = q ∧
      w.extractLsb' 13 4 = t ∧ w.extractLsb' 10 3 = z.extractLsb' 10 3 ∧ w.extractLsb' 2 8 = z.extractLsb' 2 8 ∧
      w.extractLsb' 0 2 = z.extractLsb' 0 2 := by
  simp (disch := decide) only [BitVec.extractLsb'_append_eq_of_le, BitVec.extractLsb'_append_eq_of_add_le,
    BitVec.extractLsb'_eq_self, Nat.reduceSub, and_self]

end Fields

/-- Thirteen bits are zero when the three fields that the decoder reads of them are. -/
theorem eq_zero_of_fields {z : BitVec 13} (hh : z.extractLsb' 10 3 = 0) (hm : z.extractLsb' 2 8 = 0)
    (hl : z.extractLsb' 0 2 = 0) : z = 0 := by
  have hlow : z.extractLsb' 2 8 ++ z.extractLsb' 0 2 = z.extractLsb' 0 10 :=
    BitVec.extractLsb'_append_extractLsb'_eq_extractLsb' rfl
  have hall : z.extractLsb' 10 3 ++ z.extractLsb' 0 10 = z.extractLsb' 0 13 :=
    BitVec.extractLsb'_append_extractLsb'_eq_extractLsb' rfl
  rw [← BitVec.extractLsb'_eq_self (x := z), ← hall, ← hlow, hh, hm, hl]
  rfl

/-- With a bit set below the kind, the field of four is that of no immediate shift. -/
theorem shift_field_ne : ∀ f z : BitVec 2, z ≠ 0 → f ++ z ≠ 0#4 ∧ f ++ z ≠ 4#4 ∧ f ++ z ≠ 8#4 ∧ f ++ z ≠ 12#4 := by
  decide

section Words

/-! What the words of Table 04-3 for scalar arithmetic and conditions decode to. -/

variable (d a b : BitVec 8)

/-- Table 06-9: the majors and fn of the register-register forms. -/
theorem decodeScalar_registerForms :
    ∀ mfi ∈ [(1#6, 0#2, Instr.add d a b), (1, 1, .sub d a b), (1, 2, .and d a b), (1, 3, .or d a b),
        (2, 0, .xor d a b), (2, 1, .shl d a b), (2, 2, .shr d a b), (2, 3, .sar d a b),
        (3, 0, .mul d a b), (3, 1, .mulh d a b), (3, 2, .mulhu d a b), (3, 3, .andn d a b),
        (4, 0, .min d a b), (4, 1, .max d a b), (4, 2, .minu d a b), (4, 3, .maxu d a b)],
      decodeScalar (mfi.1 ++ d ++ a ++ b ++ mfi.2.1) = mfi.2.2 := by
  simp only [List.forall_mem_cons]
  refine ⟨?_, ?_, ?_, ?_, ?_, ?_, ?_, ?_, ?_, ?_, ?_, ?_, ?_, ?_, ?_, ?_, fun _ h => absurd h List.not_mem_nil⟩ <;>
    simp [decodeScalar, scalarRow, fd, fa, fb, fn, fields_sr]

theorem decodeScalar_sel (n : BitVec 2) : decodeScalar (0x06#6 ++ d ++ a ++ b ++ n) = .sel d a b n := by
  simp [decodeScalar, scalarRow, fd, fa, fb, fn, fields_sr]

/-- One-source forms: a nonzero sb is a word outside every row (R110). -/
theorem decodeScalar_oneSource_illegal (f : BitVec 2) (hb : b ≠ 0#8) :
    decodeScalar (5#6 ++ d ++ a ++ b ++ f) = .illegalScalarWord (5#6 ++ d ++ a ++ b ++ f) := by
  simp [decodeScalar, scalarRow, fb, fn, fields_sr, hb]

theorem decodeScalar_oneSource :
    decodeScalar (5#6 ++ d ++ a ++ 0#8 ++ 0#2) = .popc d a ∧ decodeScalar (5#6 ++ d ++ a ++ 0#8 ++ 1#2) = .clz d a ∧
      decodeScalar (5#6 ++ d ++ a ++ 0#8 ++ 2#2) = .ctz d a ∧
      decodeScalar (5#6 ++ d ++ a ++ 0#8 ++ 3#2) = .brev d a := by
  simp [decodeScalar, scalarRow, fd, fa, fb, fn, fields_sr]

theorem decodeScalar_immediate (i : BitVec 10) :
    decodeScalar (7#6 ++ d ++ a ++ i) = .addi d a i ∧ decodeScalar (8#6 ++ d ++ a ++ i) = .andi d a i ∧
      decodeScalar (9#6 ++ d ++ a ++ i) = .ori d a i ∧ decodeScalar (10#6 ++ d ++ a ++ i) = .xori d a i ∧
      decodeScalar (12#6 ++ d ++ a ++ i) = .muli d a i := by
  simp [decodeScalar, scalarRow, fd, fa, fi, fields_si]

theorem decodeScalar_move (h : BitVec 2) (k : BitVec 16) :
    decodeScalar (13#6 ++ d ++ h ++ k) = .movz d h k ∧ decodeScalar (14#6 ++ d ++ h ++ k) = .movk d h k := by
  simp [decodeScalar, scalarRow, fd, fields_mov]

theorem decodeScalar_shift (n : BitVec 6) :
    decodeScalar (11#6 ++ d ++ a ++ 0#2 ++ 0#2 ++ n) = .shli d a n ∧
      decodeScalar (11#6 ++ d ++ a ++ 1#2 ++ 0#2 ++ n) = .shri d a n ∧
      decodeScalar (11#6 ++ d ++ a ++ 2#2 ++ 0#2 ++ n) = .sari d a n ∧
      decodeScalar (11#6 ++ d ++ a ++ 3#2 ++ 0#2 ++ n) = .roti d a n := by
  simp [decodeScalar, scalarRow, fd, fa, fields_shift]

/-- A shift by an immediate whose bits 7 and 6 are not 0 is a word outside every row (R113). -/
theorem decodeScalar_shift_illegal (f z : BitVec 2) (n : BitVec 6) (hz : z ≠ 0) :
    decodeScalar (11#6 ++ d ++ a ++ f ++ z ++ n) = .illegalScalarWord (11#6 ++ d ++ a ++ f ++ z ++ n) := by
  obtain ⟨h0, h4, h8, h12⟩ := shift_field_ne f z hz
  simp [decodeScalar, scalarRow, fields_shift, h0, h4, h8, h12]

theorem decodeScalar_cmp (c : BitVec 3) (cc : BitVec 5) :
    decodeScalar (15#6 ++ c ++ cc ++ a ++ b ++ 0#2) = .cmp c cc a b := by
  simp [decodeScalar, scalarRow, fa, fb, fn, fields_cmp]

/-- A comparison of registers with its low field not 0 is a word outside every row (R115). -/
theorem decodeScalar_cmp_illegal (c : BitVec 3) (cc : BitVec 5) (z : BitVec 2) (hz : z ≠ 0#2) :
    decodeScalar (15#6 ++ c ++ cc ++ a ++ b ++ z) = .illegalScalarWord (15#6 ++ c ++ cc ++ a ++ b ++ z) := by
  simp [decodeScalar, scalarRow, fn, fields_cmp, hz]

theorem decodeScalar_cmpi (c : BitVec 3) (cc : BitVec 5) (i : BitVec 10) :
    decodeScalar (16#6 ++ c ++ cc ++ a ++ i) = .cmpi c cc a i := by
  simp [decodeScalar, scalarRow, fa, fi, fields_cmpi]

theorem decodeScalar_clog (c p q : BitVec 3) (t : BitVec 4) :
    decodeScalar (17#6 ++ c ++ p ++ q ++ t ++ 0#13) = .clog c p q t := by
  simp [decodeScalar, scalarRow, fb, fn, fields_cl]

/-- Condition logic with its low field not 0 is a word outside every row (R116). -/
theorem decodeScalar_clog_illegal (c p q : BitVec 3) (t : BitVec 4) (z : BitVec 13) (hz : z ≠ 0) :
    decodeScalar (17#6 ++ c ++ p ++ q ++ t ++ z) = .illegalScalarWord (17#6 ++ c ++ p ++ q ++ t ++ z) := by
  have hfields : ¬ (z.extractLsb' 0 2 = 0#2 ∧ z.extractLsb' 10 3 = 0#3 ∧ z.extractLsb' 2 8 = 0#8) :=
    fun ⟨hl, hh, hm⟩ => hz (eq_zero_of_fields hh hm hl)
  simp [decodeScalar, scalarRow, fb, fn, fields_cl, hfields]

end Words

end Sys2Proof

namespace Sys2Proof.Machine

/-! ### The values of scalar arithmetic as exact results modulo 2^64 -/

theorem add_eq_dw (x y : DWord) : x + y = dw (x.toNat + y.toNat) := by
  rw [dw, BitVec.ofNat_add, BitVec.ofNat_toNat, BitVec.ofNat_toNat, BitVec.setWidth_eq, BitVec.setWidth_eq]

theorem mul_eq_dw (x y : DWord) : x * y = dw (x.toNat * y.toNat) := by
  rw [dw, BitVec.ofNat_mul, BitVec.ofNat_toNat, BitVec.ofNat_toNat, BitVec.setWidth_eq, BitVec.setWidth_eq]

theorem dwI_natCast (n : Nat) : dwI n = dw n := BitVec.ofInt_natCast 64 n

theorem sub_eq_dwI (x y : DWord) : x - y = dwI ((x.toNat : Int) - y.toNat) := by
  rw [dwI, Int.sub_eq_add_neg, BitVec.ofInt_add, BitVec.ofInt_neg, BitVec.ofInt_natCast, BitVec.ofInt_natCast,
    BitVec.ofNat_toNat, BitVec.ofNat_toNat, BitVec.setWidth_eq, BitVec.setWidth_eq, BitVec.sub_eq_add_neg]

theorem shiftLeft_eq_dw (x : DWord) (n : Nat) : x <<< n = dw (x.toNat * 2 ^ n) := by
  apply BitVec.eq_of_toNat_eq
  rw [BitVec.toNat_shiftLeft, Nat.shiftLeft_eq, dw, BitVec.toNat_ofNat]

theorem ushiftRight_eq_dw (x : DWord) (n : Nat) : x >>> n = dw (x.toNat / 2 ^ n) := by
  apply BitVec.eq_of_toNat_eq
  have h : x.toNat / 2 ^ n < 2 ^ 64 := (Nat.div_le_self _ _).trans_lt x.isLt
  rw [BitVec.toNat_ushiftRight, Nat.shiftRight_eq_div_pow, dw, BitVec.toNat_ofNat, Nat.mod_eq_of_lt h]

theorem sshiftRight_eq_dwI (x : DWord) (n : Nat) : x.sshiftRight n = dwI (x.toInt / 2 ^ n) := by
  rw [BitVec.sshiftRight, Int.shiftRight_eq_div_pow, dwI, Nat.cast_pow, Nat.cast_ofNat]

/-- The high half of the unsigned product (R109). -/
theorem mulHigh_natCast (m n : Nat) : mulHigh m n = dw (m * n / 2 ^ 64) := by
  rw [← dwI_natCast, mulHigh]
  push_cast
  rfl

theorem ite_sle (x y u v : DWord) : (if x.sle y then u else v) = if x.toInt ≤ y.toInt then u else v := by
  simp only [BitVec.sle_iff_toInt_le]

theorem ite_ule (x y u v : DWord) : (if x.ule y then u else v) = if x.toNat ≤ y.toNat then u else v := by
  simp only [BitVec.ule_iff_toNat_le]

/-- The ten-bit immediates are sign-extended (R112). -/
theorem signExtend_eq_dwI (i : BitVec 10) : i.signExtend 64 = dwI i.toInt := rfl

theorem add_signExtend_eq_dwI (x : DWord) (i : BitVec 10) : x + i.signExtend 64 = dwI (x.toInt + i.toInt) := by
  rw [signExtend_eq_dwI, dwI, dwI, BitVec.ofInt_add, BitVec.ofInt_toInt]

theorem mul_signExtend_eq_dwI (x : DWord) (i : BitVec 10) : x * i.signExtend 64 = dwI (x.toInt * i.toInt) := by
  rw [signExtend_eq_dwI, dwI, dwI, BitVec.ofInt_mul, BitVec.ofInt_toInt]

theorem setWidth_shiftLeft_eq_dw (k : BitVec 16) (n : Nat) : k.setWidth 64 <<< n = dw (k.toNat * 2 ^ n) := by
  rw [shiftLeft_eq_dw, BitVec.toNat_setWidth_of_le (by decide)]

/-- A rotation left is the shifted number with its overflow added at the bottom: the two parts do not overlap. -/
theorem toNat_rotateLeft_eq_add (x : DWord) {n : Nat} (hn : n < 64) :
    (x.rotateLeft n).toNat = x.toNat * 2 ^ n % 2 ^ 64 + x.toNat * 2 ^ n / 2 ^ 64 := by
  have hpow : (2 : Nat) ^ 64 = 2 ^ (64 - n) * 2 ^ n := by rw [← Nat.pow_add, Nat.sub_add_cancel hn.le]
  have hlow : x.toNat * 2 ^ n % 2 ^ 64 = 2 ^ n * (x.toNat % 2 ^ (64 - n)) := by
    rw [hpow, Nat.mul_mod_mul_right, Nat.mul_comm]
  have hhigh : x.toNat * 2 ^ n / 2 ^ 64 = x.toNat / 2 ^ (64 - n) := by
    rw [hpow, Nat.mul_div_mul_right _ _ (Nat.two_pow_pos n)]
  have hlt : x.toNat / 2 ^ (64 - n) < 2 ^ n := by
    rw [Nat.div_lt_iff_lt_mul (Nat.two_pow_pos _), Nat.mul_comm, ← hpow]
    exact x.isLt
  rw [BitVec.toNat_rotateLeft, Nat.mod_eq_of_lt hn, Nat.shiftLeft_eq, Nat.shiftRight_eq_div_pow, hlow, hhigh,
    Nat.two_pow_add_eq_or_of_lt hlt]

theorem rotateLeft_eq_dw (x : DWord) {n : Nat} (hn : n < 64) :
    x.rotateLeft n = dw (x.toNat * 2 ^ n + x.toNat * 2 ^ n / 2 ^ 64) := by
  apply BitVec.eq_of_toNat_eq
  rw [dw, BitVec.toNat_ofNat, ← Nat.mod_add_mod, ← toNat_rotateLeft_eq_add x hn, Nat.mod_eq_of_lt (BitVec.isLt _)]

/-- Counting by a fold is `countP`. -/
theorem foldl_count_eq (p : Nat → Bool) (l : List Nat) (k : Nat) :
    l.foldl (fun k i => if p i then k + 1 else k) k = k + l.countP p := by
  induction l generalizing k with
  | nil => rfl
  | cons i l ih =>
    rw [List.foldl_cons, ih, List.countP_cons]
    split <;> omega

theorem popcount_eq_countP {n : Nat} (x : BitVec n) : popcount x = (List.range n).countP (fun i => x.getLsbD i) := by
  rw [popcount, foldl_count_eq (fun i => x.getLsbD i), Nat.zero_add]

theorem leadingZeros_le {n : Nat} (x : BitVec n) : leadingZeros x ≤ n := by
  unfold leadingZeros
  split <;> omega

theorem log2_toNat_lt {n : Nat} {x : BitVec n} (hx : x.toNat ≠ 0) : x.toNat.log2 < n :=
  (Nat.log2_lt hx).mpr x.isLt

/-- The bits that `leadingZeros` counts are 0. -/
theorem getLsbD_of_lt_leadingZeros {n : Nat} (x : BitVec n) {i : Nat} (hi : i < leadingZeros x) :
    x.getLsbD (n - 1 - i) = false := by
  unfold leadingZeros at hi
  split at hi
  · next hx => simp [BitVec.getLsbD, hx]
  · next hx =>
    have hlog : x.toNat < 2 ^ (n - 1 - i) := (Nat.log2_lt hx).mp (by omega)
    exact Nat.testBit_lt_two_pow hlog

/-- The bit below those that `leadingZeros` counts is 1, if there is one. -/
theorem getLsbD_leadingZeros {n : Nat} (x : BitVec n) (h : leadingZeros x < n) :
    x.getLsbD (n - 1 - leadingZeros x) = true := by
  unfold leadingZeros at h ⊢
  split at h
  · omega
  · next hx =>
    have hlog := log2_toNat_lt hx
    rw [if_neg hx, show n - 1 - (n - 1 - x.toNat.log2) = x.toNat.log2 by omega, BitVec.getLsbD, Nat.testBit_log2 hx]

theorem trailingFrom_le {n : Nat} (x : BitVec n) (i fuel : Nat) : trailingFrom x i fuel ≤ i + fuel := by
  induction fuel generalizing i with
  | zero => simp [trailingFrom]
  | succ fuel ih =>
    rw [trailingFrom]
    have := ih (i + 1)
    split <;> omega

/-- The bits that `trailingFrom` passes over are 0. -/
theorem getLsbD_of_lt_trailingFrom {n : Nat} (x : BitVec n) {i fuel j : Nat} (hij : i ≤ j)
    (hj : j < trailingFrom x i fuel) : x.getLsbD j = false := by
  induction fuel generalizing i with
  | zero => simp only [trailingFrom] at hj; omega
  | succ fuel ih =>
    rw [trailingFrom] at hj
    split at hj
    · omega
    · next hx =>
      obtain rfl | hlt := Nat.eq_or_lt_of_le hij
      · simpa using hx
      · exact ih hlt hj

/-- The bit that `trailingFrom` stops at is 1, unless it ran out of bits. -/
theorem getLsbD_trailingFrom {n : Nat} (x : BitVec n) {i fuel : Nat} (h : trailingFrom x i fuel < i + fuel) :
    x.getLsbD (trailingFrom x i fuel) = true := by
  induction fuel generalizing i with
  | zero => simp only [trailingFrom] at h; omega
  | succ fuel ih =>
    rw [trailingFrom] at h ⊢
    split
    · assumption
    · next hx => exact ih (by rw [if_neg hx] at h; omega)

theorem trailingZeros_le {n : Nat} (x : BitVec n) : trailingZeros x ≤ n :=
  (trailingFrom_le x 0 n).trans_eq (Nat.zero_add n)

theorem getLsbD_of_lt_trailingZeros {n : Nat} (x : BitVec n) {i : Nat} (hi : i < trailingZeros x) :
    x.getLsbD i = false :=
  getLsbD_of_lt_trailingFrom x (Nat.zero_le i) hi

theorem getLsbD_trailingZeros {n : Nat} (x : BitVec n) (h : trailingZeros x < n) :
    x.getLsbD (trailingZeros x) = true :=
  getLsbD_trailingFrom x (h.trans_eq (Nat.zero_add n).symm)

/-- The first `m` steps of `bitReverse` have moved bits 0 to m − 1. -/
theorem getLsbD_reverse_fold {n : Nat} (x : BitVec n) (j m : Nat) :
    ((List.range m).foldl (fun y i => if x.getLsbD i then y ||| BitVec.twoPow n (n - 1 - i) else y) 0#n).getLsbD j =
      (decide (j < n) && (decide (n - 1 - j < m) && x.getLsbD (n - 1 - j))) := by
  induction m with
  | zero => simp
  | succ m ih =>
    rw [List.range_succ, List.foldl_append, List.foldl_cons, List.foldl_nil]
    split
    · next hx =>
      have hm := BitVec.lt_of_getLsbD hx
      rw [BitVec.getLsbD_or, ih, BitVec.getLsbD_twoPow]
      by_cases hj : j < n
      · by_cases hjm : n - 1 - j = m
        · simp [hj, hjm, hx, show n - 1 - m = j by omega]
        · simp [hj, show (n - 1 - j < m + 1) = (n - 1 - j < m) by simp; omega, show n - 1 - m ≠ j by omega]
      · simp [hj, show n - 1 - m ≠ j by omega]
    · next hx =>
      rw [ih]
      by_cases hjm : n - 1 - j = m
      · simp [hjm, hx]
      · rw [show decide (n - 1 - j < m + 1) = decide (n - 1 - j < m) by rw [decide_eq_decide]; omega]

theorem getLsbD_bitReverse {n : Nat} (x : BitVec n) {j : Nat} (hj : j < n) :
    (bitReverse x).getLsbD j = x.getLsbD (n - 1 - j) := by
  have h := getLsbD_reverse_fold x j n
  rw [decide_eq_true hj, decide_eq_true (by omega), Bool.true_and, Bool.true_and] at h
  exact h

theorem getElem_halfMask {i : Nat} (hi : i < 64) : (65535#64)[i] = decide (i < 16) := by
  have hmask : (65535#64) = BitVec.setWidth 64 (BitVec.allOnes 16) := by decide
  rw [← BitVec.getLsbD_eq_getElem, hmask, BitVec.getLsbD_setWidth, BitVec.getLsbD_allOnes, decide_eq_true hi,
    Bool.true_and]

/-- MOVK replaces halfword `h` and keeps the others (R114). -/
theorem extractLsb'_movkResult (x : DWord) (h : BitVec 2) (k : BitVec 16) {j : Nat} (hj : j < 4) :
    (movkResult x h k).extractLsb' (16 * j) 16 = if j = h.toNat then k else x.extractLsb' (16 * j) 16 := by
  ext i hi
  have hbit : 16 * j + i < 64 := by omega
  by_cases hjh : j = h.toNat
  · subst hjh
    simp [movkResult, getElem_halfMask, hi, hbit]
  · obtain hlt | hgt := Nat.lt_or_gt_of_ne hjh
    · simp [movkResult, hjh, hbit, show 16 * j + i < 16 * h.toNat by omega]
    · have hout : 16 ≤ 16 * j + i - 16 * h.toNat := by omega
      simp [movkResult, hjh, hbit, getElem_halfMask, show ¬ 16 * j + i < 16 * h.toNat by omega, hout]

/-- MOVK replaces halfword `h` of the number and keeps the others (R114). -/
theorem halfword_movkResult (x : DWord) (h : BitVec 2) (k : BitVec 16) {j : Nat} (hj : j < 4) :
    (movkResult x h k).toNat / 2 ^ (16 * j) % 2 ^ 16 =
      if j = h.toNat then k.toNat else x.toNat / 2 ^ (16 * j) % 2 ^ 16 := by
  have hx := congrArg BitVec.toNat (extractLsb'_movkResult x h k hj)
  rw [BitVec.extractLsb'_toNat, Nat.shiftRight_eq_div_pow, apply_ite BitVec.toNat, BitVec.extractLsb'_toNat,
    Nat.shiftRight_eq_div_pow] at hx
  exact hx

/-- The relations of R115, in order, are those that `compareCode` decides. -/
theorem comparisons_eq_map : comparisons = (List.range 12).map (fun c => compareCode c) := by
  simp only [comparisons, List.range, List.range.loop, List.map_cons, List.map_nil]
  congr <;> funext x y <;> simp [compareCode, bne, beq_eq_decide]

/-- A relation of R115's list is the one that its index decides. -/
theorem comparison_eq_compareCode {c : Nat} {r : DWord → DWord → Bool} (h : comparisons[c]? = some r) :
    r = compareCode c := by
  rw [comparisons_eq_map, List.getElem?_map, Option.map_eq_some_iff] at h
  obtain ⟨a, ha, rfl⟩ := h
  obtain ⟨_, rfl⟩ := List.getElem?_eq_some_iff.mp ha
  simp

/-- CLOG's bit of the truth table, at 2·c[ca] + c[cb] (R116). -/
theorem clogBit_eq (t : BitVec 4) (p q : Bool) :
    clogBit t p q = t.getLsbD (2 * (if p then 1 else 0) + (if q then 1 else 0)) := by
  cases p <;> rfl

/-! ### Completion of the scalar forms, and the entry into the handler -/

theorem scalarTo_advance_setS (s : State) (d : Nat) (x : DWord) : ScalarTo s (.next (advance (setS s d x))) d x :=
  ⟨_, rfl, rfl, fun n => getS_setS s d n x, rfl⟩

/-- A scalar instruction that is not held up completes with the value it computes from the state. -/
theorem scalarTo_scalarOp {s : State} {rs : List Nat} {d : Nat} (h : Settled s.w rs d) (f : State → DWord) {x : DWord}
    (hx : f s = x) : ScalarTo s (.next (scalarOp s rs d (fun t => advance (setS t d (f t))))) d x := by
  rw [scalarOp_ready _ h.1 h.2, hx]
  exact scalarTo_advance_setS s d x

/-- The forms of two registers complete with their function's value (R109). -/
theorem scalarTo_aluR {s : State} {d a b : BitVec 8} (h : Settled s.w [a.toNat, b.toNat] d.toNat)
    (f : DWord → DWord → DWord) {x : DWord} (hx : f (getS s.w a.toNat) (getS s.w b.toNat) = x) :
    ScalarTo s (.next (aluR s d a b f)) d.toNat x :=
  scalarTo_scalarOp h _ hx

/-- The forms of one register complete with their function's value (R110, R112, R113). -/
theorem scalarTo_aluU {s : State} {d a : BitVec 8} (h : Settled s.w [a.toNat] d.toNat)
    (f : DWord → DWord) {x : DWord} (hx : f (getS s.w a.toNat) = x) :
    ScalarTo s (.next (aluU s d a f)) d.toNat x :=
  scalarTo_scalarOp h _ hx

theorem writerS_of_not_busyS {w : Wave} {n : Nat} (h : busyS w n = false) : writerS w n = false := by
  simp only [busyS, writerS, Bool.or_eq_false_iff, List.any_eq_false, Bool.or_eq_true, not_or] at h ⊢
  exact ⟨fun e he => (h.1 e he).2, h.2⟩

/-- A stored condition reads back, and the other stored ones keep their bit; c6 and c7 are not stored (R94). -/
theorem getC_setC (s : State) {n m : Nat} (b : Bool) (hn : n < 6) (hm : m < 6) :
    getC (setC s n b).w m = if m = n then b else getC s.w m := by
  have h6 : m ≠ 6 := by omega
  have h7 : m ≠ 7 := by omega
  simp only [getC, setC, modRegs, if_neg h6, if_neg h7]
  cases b
  · by_cases hmn : m = n <;> simp [hmn, hm, hn]
  · by_cases hmn : m = n <;> simp [hmn, hm, hn]

theorem condTo_advance_setC (s : State) {d : Nat} (b : Bool) (hd : d < 6) :
    CondTo s (.next (advance (setC s d b))) d b :=
  ⟨_, rfl, rfl, fun _ hn => getC_setC s b hd hn, rfl⟩

/-- A comparison with its cd and code in range completes with the code's relation (R115). -/
theorem condTo_compareInto {s : State} {d : BitVec 3} {c : BitVec 5} {rs : List Nat} (x y : DWord)
    (hd : d.toNat ≤ 5) (hc : c.toNat ≤ 11) (h : Readable s.w rs) :
    CondTo s (.next (compareInto s d c rs x y)) d.toNat (compareCode c.toNat x y) := by
  rw [compareInto, if_neg (by simp; omega), scalarRead_ready _ h]
  exact condTo_advance_setC s _ (by omega)

theorem compareInto_illegal (s : State) {d : BitVec 3} {c : BitVec 5} (rs : List Nat) (x y : DWord)
    (h : 5 < d.toNat ∨ 11 < c.toNat) : compareInto s d c rs x y = illegal s := by
  rw [compareInto, if_pos (by simpa using h)]

/-- Blink's record of a cause is a partition's (R365). -/
theorem fireCause_eq (s : State) (part code : Nat) :
    fireCause s part code = { s with parts := (fireCause s part code).parts } := by
  unfold fireCause
  split <;> rfl

/-- The wave with no SC operation under way. -/
def Wave.noTickets (w : Wave) : Wave :=
  { w with ticket := none, pod := none, lane := { w.lane with ticket := none, pod := none } }

theorem Wave.noTickets_eq_self {w : Wave} (ht : w.ticket = none) (hp : w.pod = none) (hlt : w.lane.ticket = none)
    (hlp : w.lane.pod = none) : w.noTickets = w := by
  have h : w.noTickets = { w with
      ticket := w.ticket, pod := w.pod, lane := { w.lane with ticket := w.lane.ticket, pod := w.lane.pod } } := by
    simp only [Wave.noTickets, ht, hp, hlt, hlp]
  exact h

/-- Giving up the SC operations changes partitions and the wave's tickets alone (R240). -/
theorem dropTickets_eq (s : State) : dropTickets s = { s with parts := (dropTickets s).parts, w := s.w.noTickets } := by
  unfold dropTickets
  dsimp only
  split
  · next h =>
    simp only [Bool.and_eq_true, Option.isNone_iff_eq_none] at h
    obtain ⟨⟨⟨ht, hp⟩, hlt⟩, hlp⟩ := h
    rw [Wave.noTickets_eq_self ht hp hlt hlp]
  · rfl

theorem laneComplete_q {s : State} (h : laneComplete s = true) : s.w.lane.q = [] := by
  simp only [laneComplete, laneIdle, Bool.and_eq_true, List.isEmpty_iff] at h
  exact h.1.1

/-- Taking the wave out of its park changes what a trap's entry sets anyway, and the tickets (R353; log 104). -/
theorem unpark_eq (s : State) : unpark s = { s with
    parts := (dropTickets s).parts
    w := { s.w.noTickets with
      park := none, answered := none, status := if s.w.status = .parked then .ready else s.w.status } } := by
  unfold unpark
  rw [dropTickets_eq]
  rfl

/-- With a handler to enter, outside it and with the lane queue empty, a trap is taken (R353). -/
theorem enters_takeTrap {s : State} (c : Cause) (hh : s.w.sys.handler = false) (hc : (ctxOf s s.w.ctx).handler ≠ 0)
    (hq : s.w.lane.q = []) (hagain : c.again = none) :
    Enters s (takeTrap s c) (causeWord c.code c.imp c.lane c.timm) (c.epc &&& ~~~ 3) (dw (bits c.elpc 19 0))
      c.faddr c.fagent c.resume := by
  obtain ⟨hsys, hctx, -, -, -, hcontexts⟩ := unpark_same s
  have hctxOf : ctxOf (unpark s) (unpark s).w.ctx = ctxOf s s.w.ctx := by rw [ctxOf, hctx, hcontexts, ctxOf]
  unfold takeTrap
  dsimp only
  rw [hctxOf, if_neg (by rw [hsys, hh, Bool.false_or, decide_eq_true_eq]; exact hc), fireCause_eq, unpark_eq]
  refine ⟨rfl, c.access, ?_⟩
  simp only [modRegs, modW, modSys, modLane, Wave.run, Wave.noTickets, Wave.populated, returnDepth, hq, hagain,
    List.length_nil, Nat.add_zero]

/-- A scalar trap of a wave that may enter its handler enters it, precise, with EPC at the instruction (R108, R353). -/
theorem scalarTrapAt_enters {s : State} (h : MayTrap s) (resume : DWord) (code timm : Nat) (fa fg : DWord) :
    Enters s (scalarTrapAt s resume code timm fa fg) (causeWord code false false timm) (s.w.regs.spc &&& ~~~ 3) 0
      fa fg resume := by
  obtain ⟨hh, hc, hl⟩ := h
  obtain ⟨hf, -⟩ | ⟨-, ht⟩ := scalarTrapAt_cases s resume code timm fa fg
  · simp [hl] at hf
  · rw [ht]
    exact enters_takeTrap _ hh hc (laneComplete_q hl) rfl

/-- ILLEGAL is cause 1, and its resume point is the instruction (R59). -/
theorem illegal_enters {s : State} (h : MayTrap s) :
    Enters s (illegal s) 1 (s.w.regs.spc &&& 0xFFFFFFFFFFFFFFFC) 0 0 0 s.w.regs.spc :=
  scalarTrapAt_enters h s.w.regs.spc 1 0 0 0

/-- A comparison that is no instruction raises ILLEGAL (R59, R115). -/
theorem compareInto_enters {s : State} {d : BitVec 3} {c : BitVec 5} (rs : List Nat) (x y : DWord)
    (h : 5 < d.toNat ∨ 11 < c.toNat) (hm : MayTrap s) :
    ∃ u, (.next (compareInto s d c rs x y) : Result) = .next u ∧
      Enters s u 1 (s.w.regs.spc &&& 0xFFFFFFFFFFFFFFFC) 0 0 0 s.w.regs.spc :=
  ⟨_, rfl, by rw [compareInto_illegal s rs x y h]; exact illegal_enters hm⟩

/-- CLOG into a condition that is not stored raises ILLEGAL (R116). -/
theorem clog_illegal (s : State) {d : BitVec 3} (p q : BitVec 3) (t : BitVec 4) (h : 5 < d.toNat) :
    exec (.clog d p q t) s = .next (illegal s) := by
  show execClog d p q t s = _
  rw [execClog, if_pos h]

theorem condTo_clog (s : State) {d : BitVec 3} (p q : BitVec 3) (t : BitVec 4) (hd : d.toNat ≤ 5) :
    CondTo s (exec (.clog d p q t) s) d.toNat (clogBit t (getC s.w p.toNat) (getC s.w q.toNat)) := by
  show CondTo s (execClog d p q t s) _ _
  rw [execClog, if_neg (by omega)]
  exact condTo_advance_setC s _ (by omega)

/-! ### The obligations -/

/-- Settles O9: each form is `aluR` with a function whose value is the exact result. -/
theorem scalarTwoSources : Obligations.ScalarTwoSources := by
  unfold Obligations.ScalarTwoSources
  intro s d a b h x y
  exact ⟨scalarTo_aluR h _ (add_eq_dw x y), scalarTo_aluR h _ (sub_eq_dwI x y), scalarTo_aluR h _ rfl,
    scalarTo_aluR h _ rfl, scalarTo_aluR h _ rfl, scalarTo_aluR h _ rfl,
    scalarTo_aluR h _ (shiftLeft_eq_dw x _), scalarTo_aluR h _ (ushiftRight_eq_dw x _),
    scalarTo_aluR h _ (sshiftRight_eq_dwI x _), scalarTo_aluR h _ (mul_eq_dw x y), scalarTo_aluR h _ rfl,
    scalarTo_aluR h _ (mulHigh_natCast x.toNat y.toNat), scalarTo_aluR h _ (ite_sle x y x y),
    scalarTo_aluR h _ (ite_sle x y y x), scalarTo_aluR h _ (ite_ule x y x y), scalarTo_aluR h _ (ite_ule x y y x),
    fun n => ⟨decodeScalar_sel d a b n, scalarTo_aluR h _ rfl⟩, decodeScalar_registerForms d a b⟩

/-- The one-source forms complete with what R110 says of their results. -/
theorem scalarOneSource (s : State) (d a : BitVec 8) (h : Settled s.w [a.toNat] d.toNat) :
    let x := getS s.w a.toNat
    ScalarTo s (exec (.popc d a) s) d.toNat (dw ((List.range 64).countP (fun i => x.getLsbD i))) ∧
      (∃ n, n ≤ 64 ∧ (∀ i < n, x.getLsbD (63 - i) = false) ∧ (n < 64 → x.getLsbD (63 - n) = true) ∧
        ScalarTo s (exec (.clz d a) s) d.toNat (dw n)) ∧
      (∃ n, n ≤ 64 ∧ (∀ i < n, x.getLsbD i = false) ∧ (n < 64 → x.getLsbD n = true) ∧
        ScalarTo s (exec (.ctz d a) s) d.toNat (dw n)) ∧
      ∃ y : DWord, (∀ i < 64, y.getLsbD i = x.getLsbD (63 - i)) ∧ ScalarTo s (exec (.brev d a) s) d.toNat y :=
  let x := getS s.w a.toNat
  ⟨scalarTo_aluU h _ (congrArg dw (popcount_eq_countP x)),
    ⟨leadingZeros x, leadingZeros_le x, fun _ => getLsbD_of_lt_leadingZeros x, getLsbD_leadingZeros x,
      scalarTo_aluU h _ rfl⟩,
    ⟨trailingZeros x, trailingZeros_le x, fun _ => getLsbD_of_lt_trailingZeros x, getLsbD_trailingZeros x,
      scalarTo_aluU h _ rfl⟩,
    bitReverse x, fun _ => getLsbD_bitReverse x, scalarTo_aluU h _ rfl⟩

/-- Settles O10: each form is `aluU` with its function, MOVZ a scalar operation with no source, and MOVK `aluU` of sd. -/
theorem scalarOneSourceAndImmediates : Obligations.ScalarOneSourceAndImmediates := by
  unfold Obligations.ScalarOneSourceAndImmediates
  refine ⟨fun s d a h => ?_, fun s d a i n hw k h => ?_⟩
  · intro x
    obtain ⟨hpopc, hclz, hctz, hbrev⟩ := scalarOneSource s d a h
    obtain ⟨wpopc, wclz, wctz, wbrev⟩ := decodeScalar_oneSource d a
    exact ⟨hpopc, hclz, hctz, hbrev, wpopc, wclz, wctz, wbrev, fun b f => decodeScalar_oneSource_illegal d a b f⟩
  · intro x
    obtain ⟨wadd, wand, wor, wxor, wmul⟩ := decodeScalar_immediate d a i
    obtain ⟨wmovz, wmovk⟩ := decodeScalar_move d hw k
    obtain ⟨wshl, wshr, wsar, wrot⟩ := decodeScalar_shift d a n
    have hd : Settled s.w [d.toNat] d.toNat := ⟨by simpa using writerS_of_not_busyS h.2, h.2⟩
    have h0 : Settled s.w [] d.toNat := ⟨fun _ hn => absurd hn List.not_mem_nil, h.2⟩
    exact ⟨scalarTo_aluU h _ (add_signExtend_eq_dwI x i), scalarTo_aluU h _ (mul_signExtend_eq_dwI x i),
      scalarTo_aluU h _ rfl, scalarTo_aluU h _ rfl, scalarTo_aluU h _ rfl, scalarTo_aluU h _ (shiftLeft_eq_dw x _),
      scalarTo_aluU h _ (ushiftRight_eq_dw x _), scalarTo_aluU h _ (sshiftRight_eq_dwI x _),
      scalarTo_aluU h _ (rotateLeft_eq_dw x n.isLt), scalarTo_scalarOp h0 _ (setWidth_shiftLeft_eq_dw k _),
      movkResult (getS s.w d.toNat) hw k, fun _ => halfword_movkResult _ hw k, scalarTo_aluU hd _ rfl,
      wadd, wand, wor, wxor, wmul, wmovz, wmovk, wshl, wshr, wsar, wrot,
      fun f z => decodeScalar_shift_illegal d a f z n⟩

/-- Settles O11: with cd and the code in range each form completes with its bit, and outside it is ILLEGAL's trap. -/
theorem scalarConditions : Obligations.ScalarConditions := by
  unfold Obligations.ScalarConditions
  intro s d cc a b i bad
  refine ⟨⟨decodeScalar_cmp a b d cc, decodeScalar_cmpi a d cc i,
      fun h => ⟨compareInto_enters _ _ _ h, compareInto_enters _ _ _ h⟩, decodeScalar_cmp_illegal a b d cc⟩,
    fun p q t => ⟨decodeScalar_clog d p q t, fun h hm => ⟨_, clog_illegal s p q t h, illegal_enters hm⟩,
      decodeScalar_clog_illegal d p q t⟩,
    fun hd hr => ⟨fun r h => ?_, fun p q t => ?_⟩⟩
  · obtain rfl := comparison_eq_compareCode h
    have hcc : cc.toNat ≤ 11 := Nat.le_of_lt_succ (List.getElem?_eq_some_iff.mp h).1
    have ha : Readable s.w [a.toNat] := fun n hn => hr n (List.mem_cons.mpr (.inl (List.mem_singleton.mp hn)))
    exact ⟨condTo_compareInto _ _ hd hcc hr, condTo_compareInto _ _ hd hcc ha⟩
  · rw [← clogBit_eq]
    exact condTo_clog s p q t hd

end Sys2Proof.Machine

/-! ## Loops and lane reads (09): words, results, waits, stops and frame -/

namespace Sys2Proof

/-- Format ST: the row and a sixteen-bit offset. -/
theorem fields_st (m : BitVec 6) (v : BitVec 10) (o : BitVec 16) :
    let w : BitVec (6 + 10 + 16) := m ++ v ++ o
    w.extractLsb' 26 6 = m ∧ w.extractLsb' 16 10 = v ∧ w.extractLsb' 0 16 = o := by
  simp (disch := decide) only [BitVec.extractLsb'_append_eq_of_le, BitVec.extractLsb'_append_eq_of_add_le,
    BitVec.extractLsb'_eq_self, Nat.reduceSub, and_self]

/-- Format SV: sd, the row and sa, which the decoder of SRFL reads as two fields. -/
theorem fields_sv (m : BitVec 6) (d : BitVec 8) (v : BitVec 10) (a : BitVec 8) :
    let w : BitVec (6 + 8 + 10 + 8) := m ++ d ++ v ++ a
    w.extractLsb' 26 6 = m ∧ w.extractLsb' 18 8 = d ∧ w.extractLsb' 8 10 = v ∧ w.extractLsb' 0 8 = a ∧
      w.extractLsb' 2 6 = a.extractLsb' 2 6 ∧ w.extractLsb' 0 2 = a.extractLsb' 0 2 := by
  simp (disch := decide) only [BitVec.extractLsb'_append_eq_of_le, BitVec.extractLsb'_append_eq_of_add_le,
    BitVec.extractLsb'_eq_self, Nat.reduceSub, and_self]

theorem decodeScalar_tloop (v : BitVec 10) (o : BitVec 16) : decodeScalar (0x1A#6 ++ v ++ o) = .tloop v o := by
  simp [decodeScalar, scalarRow, fields_st]

theorem decodeScalar_srfl (d : BitVec 8) (v : BitVec 10) : decodeScalar (0x1B#6 ++ d ++ v ++ 0#8) = .srfl d v := by
  simp [decodeScalar, scalarRow, fd, fn, fields_sv]

theorem decodeScalar_slane (d : BitVec 8) (v : BitVec 10) (a : BitVec 8) :
    decodeScalar (0x1C#6 ++ d ++ v ++ a) = .slane d v a := by
  simp [decodeScalar, scalarRow, fd, fields_sv]

/-! ### Lanes and masks -/

@[simp] theorem mem_lanesOf {m : Word} {k : Nat} : k ∈ lanesOf m ↔ k < 32 ∧ m.getLsbD k = true := by
  simp [lanesOf, allLanes]

theorem lanesOf_nodup (m : Word) : (lanesOf m).Nodup := List.nodup_range.filter _

theorem lanesOf_zero : lanesOf 0 = [] := by simp [lanesOf]

/-- The first of a mask's lanes is the lowest. -/
theorem lanesOf_eq_cons {m : Word} {k : Nat} (hk : k < 32) (hm : m.getLsbD k = true)
    (hlow : ∀ j < k, m.getLsbD j = false) : ∃ l, lanesOf m = k :: l := by
  have hhead : (lanesOf m).head? = some k := by
    rw [lanesOf, List.head?_filter, allLanes, List.find?_range_eq_some]
    exact ⟨hm, List.mem_range.mpr hk, fun j hj => by rw [hlow j hj]; rfl⟩
  exact List.head?_eq_some_iff.mp hhead

theorem getLsbD_maskOf_fold (l : List Nat) (m : Word) {k : Nat} (hk : k < 32) :
    (l.foldl (fun m i => m ||| BitVec.twoPow 32 i) m).getLsbD k = (m.getLsbD k || decide (k ∈ l)) := by
  induction l generalizing m with
  | nil => simp
  | cons i l ih =>
    rw [List.foldl_cons, ih, BitVec.getLsbD_or, BitVec.getLsbD_twoPow]
    by_cases hki : k = i
    · subst hki
      simp [hk]
    · simp [hki, Ne.symm hki]

theorem getLsbD_maskWhere (f : Nat → Bool) {k : Nat} (hk : k < 32) : (maskWhere f).getLsbD k = f k := by
  rw [maskWhere, maskOf, getLsbD_maskOf_fold _ _ hk]
  simp [allLanes, hk]

/-- A mask has a lane when its predicate holds for one. -/
theorem maskWhere_bne_zero (f : Nat → Bool) : (maskWhere f != 0) = (List.range 32).any f := by
  rw [Bool.eq_iff_iff, bne_iff_ne, List.any_eq_true, ← not_iff_not, not_not]
  constructor
  · rintro hz ⟨k, hk, hf⟩
    have := getLsbD_maskWhere f (List.mem_range.mp hk)
    simp [hz, hf] at this
  · intro hnone
    refine BitVec.eq_of_getLsbD_eq fun k hk => ?_
    rw [getLsbD_maskWhere f hk]
    simpa using fun hf => hnone ⟨k, List.mem_range.mpr hk, hf⟩

end Sys2Proof

namespace Sys2Proof.Machine

/-- A branch goes its offset, in words, from the branch (R62). -/
theorem branchTo_eq_dwI (s : State) {n : Nat} (o : BitVec n) :
    branchTo s o = dwI (s.w.regs.spc.toNat + 4 * o.toInt) := by
  have hoff : o.signExtend 64 <<< 2 = BitVec.ofInt 64 (4 * o.toInt) := by
    rw [BitVec.shiftLeft_eq_mul_twoPow, BitVec.mul_comm, BitVec.ofInt_mul]
    rfl
  rw [branchTo, hoff, dwI, BitVec.ofInt_add, BitVec.ofInt_natCast, BitVec.ofNat_toNat, BitVec.setWidth_eq]

/-! ### What an instruction that reads a row does before its effect -/

/-- A row above the wave's is ILLEGAL; lane instructions that still have the row hold the instruction up; a row that
ECC cannot correct traps (R15). -/
def onRow (s : State) (r : Nat) (held : Bool) (k : State → State) : State :=
  if s.w.rows ≤ r then illegal s else if held then waitHere s else rowRead s r k

section OnRow

variable {s : State} {r : Nat} (k : State → State)

theorem onRow_held (hr : r < s.w.rows) : onRow s r true k = waitHere s := by
  rw [onRow, if_neg (Nat.not_le.mpr hr), if_pos rfl]

theorem onRow_ready (hr : r < s.w.rows) (hb : r ∉ s.w.regs.bad) : onRow s r false k = k s := by
  rw [onRow, if_neg (Nat.not_le.mpr hr), if_neg Bool.false_ne_true, rowRead, if_neg (by simpa using hb)]

theorem onRow_illegal_enters (held : Bool) (hr : s.w.rows ≤ r) (h : MayTrap s) :
    Enters s (onRow s r held k) 1 (s.w.regs.spc &&& 0xFFFFFFFFFFFFFFFC) 0 0 0 s.w.regs.spc := by
  rw [onRow, if_pos hr]
  exact illegal_enters h

/-- ECC is cause 0x14, and names the wave as the failing agent. -/
theorem onRow_ecc_enters (hr : r < s.w.rows) (hb : r ∈ s.w.regs.bad) (h : MayTrap s) :
    Enters s (onRow s r false k) 0x14 (s.w.regs.spc &&& 0xFFFFFFFFFFFFFFFC) 0 0 s.w.word s.w.regs.spc := by
  rw [onRow, if_neg (Nat.not_le.mpr hr), if_neg Bool.false_ne_true, rowRead, if_pos (by simpa using hb)]
  exact scalarTrapAt_enters h s.w.regs.spc 0x14 0 0 s.w.word

end OnRow

/-- With the lane stream idle no lane instruction has a row. -/
theorem busyV_of_mayTrap {s : State} (h : MayTrap s) (r : Nat) : busyV s.w r = false := by
  obtain ⟨-, -, hl⟩ := h
  simp only [laneComplete, laneIdle, Bool.and_eq_true, List.isEmpty_iff] at hl
  obtain ⟨⟨hq, hi⟩, -⟩ := hl
  simp [busyV, writerV, hq, hi]

theorem writerV_of_not_busyV {w : Wave} {r : Nat} (h : busyV w r = false) : writerV w r = false :=
  (Bool.or_eq_false_iff.mp h).1

/-! ### The lane reads -/

/-- The word of SRFL: the lowest active lane of a row (R170). -/
def lowestActive (r : Nat) (s : State) : DWord :=
  (match lanesOf s.w.regs.em with | i :: _ => getV s.w r i | [] => 0 : Word).setWidth 64

/-- The word of SLANE: the lane of a row that s[a] names (R170). -/
def namedLane (r a : Nat) (s : State) : DWord :=
  (if s.w.populated.getLsbD (bits (getS s.w a) 4 0) then getV s.w r (bits (getS s.w a) 4 0) else 0 : Word).setWidth 64

theorem exec_srfl (d : BitVec 8) (v : BitVec 10) (s : State) :
    exec (.srfl d v) s = .next (onRow s v.toNat (writerV s.w v.toNat) (fun s =>
      scalarOp s [] d.toNat (fun t => advance (setS t d.toNat (lowestActive v.toNat t))))) := rfl

theorem exec_slane (d : BitVec 8) (v : BitVec 10) (a : BitVec 8) (s : State) :
    exec (.slane d v a) s = .next (onRow s v.toNat (writerV s.w v.toNat) (fun s =>
      scalarOp s [a.toNat] d.toNat (fun t => advance (setS t d.toNat (namedLane v.toNat a.toNat t))))) := rfl

/-- A lane's value is zero-extended. -/
theorem setWidth_eq_dw (x : Word) : x.setWidth 64 = dw x.toNat := (BitVec.ofNat_toNat 64 x).symm

theorem lowestActive_of_em_zero {s : State} (r : Nat) (h : s.w.regs.em = 0) : lowestActive r s = 0 := by
  rw [lowestActive, h, lanesOf_zero]
  rfl

theorem lowestActive_eq {s : State} (r : Nat) {k : Nat} (hk : k < 32) (hm : s.w.regs.em.getLsbD k = true)
    (hlow : ∀ j < k, s.w.regs.em.getLsbD j = false) : lowestActive r s = dw (getV s.w r k).toNat := by
  obtain ⟨l, hl⟩ := lanesOf_eq_cons hk hm hlow
  rw [lowestActive, hl]
  exact setWidth_eq_dw _

theorem bits_four_zero (x : DWord) : bits x 4 0 = x.toNat % 32 := by
  simp [bits, BitVec.extractLsb'_toNat]

theorem namedLane_eq (r a : Nat) (s : State) :
    namedLane r a s = if s.w.populated.getLsbD ((getS s.w a).toNat % 32) then
      dw (getV s.w r ((getS s.w a).toNat % 32)).toNat else 0 := by
  rw [namedLane, bits_four_zero, setWidth_eq_dw]
  split <;> rfl

/-! ### A pass of the loop -/

/-- The count of each lane of a list falls by 1. -/
def countDown (s : State) (r : Nat) (l : List Nat) : State := l.foldl (fun s i => setV s r i (getV s.w r i - 1)) s

/-- Counting down writes nothing but vector registers. -/
theorem countDown_eq (s : State) (r : Nat) (l : List Nat) :
    countDown s r l = modRegs s (fun g => { g with v := (countDown s r l).w.regs.v }) := by
  induction l generalizing s with
  | nil => rfl
  | cons i l ih => exact ih (setV s r i (getV s.w r i - 1))

/-- The lanes of the list fall by 1 in their row, and no other lane of any row changes (R169). -/
theorem getV_countDown (s : State) (r : Nat) {l : List Nat} (hl : l.Nodup) (hlt : ∀ i ∈ l, i < 32) (q : Nat) {k : Nat}
    (hk : k < 32) :
    getV (countDown s r l).w q k = if q = r ∧ k ∈ l then getV s.w q k - 1 else getV s.w q k := by
  induction l generalizing s with
  | nil => simp [countDown]
  | cons i l ih =>
    obtain ⟨hi, hl⟩ := List.nodup_cons.mp hl
    obtain ⟨hi32, hlt⟩ := List.forall_mem_cons.mp hlt
    refine (ih (setV s r i (getV s.w r i - 1)) hl hlt).trans ?_
    rw [getV_setV _ _ _ _ _ _ hi32 hk]
    by_cases hki : k = i
    · subst hki
      by_cases hq : q = r <;> simp [hi, hq]
    · simp [hki]

/-- Whether a lane is left in em after a pass: it was in it, and its count does not reach 0 (R169). -/
def staysIn (w : Wave) (r k : Nat) : Bool := w.regs.em.getLsbD k && getV w r k - 1 != 0

/-- A pass of TLOOP over a row: the kill, or the counts, em and where SPC goes (R161, R169). -/
def loopPass (r : Nat) (o : BitVec 16) (s : State) : State :=
  let em := maskWhere (staysIn s.w r)
  if em != 0 && killsBack s && killNow s then killWave s
  else
    let t := setEm (countDown s r (lanesOf s.w.regs.em)) em
    if em != 0 then goto t (branchTo s o) else advance t

theorem exec_tloop (v : BitVec 10) (o : BitVec 16) (s : State) :
    exec (.tloop v o) s = .next (onRow s v.toNat (busyV s.w v.toNat) (loopPass v.toNat o)) := rfl

/-- A pass that is not killed (R169). -/
theorem loopPass_eq {s : State} (r : Nat) (o : BitVec 16) (h : killsBack s = false ∨ killNow s = false) :
    loopPass r o s = goto (setEm (countDown s r (lanesOf s.w.regs.em)) (maskWhere (staysIn s.w r)))
      (if (List.range 32).any (staysIn s.w r) then dwI (s.w.regs.spc.toNat + 4 * o.toInt) else s.w.regs.spc + 4) := by
  have hkill : ¬ ((maskWhere (staysIn s.w r) != 0 && killsBack s && killNow s) = true) := by
    obtain h | h := h <;> simp [h]
  rw [loopPass, if_neg hkill]
  dsimp only
  rw [maskWhere_bne_zero, branchTo_eq_dwI, countDown_eq]
  split <;> rfl

/-- A pass changes the counts, em and SPC alone (R169). -/
theorem loopPass_effect {s : State} (r : Nat) (o : BitVec 16) (h : killsBack s = false ∨ killNow s = false) :
    let t := loopPass r o s
    RegsOnly s t ∧
      (∀ q k, k < 32 → getV t.w q k =
        if q = r ∧ s.w.regs.em.getLsbD k = true then getV s.w q k - 1 else getV s.w q k) ∧
      (∀ k, k < 32 → t.w.regs.em.getLsbD k = (staysIn s.w r k && s.w.populated.getLsbD k)) ∧
      t.w.regs = { s.w.regs with
        v := t.w.regs.v, em := t.w.regs.em
        spc := if (List.range 32).any (staysIn s.w r) then dwI (s.w.regs.spc.toNat + 4 * o.toInt)
          else s.w.regs.spc + 4 } := by
  intro t
  simp only [t, loopPass_eq r o h]
  refine ⟨?_, fun q k hk => ?_, fun k hk => ?_, ?_⟩
  · rw [countDown_eq]
    rfl
  · refine (getV_countDown s r (lanesOf_nodup _) (fun i hi => (mem_lanesOf.mp hi).1) q hk).trans ?_
    simp only [mem_lanesOf, hk, true_and]
  · rw [countDown_eq]
    exact (BitVec.getLsbD_and ..).trans (by rw [getLsbD_maskWhere _ hk]; rfl)
  · rw [countDown_eq]
    rfl

/-! ### The obligation -/

/-- TLOOP, SRFL and SLANE each act on their row, and wait for none of the lane stream once it is idle. -/
theorem exec_eq_onRow (s : State) (d a : BitVec 8) (v : BitVec 10) (o : BitVec 16) :
    ∀ i ∈ [Instr.tloop v o, .srfl d v, .slane d v a],
      ∃ held k, exec i s = .next (onRow s v.toNat held k) ∧ (MayTrap s → held = false) := by
  have hbusy (h : MayTrap s) := busyV_of_mayTrap h v.toNat
  simp only [List.forall_mem_cons]
  exact ⟨⟨_, _, exec_tloop v o s, hbusy⟩, ⟨_, _, exec_srfl d v s, fun h => writerV_of_not_busyV (hbusy h)⟩,
    ⟨_, _, exec_slane d v a s, fun h => writerV_of_not_busyV (hbusy h)⟩, fun _ h => absurd h List.not_mem_nil⟩

/-- Settles O18: each form is `onRow` with its own effect, a pass of the loop or a scalar operation of the lane it reads. -/
theorem loopCountsAndLaneReads : Obligations.LoopCountsAndLaneReads := by
  unfold Obligations.LoopCountsAndLaneReads
  refine ⟨fun s v o hr hv hb hkill => ?_, fun s d a v o => ⟨decodeScalar_tloop v o, decodeScalar_srfl d v,
    decodeScalar_slane d v a, fun hr hv => ?_, fun hr hv => ⟨?_, ?_⟩, fun i hi hr hm => ?_, fun i hi hr hb hm => ?_⟩,
    fun s d a v hr hv hb hs => ?_⟩
  · refine ⟨_, ?_, loopPass_effect v.toNat o hkill⟩
    rw [exec_tloop, hv, onRow_ready _ hr hb]
  · rw [exec_tloop, hv, onRow_held _ hr]
    rfl
  · rw [exec_srfl, hv, onRow_held _ hr]
    rfl
  · rw [exec_slane, hv, onRow_held _ hr]
    rfl
  · obtain ⟨held, k, hexec, -⟩ := exec_eq_onRow s d a v o i hi
    exact ⟨_, hexec, onRow_illegal_enters k held hr hm⟩
  · obtain ⟨held, k, hexec, hheld⟩ := exec_eq_onRow s d a v o i hi
    obtain rfl := hheld hm
    exact ⟨_, hexec, onRow_ecc_enters k hr hb hm⟩
  · have hd : Settled s.w [] d.toNat := ⟨fun _ hn => absurd hn List.not_mem_nil, hs.2⟩
    rw [exec_srfl, exec_slane, hv, onRow_ready _ hr hb, onRow_ready _ hr hb]
    exact ⟨fun hem => scalarTo_scalarOp hd _ (lowestActive_of_em_zero _ hem),
      fun k hk hem hlow => scalarTo_scalarOp hd _ (lowestActive_eq _ hk hem hlow),
      scalarTo_scalarOp hs _ (namedLane_eq _ _ _)⟩

end Sys2Proof.Machine
